-- ==== Sys2Proof/Word.lean ====
section
/-! DEFINITION. Word types of the GX9 and the plainest arithmetic on them (R58, R87, R92). -/

namespace Sys2Proof

/-- One byte of memory. -/
abbrev Byte := BitVec 8
/-- A window register (R133). -/
abbrev Word := BitVec 64
/-- A vector group, and a 64-byte block read as one little-endian number (R69). -/
abbrev Block := BitVec 512
/-- A 96-bit instruction word (R92). -/
abbrev InstWord := BitVec 96

/-- `v` as a natural number below `2 ^ n`. -/
abbrev low (n v : Nat) : Nat := v % 2 ^ n

end Sys2Proof
end

