-- ==== Sys2Proof/Syntax.lean ====
section
/-! DEFINITION. The syntax of the machine: operand forms, the records that events carry, and `Instr`, one constructor per
row of spec/opcode_table.json. The last 263 constructors are Drilen instructions (R117 to R129); those before them are the
steps that the device takes by itself or that the outside world causes (spec/95_what_each_step_holds.md). -/

namespace Sys2Proof

/-- A window register field (R93). -/
abbrev WReg := BitVec 7
/-- A vector-group field (R93). -/
abbrev VReg := BitVec 4
/-- A capability register (R93). -/
abbrev KReg := BitVec 4
/-- A mask register (R93). -/
abbrev MReg := BitVec 3
/-- An accumulator tile (R93). -/
abbrev TileReg := BitVec 3
/-- A hand-off queue (R93). -/
abbrev QReg := BitVec 2
/-- A gate (R93). -/
abbrev GReg := BitVec 2
/-- A copy channel (R93). -/
abbrev ChReg := BitVec 3
/-- A mailbox (R93). -/
abbrev MbReg := BitVec 3

/-- Rounding modes, codes 0 to 3 (R63). -/
inductive Rm where
  | rne | rtz | rup | rdn
  deriving DecidableEq, Repr

/-- Element types, codes 0 to 13 (R25). -/
inductive Ty where
  | s8 | s16 | s32 | s64 | n8 | n16 | n32 | n64 | bf16 | f16 | f32 | f64 | e4m3 | e5m2
  deriving DecidableEq, Repr

/-- The types of the scalar floating-point majors, codes 8 to 11 (R119). -/
inductive FTy where
  | bf16 | f16 | f32 | f64
  deriving DecidableEq, Repr

/-- The types of the atomics, codes 2, 3, 6, 7, 10 and 11 (R181). -/
inductive ATy where
  | s32 | s64 | n32 | n64 | f32 | f64
  deriving DecidableEq, Repr

/-- Conditions, codes 0 to 7 (R100, R144). -/
inductive Cond where
  | eq | ne | lt | ge | gt | le | un | ord
  deriving DecidableEq, Repr

/-- A format-M memory operand without its data register (R95). -/
structure MemOp where
  k : KReg
  x : WReg
  xen : Bool
  sh : BitVec 3
  disp : BitVec 48
  deriving DecidableEq, Repr

/-- The second operand of a format-V form, by bsel (R97). -/
inductive BOp where
  | group (v : VReg)
  | reg (w : WReg)
  | imm (i : BitVec 48)
  deriving DecidableEq, Repr

/-- The second operand of a compare-skip, by its i bit (R100, R143). -/
inductive SkipOp where
  | reg (b : WReg)
  | imm (i : BitVec 48)
  deriving DecidableEq, Repr

/-- A two-operand lane form (R192). -/
structure VBin where
  vd : VReg
  va : VReg
  b : BOp
  mask : MReg
  ty : Ty
  rm : Rm
  z : Bool
  deriving DecidableEq, Repr

/-- A one-operand lane form (R192, R193). -/
structure VUn where
  vd : VReg
  va : VReg
  mask : MReg
  ty : Ty
  rm : Rm
  z : Bool
  deriving DecidableEq, Repr

/-- A three-operand lane form (R195). -/
structure VTer where
  vd : VReg
  va : VReg
  b : BOp
  vc : VReg
  mask : MReg
  ty : Ty
  rm : Rm
  z : Bool
  deriving DecidableEq, Repr

/-- A lane comparison into a mask register (R196). -/
structure VCmp where
  md : MReg
  va : VReg
  b : BOp
  mask : MReg
  ty : Ty
  z : Bool
  deriving DecidableEq, Repr

/-- The line displacement and slot of format B (R98). -/
structure Target where
  disp : BitVec 45
  slot : BitVec 3
  deriving DecidableEq, Repr

/-- What a gate sweep packet carries (R248). -/
structure SweepPacket where
  x0 : Nat
  y0 : Nat
  xw : Nat
  yh : Nat
  op : BitVec 3
  phase : Nat
  deriving DecidableEq, Repr

/-- A fabric packet: the header fields of R390 and its data flits. The last six fields are the model's, since R390 gives no
place to what they say (log 6): the sender tag of a send end carried in CAP (R227), the bytes that a window access moves, the
operation and type of a window atomic, whether a flag or a block tag goes with it, and the comparand of an acas. -/
structure Packet where
  type : BitVec 8
  world : BitVec 8
  drow : BitVec 5
  dcol : BitVec 5
  srow : BitVec 5
  scol : BitVec 5
  det : Bool
  via : BitVec 5
  vc : BitVec 2
  cls : BitVec 2
  col : Bool
  capv : Bool
  txid : BitVec 14
  status : BitVec 8
  hitch : BitVec 32
  gen : BitVec 12
  smem : BitVec 7
  dmem : BitVec 7
  src : BitVec 18
  off : BitVec 40
  foff : BitVec 40
  btag : BitVec 16
  cap : BitVec 128
  vrt : BitVec 64
  data : BitVec 64
  flits : List (BitVec 512)
  capTag : BitVec 16
  width : Nat
  aop : BitVec 8
  flagged : Bool
  tagged : Bool
  cmp : BitVec 64
  deriving DecidableEq, Repr

/-- Which message a ring event is about: one in transit inside the package, or one that a packet brings (R391). -/
inductive MsgRef where
  | here (id : Nat)
  | fabric (p : Packet)
  deriving DecidableEq, Repr

/-- A 64-byte work-queue entry as the service core reads it (R413, R415). -/
structure QueueEntry where
  op : BitVec 8
  len : BitVec 8
  resv : BitVec 16
  tag : BitVec 32
  target : BitVec 64
  body : BitVec 384
  deriving DecidableEq, Repr

/-- A register access: a write in the management core's physical space (R348, R356, R377, R389, R441) or in BAR0 of a function (R411), or a read of
BAR0 or of the configuration space of a function, or a read of the security status mailbox by the board, which is answered (R411, R432). -/
inductive RegAddr where
  | mgmt (pa : Nat)
  | bar (fn off : Nat)
  | barRead (fn off : Nat)
  | config (fn off : Nat)
  | board (off : Nat)
  deriving DecidableEq, Repr

/-- How a host is lost (R420, R425): its link goes down, or its function is reset; each names the region whose window is lost. -/
inductive HostLoss where
  | linkDown (region : Nat)
  | functionReset (region : Nat)
  deriving DecidableEq, Repr

/-- The messages that VENDOR_DEFINED_REQUEST stands for: the request for a receipt (R427), a new image (R433), the IDE_KM message that sets the key of
the function's stream (R410), and a secured message that fails its AEAD check (R425). -/
inductive VendorRequest where
  | receipt (nonce : BitVec 256)
  | image (verifies : Bool) (minBarns : Nat)
  | ideKey (key : BitVec 256)
  | corrupt
  deriving DecidableEq, Repr

/-- The causes of a security alarm (R426). -/
inductive Alarm where
  | supply | clock | temperature | authentication | counter
  deriving DecidableEq, Repr

/-- How a stage of R431 may fail: each failure has its stage and its reason (R431, R434); a stage that hangs neither passes nor fails, and its start ends
by the watchdog or by an alarm. -/
inductive StageEnd where
  | controllerFirmware | configAuthentication | configVersion | coreFirmware | hbm | hostLink
  | hang (stage : Nat)
  deriving DecidableEq, Repr

/-- What the start stages of R431 find: the stage that does not pass, if any, the barns that fail stage 5, and whether the failed-start
counter authenticates (R433). -/
structure StartOutcome where
  failAt : Option StageEnd
  retired : List Nat
  counterOk : Bool
  deriving DecidableEq, Repr

/-- The instructions and steps of the GX9, one constructor per row of spec/opcode_table.json. The steps of the device stand
first: code compiled from Lean can build only the first 245 constructors of a type, and the meanings build steps only. -/
inductive Instr where
  /-- EVENT_DELIVERY (R284). At a turn, delivers the lowest pending event through EVT_VEC. -/
  | eventDelivery (c : Nat)
  /-- LINE_FILL (R89). A fetch-buffer line arrives and is parity-checked; a mismatch is refetched once. -/
  | lineFill (core loc : Nat) (e1 e2 : BitVec 512)
  /-- MEMORY_REPLY (R161). The reply to an access that left the core arrives, and the waiting context becomes Ready or parks with a late fault. -/
  | memoryReply (c : Nat)
  /-- POSTED_WRITE_ACCEPT (R343). The network interface accepts a posted write after its checks, releasing the issuing context. -/
  | postedWriteAccept (c : Nat)
  /-- WRITE_PERFORMED (R295). A posted write is performed at its home memory. -/
  | writePerformed (id : Nat)
  /-- FLAG_INCREMENT (R168). Once the data is visible, the flag word is incremented and the issuer is answered. -/
  | flagIncrement (c : Nat)
  /-- VECTOR_RESULT (R191). The shared unit writes the results of a register form, or raises its late block-format fault. -/
  | vectorResult (c : Nat)
  /-- VECTOR_PIPE_GRANT (R362). The arbiter grants vector entries of the cores to free pipes. -/
  | vectorPipeGrant (barn : Nat)
  /-- TILE_OP_COMPLETE (R212). An acczero, accld or accst completes and unlocks its tile. -/
  | tileOpComplete (c : Nat)
  /-- MATRIX_K_BLOCK (R382). The sequencer loads, steps and adds one K-block into the tile. -/
  | matrixKBlock (c : Nat)
  /-- MATRIX_COMPLETE (R218). A matrix form completes, unlocking its tile and releasing the waiting context. -/
  | matrixComplete (c : Nat)
  /-- LOCK_GRANT (R170). A waiting region lock is granted once a register is free and earlier accesses are performed. -/
  | lockGrant (c : Nat)
  /-- HANDOFF_ENTRY_GIVEN (R253). A pushed entry becomes available to a pop once the pusher's earlier accesses are performed. -/
  | handoffEntryGiven (core : Nat) (q : QReg) (idx : Nat)
  /-- GATE_ARRIVAL_COUNTS (R246). An arrival counts once the arriving context's earlier accesses are performed. -/
  | gateArrivalCounts (c : Nat) (g : GReg)
  /-- GATE_SWEEP (R248). A gate sweep packet is received and compared with the core's descriptor. -/
  | gateSweep (core : Nat) (g : GReg) (p : SweepPacket)
  /-- GATE_RELEASE (R247). A phase is released with its result to every taking-part core. -/
  | gateRelease (core : Nat) (g : GReg)
  /-- RING_SLOT_WRITE (R230). An untimed message arrives and is written into a ring slot, or is refused. -/
  | ringSlotWrite (m : MsgRef)
  /-- MOVE_BYTE_COPY (R372). The move engine copies a buffer into the receiving barn's pool. -/
  | moveByteCopy (id : Nat)
  /-- TIMED_MESSAGE_ARRIVAL (R314). A timed message arrives at its ring and becomes Pending, is annihilated or is refused. -/
  | timedMessageArrival (m : MsgRef)
  /-- RECALL_ARRIVAL (R314). A recall arrives at a ring and annihilates, dooms, parks or is refused. -/
  | recallArrival (m : MsgRef)
  /-- ACKNOWLEDGEMENT (R315). An acknowledgement of annihilation returns to the sender with any capability. -/
  | acknowledgement (m : MsgRef)
  /-- BACK_PRESSURE_RESEND (R399). A message refused with back-pressure is resent after 64 cycles. -/
  | backPressureResend (id : Nat)
  /-- FLIP_SWEEP (R324). Each barn flips its colour and resets its new minimum. -/
  | flipSweep (launch : Nat)
  /-- COUNT_SWEEP (R324). Barns report in-transit counts and minima; a zero sum ends the round with a new GVT. -/
  | countSweep (launch : Nat)
  /-- DEFERRED_RELEASE (R242). A deferred action is performed at its target in release order, or fails and is dropped. -/
  | deferredRelease (launch : Nat)
  /-- FAULT_RECORD_POST (R276). A waiting fault record is posted on the supervisor's ring once a slot is free. -/
  | faultRecordPost (c : Nat)
  /-- TIMER (R37). CYCLE reaches TIMER_CMP; the TIMER event becomes pending and TIMER_CMP clears. -/
  | timer (c : Nat)
  /-- SLEEP_EXPIRY (R155). The count of a sleep runs out and the context returns to Ready. -/
  | sleepExpiry (c : Nat)
  /-- SLEEP_DEPTH_ENTRY (R367). An idle core enters a deeper sleep depth after ENTRY_DELAY expires. -/
  | sleepDepthEntry (core : Nat)
  /-- CORE_WAKE (R18). A sleeping core wakes after the wake latency of its depth. -/
  | coreWake (core : Nat)
  /-- EXIT_TEST (R437). The exit test of a barn waking from depth 2 completes, passing it or retiring it. -/
  | exitTest (barn : Nat) (pass : Bool)
  /-- TIMING_REPLAY (R440). A timing detector flags a late transition and the barn re-executes the cycle. -/
  | timingReplay (barn : Nat)
  /-- SCRUB_MAINTENANCE_SLOT (R439). Every 64 cycles each core-memory bank scrubs one word through its maintenance port. -/
  | scrubMaintenanceSlot (core bank : Nat)
  /-- SCRUB_BLOCK (R439). Scrub reads, corrects and rewrites one barn-memory or HBM block. -/
  | scrubBlock (loc : Nat) (uncorrectable : Bool)
  /-- SLOT_TABLE_TAKES_EFFECT (R16). A committed slot table takes effect when the rotation counter is 0. -/
  | slotTableTakesEffect (core : Nat)
  /-- SLOT_COMMIT (R359). A write of 1 commits every staged slot-table entry, or is refused whole. -/
  | slotCommit (core : Nat)
  /-- CTX_LOAD (R358). CTX_CMD operation 1 creates or re-homes a context from a bind record and image. -/
  | ctxLoad (core : Nat) (n : BitVec 6) (adr : Nat)
  /-- CTX_SAVE (R358). CTX_CMD operation 2 evicts a context and writes its bind record and image. -/
  | ctxSave (core : Nat) (n : BitVec 6) (adr : Nat)
  /-- CTX_RELEASE (R358). CTX_CMD operation 3 makes an Ended or Halted context absent. -/
  | ctxRelease (core : Nat) (n : BitVec 6)
  /-- CTX_CMD_COMPLETE (R358). A context command finishes and BUSY clears. -/
  | ctxCmdComplete (core : Nat)
  /-- TRANSLATION_MISS (R344). A request misses both levels and starts a walk or parks behind a miss marker. -/
  | translationMiss (c : Nat)
  /-- TABLE_WALK_DONE (R344). A walk installs its leaf and releases its waiters, or stops and makes a fault entry. -/
  | tableWalkDone (stn asid granule : Nat)
  /-- NI_RETRY (R345). A request refused by a full parked-request store is retried after a back-off. -/
  | niRetry (c : Nat)
  /-- STATION_ACK (R266). A station acknowledges an invalidation once its egress has drained. -/
  | stationAck (c stn : Nat)
  /-- FB_POP (R348). A read of the high word removes the oldest fault entry. -/
  | fbPop (stn : Nat)
  /-- FB_FAIL (R346). A write fails a granule and ends every request parked for it. -/
  | fbFail (stn : Nat) (v : BitVec 64)
  /-- STN_REPLAY_ALL (R346). STN_CMD value 1 replays every parked request and clears DROPPED. -/
  | stnReplayAll (stn : Nat)
  /-- STN_INVALIDATE_ALL (R348). STN_CMD value 2 invalidates every entry of the station. -/
  | stnInvalidateAll (stn : Nat)
  /-- REGISTER_WRITE (R348). A write to a register that has no row of its own. -/
  | registerWrite (adr : RegAddr) (v : BitVec 64)
  /-- BTE_REQUEST (R376). A block request reaches a block-transfer engine and is accepted or refused. -/
  | bteRequest (eng id : Nat)
  /-- BTE_RETRY (R376). After HINT × 16 cycles the requester resends a refused block request. -/
  | bteRetry (eng id : Nat)
  /-- CHANNEL_BLOCK_WRITE (R257). A channel writes a block and advances its watermark, or stops on a fault. -/
  | channelBlockWrite (core : Nat) (ch : ChReg) (blk : Nat)
  /-- CHANNEL_COMPLETE (R257). A channel's watermark reaches the end, with any flag increment and pin release. -/
  | channelComplete (core : Nat) (ch : ChReg)
  /-- MCAST_ACK (R381). A multicast destination acknowledges; the channel completes at the last. -/
  | mcastAck (core : Nat) (ch : ChReg) (dst : Nat)
  /-- WINDOW_READ (R398). A TYPE 0x01 window read packet is checked and served at its member. -/
  | windowRead (p : Packet)
  /-- WINDOW_WRITE (R398). A TYPE 0x02 window write of up to 8 bytes is performed at its member. -/
  | windowWrite (p : Packet)
  /-- WINDOW_WRITE_64 (R398). A TYPE 0x03 64-byte window write, with its flag increment, is performed at its member. -/
  | windowWrite64 (p : Packet)
  /-- WINDOW_ATOMIC (R398). A TYPE 0x04 window atomic or reduction is performed at its member. -/
  | windowAtomic (p : Packet)
  /-- REPLY_WITH_DATA (R391). A TYPE 0x05 reply with data reaches its requester. -/
  | replyWithData (p : Packet)
  /-- REPLY_STATUS (R391). A TYPE 0x06 reply with status reaches its requester. -/
  | replyStatus (p : Packet)
  /-- REFUSAL (R391). A TYPE 0x0B back-pressure or refusal word reaches the sender. -/
  | refusal (p : Packet)
  /-- BLOCK_COPIED (R391). A TYPE 0x0F block copied by an engine arrives at its destination. -/
  | blockCopied (p : Packet)
  /-- HITCH_PREPARED (R365). Hitch control subtype 1 reports a prepared member to the lead. -/
  | hitchPrepared (p : Packet)
  /-- HITCH_COMMIT (R365). Hitch control subtype 2: each package commits its slot tables and clears stopped flags. -/
  | hitchCommit (p : Packet)
  /-- HITCH_ABORT (R365). Hitch control subtype 3: each package releases its contexts and paddock. -/
  | hitchAbort (p : Packet)
  /-- HITCH_JOIN_REQUEST (R406). Hitch control subtype 4 asks a member to accept a join. -/
  | hitchJoinRequest (p : Packet)
  /-- HITCH_DETACH_REQUEST (R405). Hitch control subtype 5 asks a member to accept a detach. -/
  | hitchDetachRequest (p : Packet)
  /-- HITCH_ACKNOWLEDGE (R405). Hitch control subtype 6 completes a join, detach or withdrawal step. -/
  | hitchAcknowledge (p : Packet)
  /-- EXIT_NOTICE (R407). Hitch control subtype 7 marks the sender Holding and raises HITCH_NOTICE in attached groups. -/
  | exitNotice (p : Packet)
  /-- WITHDRAW (R407). Hitch control subtype 8 marks the sender Gone and is acknowledged. -/
  | withdraw (p : Packet)
  /-- HITCH_PREPARE (R365). A package reserves a paddock and creates a member's contexts stopped. -/
  | hitchPrepare (launch x y : Nat) (codeVa : BitVec 48)
  /-- LINK_REPLAY (R388). A receiver requests a replay after a bad codeword or CRC, and the sender resends. -/
  | linkReplay (port : Nat)
  /-- PORT_RETRAIN (R388). After 16 replays in a row the port retrains, or is taken down. -/
  | portRetrain (port : Nat) (ok : Bool)
  /-- PORT_DOWN (R395). A port goes down; routes detour and hitches with unreachable members are terminated. -/
  | portDown (port : Nat)
  /-- LAUNCH (R416). A work-queue entry with OP 1 is taken and passed for placement. -/
  | launch (queue : Nat) (e : QueueEntry)
  /-- FEED (R416). A work-queue entry with OP 2 is sent on the launch's feed ring. -/
  | feed (queue : Nat) (e : QueueEntry)
  /-- CANCEL (R416). A work-queue entry with OP 3 terminates the launch. -/
  | cancel (queue : Nat) (e : QueueEntry)
  /-- DOORBELL (R413). A doorbell write moves the tail of a work queue, or is discarded. -/
  | doorbell (fn queue : Nat) (v : BitVec 64)
  /-- LAUNCH_PLACEMENT (R350). The management core checks a launch record and places it once a paddock is free. -/
  | launchPlacement (launch x y : Nat) (codeVa : BitVec 48)
  /-- LAUNCH_COMPLETION (R293). Once every launch context is Halted or Ended, the launch is closed. -/
  | launchCompletion (launch : Nat)
  /-- COMPLETION_RECORD (R417). A completion record is written to a completion ring once it has room. -/
  | completionRecord (queue : Nat)
  /-- PADDOCK_PREEMPT (R287). The management core pre-empts a launch by paddock, with notice if it is not reproducible. -/
  | paddockPreempt (launch : Nat)
  /-- GRACE_EXPIRY (R291). The grace interval ends and eviction of the paddock begins. -/
  | graceExpiry (launch : Nat)
  /-- QUANTUM_EXPIRY (R364). A launch has held its paddock for one quantum and may be pre-empted. -/
  | quantumExpiry (launch : Nat)
  /-- OPEN_LATEST (R418). Version control CMD 1 opens the latest version for the host. -/
  | openLatest (region : Nat)
  /-- OPEN_PRIVATE (R418). Version control CMD 2 opens a private version for the host. -/
  | openPrivate (region : Nat)
  /-- PUBLISH (R419). Version control CMD 3 publishes the host's private version. -/
  | publish (region : Nat)
  /-- CLOSE (R418). Version control CMD 4 closes the host's version. -/
  | close (region : Nat)
  /-- HOST_LOSS (R420). A host link down or function reset discards its private version. -/
  | hostLoss (region : HostLoss)
  /-- EXTENT_WITHDRAW (R421). Withdrawal of an extent begins; later requests return poison. -/
  | extentWithdraw (first len : Nat)
  /-- WITHDRAW_COMPLETE (R421). Accepted requests have drained; the extent is scrubbed and a receipt issued. -/
  | withdrawComplete (first len : Nat)
  /-- GET_VERSION (R423). SPDM GET_VERSION request. -/
  | getVersion (fn : Nat)
  /-- GET_CAPABILITIES (R423). SPDM GET_CAPABILITIES request. -/
  | getCapabilities (fn : Nat)
  /-- NEGOTIATE_ALGORITHMS (R423). SPDM NEGOTIATE_ALGORITHMS request. -/
  | negotiateAlgorithms (fn : Nat)
  /-- GET_DIGESTS (R423). SPDM GET_DIGESTS request. -/
  | getDigests (fn : Nat)
  /-- GET_CERTIFICATE (R423). SPDM GET_CERTIFICATE request. -/
  | getCertificate (fn : Nat)
  /-- CHALLENGE (R423). SPDM CHALLENGE request. -/
  | challenge (fn : Nat)
  /-- GET_MEASUREMENTS (R424). SPDM GET_MEASUREMENTS request for the measurement blocks. -/
  | getMeasurements (fn : Nat) (index : Nat)
  /-- KEY_EXCHANGE (R423). SPDM KEY_EXCHANGE opens a session, or is answered Busy. -/
  | keyExchange (fn : Nat)
  /-- FINISH (R423). SPDM FINISH request. -/
  | finish (session : Nat)
  /-- KEY_UPDATE (R428). SPDM KEY_UPDATE request, required after resume. -/
  | keyUpdate (session : Nat)
  /-- HEARTBEAT (R423). SPDM HEARTBEAT request. -/
  | heartbeat (session : Nat)
  /-- END_SESSION (R425). SPDM END_SESSION ends a session, losing a bound TDI's session. -/
  | endSession (session : Nat)
  /-- VENDOR_DEFINED_REQUEST (R433). SPDM vendor-defined request, including scrub receipts and image updates in minimal mode. -/
  | vendorDefinedRequest (session : Nat) (r : VendorRequest)
  /-- UNSUPPORTED_REQUEST (R423). Any other SPDM request is answered with ERROR UnsupportedRequest. -/
  | unsupportedRequest (fn : Nat) (code : Nat)
  /-- HEARTBEAT_TIMEOUT (R425). A HEARTBEAT period passes without a message and the session is lost. -/
  | heartbeatTimeout (session : Nat)
  /-- LOCK_INTERFACE_REQUEST (R425). TDISP LOCK moves a TDI to CONFIG_LOCKED. -/
  | lockInterfaceRequest (session w : Nat)
  /-- GET_DEVICE_INTERFACE_REPORT (R425). TDISP request for the interface report. -/
  | getDeviceInterfaceReport (session w : Nat)
  /-- START_INTERFACE_REQUEST (R425). TDISP START moves a TDI to RUN. -/
  | startInterfaceRequest (session w : Nat)
  /-- STOP_INTERFACE_REQUEST (R425). TDISP STOP terminates, scrubs, issues a receipt and unlocks the TDI. -/
  | stopInterfaceRequest (session w : Nat)
  /-- IDE_INTEGRITY_FAILURE (R425). An IDE integrity failure on a TDI's stream puts it into ERROR. -/
  | ideIntegrityFailure (w : Nat)
  /-- SECURITY_ALARM (R426). A supply, clock, temperature, authentication or counter alarm puts every TDI into ERROR. -/
  | securityAlarm (k : Alarm)
  /-- TEST_MODE_ENTRY (R426). Entry to scan or memory-test mode wipes keys, SRAM and register files first. -/
  | testModeEntry
  /-- THERMAL_THROTTLE (R438). Power above budget or temperature above 95 °C delays Rows steps. -/
  | thermalThrottle (on : Bool)
  /-- POWER_GOOD (R431). After power-good the package runs its start stages in order. -/
  | powerGood (o : StartOutcome)
  /-- START_WATCHDOG (R431). The 30 s start watchdog expires and the start fails with reason 8. -/
  | startWatchdog
  /-- FIRST_QUEUE_ENABLE (R432). PF 0 first sets EN on a queue and the package leaves the safe listening state. -/
  | firstQueueEnable (queue : Nat)
  /-- PACKAGE_SLEEP (R436). Every barn at depth 2 and every port idle: the package sleeps and sessions suspend. -/
  | packageSleep
  /-- PACKAGE_RESUME (R428). The package resumes from sleep; sessions need KEY_UPDATE. -/
  | packageResume
  /-- POWER_LOSS (R430). Power is lost; keys are lost and resident launches are reported dead at the next start. -/
  | powerLoss
  /-- UNUSED_TURN (R360). A turn of a position at which no eligible context issues; a floating position's binding still moves to the longest-waiting Ready member. -/
  | unusedTurn (core : Nat)
  /-- PADDOCK_REBIND (R289). The management core re-binds a pre-empted launch on a rectangle, restores its state and rewrites every mesh-SRAM address before any context issues. -/
  | paddockRebind (launch x y : Nat)
  /-- CXL_MEM_ACCESS (R419). A host's CXL.mem read or write-back reaches the window of an exported region; it waits during a publication and is discarded after the host's loss. -/
  | cxlMemAccess (region off : Nat) (wr : Bool) (line : BitVec 512)
  /-- UNKNOWN_OP (R415). A work-queue entry with an unknown OP or a non-zero reserved byte is answered with a refusal record and has no other effect. -/
  | unknownOp (queue : Nat) (e : QueueEntry)
  /-- UNKNOWN_PACKET_TYPE (R391). A router receives a packet of an unassigned TYPE, drops it and counts it in REPLAYS. -/
  | unknownPacketType (p : Packet)
  /-- WIPE_PASS_END (R268). The write-and-verify pass of a wipe ends; w[d] receives the count of blocks not verified and the issuer resumes. -/
  | wipePassEnd (c : Nat)
  /-- STOP_COMPLETION (R425). The scrub of a world under STOP finishes; the receipt is issued, epoch(w) advances and the TDI returns to CONFIG_UNLOCKED, unbound from its session. -/
  | stopCompletion (w : Nat)
  /-- NOP (R157). Takes one turn and changes no state. -/
  | nop
  /-- ADD (R134). Writes w[a] + w[b] modulo 2^64 to w[d]. -/
  | add (d a b : WReg)
  /-- SUB (R134). Writes w[a] - w[b] modulo 2^64 to w[d]. -/
  | sub (d a b : WReg)
  /-- MUL (R134). Writes the low 64 bits of the product to w[d]. -/
  | mul (d a b : WReg)
  /-- MULH (R134). Writes the high 64 bits of the signed 128-bit product to w[d]. -/
  | mulh (d a b : WReg)
  /-- MULHN (R134). Writes the high 64 bits of the natural 128-bit product to w[d]. -/
  | mulhn (d a b : WReg)
  /-- DIV (R135). Writes the signed quotient rounded towards zero to w[d]; it never faults. -/
  | div (d a b : WReg)
  /-- DIVN (R135). Writes the natural quotient to w[d]; it never faults. -/
  | divn (d a b : WReg)
  /-- REM (R135). Writes the signed remainder to w[d]. -/
  | rem (d a b : WReg)
  /-- REMN (R135). Writes the natural remainder to w[d]. -/
  | remn (d a b : WReg)
  /-- ADDS (R134). Writes the signed sum, clamped to the s64 range, to w[d]. -/
  | adds (d a b : WReg)
  /-- SUBS (R134). Writes the signed difference, clamped to the s64 range, to w[d]. -/
  | subs (d a b : WReg)
  /-- ADDSN (R134). Writes the natural sum, clamped to the n64 range, to w[d]. -/
  | addsn (d a b : WReg)
  /-- SUBSN (R134). Writes the natural difference, clamped to the n64 range, to w[d]. -/
  | subsn (d a b : WReg)
  /-- AND (R134). Writes the bitwise and of w[a] and w[b] to w[d]. -/
  | andB (d a b : WReg)
  /-- OR (R134). Writes the bitwise or of w[a] and w[b] to w[d]. -/
  | orB (d a b : WReg)
  /-- XOR (R134). Writes the bitwise exclusive-or of w[a] and w[b] to w[d]. -/
  | xorB (d a b : WReg)
  /-- ANDN (R134). Writes w[a] and not w[b] to w[d]. -/
  | andn (d a b : WReg)
  /-- SHL (R134). Shifts w[a] left by w[b][5:0] and writes the result to w[d]. -/
  | shl (d a b : WReg)
  /-- SHR (R134). Shifts w[a] right with zero fill by w[b][5:0] and writes the result to w[d]. -/
  | shr (d a b : WReg)
  /-- SAR (R134). Shifts w[a] right with sign fill by w[b][5:0] and writes the result to w[d]. -/
  | sar (d a b : WReg)
  /-- ROL (R134). Rotates w[a] left by w[b][5:0] and writes the result to w[d]. -/
  | rol (d a b : WReg)
  /-- ROR (R134). Rotates w[a] right by w[b][5:0] and writes the result to w[d]. -/
  | ror (d a b : WReg)
  /-- CLZ (R134). Writes the count of leading zero bits of w[a] to w[d]. -/
  | clz (d a : WReg)
  /-- CTZ (R134). Writes the count of trailing zero bits of w[a] to w[d]. -/
  | ctz (d a : WReg)
  /-- POPC (R134). Writes the number of one bits of w[a] to w[d]. -/
  | popc (d a : WReg)
  /-- BREV (R134). Writes w[a] with its bits reversed to w[d]. -/
  | brev (d a : WReg)
  /-- BSWAP (R134). Writes w[a] with its bytes reversed to w[d]. -/
  | bswap (d a : WReg)
  /-- MIN (R134). Writes the lesser of w[a] and w[b], compared as s64, to w[d]. -/
  | min (d a b : WReg)
  /-- MAX (R134). Writes the greater of w[a] and w[b], compared as s64, to w[d]. -/
  | max (d a b : WReg)
  /-- MINN (R134). Writes the lesser of w[a] and w[b], compared as n64, to w[d]. -/
  | minn (d a b : WReg)
  /-- MAXN (R134). Writes the greater of w[a] and w[b], compared as n64, to w[d]. -/
  | maxn (d a b : WReg)
  /-- ADDI (R136). Writes w[a] plus the sign-extended immediate to w[d]. -/
  | addi (d a : WReg) (imm : BitVec 48)
  /-- ANDI (R136). Writes w[a] and the sign-extended immediate to w[d]. -/
  | andi (d a : WReg) (imm : BitVec 48)
  /-- ORI (R136). Writes w[a] or the sign-extended immediate to w[d]. -/
  | ori (d a : WReg) (imm : BitVec 48)
  /-- XORI (R136). Writes w[a] exclusive-or the sign-extended immediate to w[d]. -/
  | xori (d a : WReg) (imm : BitVec 48)
  /-- SHLI (R136). Shifts w[a] left by an immediate amount and writes the result to w[d]. -/
  | shli (d a : WReg) (n : BitVec 6)
  /-- SHRI (R136). Shifts w[a] right with zero fill by an immediate amount and writes the result to w[d]. -/
  | shri (d a : WReg) (n : BitVec 6)
  /-- SARI (R136). Shifts w[a] right with sign fill by an immediate amount and writes the result to w[d]. -/
  | sari (d a : WReg) (n : BitVec 6)
  /-- MOV (R136). Copies w[a] to w[d]. -/
  | mov (d a : WReg)
  /-- MOVI (R136). Writes the sign-extended 48-bit immediate to w[d]. -/
  | movi (d : WReg) (imm : BitVec 48)
  /-- MOVHI (R136). Writes w[a] with bits [63:48] replaced by imm[15:0] to w[d]. -/
  | movhi (d a : WReg) (imm : BitVec 16)
  /-- SEXT (R136). Sign-extends the low n bits of w[a] into w[d]. -/
  | sext (d a : WReg) (n : BitVec 7)
  /-- ZEXT (R136). Zero-extends the low n bits of w[a] into w[d]. -/
  | zext (d a : WReg) (n : BitVec 7)
  /-- SEL (R134). Writes w[a] to w[d] if w[c] is non-zero, and w[b] otherwise. -/
  | sel (d a b c : WReg)
  /-- SEQ (R134). Writes 1 to w[d] if w[a] equals w[b], and 0 otherwise. -/
  | seq (d a b : WReg)
  /-- SLT (R134). Writes 1 to w[d] if w[a] is less than w[b] as s64, and 0 otherwise. -/
  | slt (d a b : WReg)
  /-- SLTN (R134). Writes 1 to w[d] if w[a] is less than w[b] as n64, and 0 otherwise. -/
  | sltn (d a b : WReg)
  /-- ADDX (R137). Writes w[a] + w[b] × 2^s modulo 2^64 to w[d]. -/
  | addx (d a b : WReg) (sh : BitVec 3)
  /-- FADD (R138). Floating-point addition, rounded once by rm. -/
  | fadd (t : FTy) (d a b : WReg) (rm : Rm)
  /-- FSUB (R138). Floating-point subtraction, rounded once by rm. -/
  | fsub (t : FTy) (d a b : WReg) (rm : Rm)
  /-- FMUL (R138). Floating-point multiplication, rounded once by rm. -/
  | fmul (t : FTy) (d a b : WReg) (rm : Rm)
  /-- FDIV (R138). Floating-point division, rounded once by rm, with the special results of R139. -/
  | fdiv (t : FTy) (d a b : WReg) (rm : Rm)
  /-- FSQRT (R138). Floating-point square root, rounded once by rm. -/
  | fsqrt (t : FTy) (d a : WReg) (rm : Rm)
  /-- FMIN (R66). Floating-point minimum; a NaN operand gives the canonical NaN. -/
  | fmin (t : FTy) (d a b : WReg)
  /-- FMAX (R66). Floating-point maximum; a NaN operand gives the canonical NaN. -/
  | fmax (t : FTy) (d a b : WReg)
  /-- FABS (R138). Writes the operand with its sign cleared. -/
  | fabs (t : FTy) (d a : WReg)
  /-- FNEG (R138). Writes the operand with its sign inverted. -/
  | fneg (t : FTy) (d a : WReg)
  /-- FMA (R138). Fused A × B + C with one rounding. -/
  | fma (t : FTy) (d a b c : WReg) (rm : Rm)
  /-- FMS (R138). Fused A × B - C with one rounding. -/
  | fms (t : FTy) (d a b c : WReg) (rm : Rm)
  /-- FNMA (R138). Fused -(A × B) + C with one rounding. -/
  | fnma (t : FTy) (d a b c : WReg) (rm : Rm)
  /-- FNMS (R138). Fused -(A × B) - C with one rounding. -/
  | fnms (t : FTy) (d a b c : WReg) (rm : Rm)
  /-- CVT (R142). Converts w[a] from the source type to the destination type by R65. -/
  | cvt (dst src : Ty) (d a : WReg) (rm : Rm)
  /-- CVTS (R142). Converts w[a] to an integer type with saturation. -/
  | cvts (dst src : Ty) (d a : WReg) (rm : Rm)
  /-- FINT (R138). Rounds the operand to an integral value in the same format. -/
  | fint (t : FTy) (d a : WReg) (rm : Rm)
  /-- FCLASS (R140). Writes a one-hot class mask of the operand to w[d]. -/
  | fclass (t : FTy) (d a : WReg)
  /-- FSEQ (R141). Writes 1 to w[d] if A equals B, and 0 otherwise. -/
  | fseq (t : FTy) (d a b : WReg)
  /-- FSLT (R141). Writes 1 to w[d] if A is less than B, and 0 otherwise. -/
  | fslt (t : FTy) (d a b : WReg)
  /-- FSLE (R141). Writes 1 to w[d] if A is less than or equal to B, and 0 otherwise. -/
  | fsle (t : FTy) (d a b : WReg)
  /-- FSUN (R141). Writes 1 to w[d] if either operand is a NaN, and 0 otherwise. -/
  | fsun (t : FTy) (d a b : WReg)
  /-- SKEQ (R144). Annuls the next n slots when P equals Q. -/
  | skeq (t : Ty) (a : WReg) (q : SkipOp) (n : BitVec 2)
  /-- SKNE (R144). Annuls the next n slots when P differs from Q or either is a NaN. -/
  | skne (t : Ty) (a : WReg) (q : SkipOp) (n : BitVec 2)
  /-- SKLT (R144). Annuls the next n slots when P is less than Q. -/
  | sklt (t : Ty) (a : WReg) (q : SkipOp) (n : BitVec 2)
  /-- SKGE (R144). Annuls the next n slots when P is greater than or equal to Q. -/
  | skge (t : Ty) (a : WReg) (q : SkipOp) (n : BitVec 2)
  /-- SKGT (R144). Annuls the next n slots when P is greater than Q. -/
  | skgt (t : Ty) (a : WReg) (q : SkipOp) (n : BitVec 2)
  /-- SKLE (R144). Annuls the next n slots when P is less than or equal to Q. -/
  | skle (t : Ty) (a : WReg) (q : SkipOp) (n : BitVec 2)
  /-- SKUN (R144). Annuls the next n slots when the operands are unordered. -/
  | skun (t : Ty) (a : WReg) (q : SkipOp) (n : BitVec 2)
  /-- SKOR (R144). Annuls the next n slots when the operands are ordered. -/
  | skor (t : Ty) (a : WReg) (q : SkipOp) (n : BitVec 2)
  /-- BR (R148). Branches unconditionally to the displacement target. -/
  | br (tgt : Target)
  /-- CALL (R148). Writes the return point to w[d] and branches to the target. -/
  | call (d : WReg) (tgt : Target)
  /-- JR (R147). Transfers to the code point held in w[a], after checking it. -/
  | jr (a : WReg)
  /-- CALLR (R149). Reads the target from w[a], writes the return point to w[d] and transfers. -/
  | callr (d a : WReg)
  /-- RET (R148). Returns to the code point held in w[a]. -/
  | ret (a : WReg)
  /-- BEQZ (R148). Branches when w[a] is zero. -/
  | beqz (a : WReg) (tgt : Target)
  /-- BNEZ (R148). Branches when w[a] is non-zero. -/
  | bnez (a : WReg) (tgt : Target)
  /-- BLTZ (R148). Branches when w[a] is negative as s64. -/
  | bltz (a : WReg) (tgt : Target)
  /-- BGEZ (R148). Branches when w[a] is non-negative as s64. -/
  | bgez (a : WReg) (tgt : Target)
  /-- LOOP (R151). Decrements w[a] and branches while the result is non-zero. -/
  | loop (a : WReg) (tgt : Target)
  /-- INCBLT (R151). Increments w[a] and branches while it is less than w[b]. -/
  | incblt (a b : WReg) (tgt : Target)
  /-- CALLK (R152). Writes the link, swaps k15 with k[kc] and enters the new buffer. -/
  | callk (d : WReg) (kc : KReg) (tgt : Target)
  /-- RETK (R152). Swaps k15 with k[kb] and returns to the code point in w[a]. -/
  | retk (a : WReg) (kb : KReg)
  /-- JK (R152). Swaps k15 with k[kc] and jumps into the new buffer. -/
  | jk (kc : KReg) (tgt : Target)
  /-- HALT (R154). The context enters Halted and issues nothing more. -/
  | halt
  /-- SLEEP (R155). The context waits for 16 × n cycles or until an event becomes pending. -/
  | sleep (n : BitVec 32)
  /-- YIELD (R156). The context gives up the next turn of its position. -/
  | yield
  /-- LDB (R165). Loads 1 byte, zero-extended, into w[d]. -/
  | ldb (d : WReg) (m : MemOp)
  /-- LDH (R165). Loads 2 bytes, zero-extended, into w[d]. -/
  | ldh (d : WReg) (m : MemOp)
  /-- LDW (R165). Loads 4 bytes, zero-extended, into w[d]. -/
  | ldw (d : WReg) (m : MemOp)
  /-- LDD (R165). Loads 8 bytes into w[d]. -/
  | ldd (d : WReg) (m : MemOp)
  /-- LDBS (R165). Loads 1 byte, sign-extended, into w[d]. -/
  | ldbs (d : WReg) (m : MemOp)
  /-- LDHS (R165). Loads 2 bytes, sign-extended, into w[d]. -/
  | ldhs (d : WReg) (m : MemOp)
  /-- LDWS (R165). Loads 4 bytes, sign-extended, into w[d]. -/
  | ldws (d : WReg) (m : MemOp)
  /-- STB (R165). Stores 1 byte of w[d] to memory. -/
  | stb (d : WReg) (m : MemOp)
  /-- STH (R165). Stores 2 bytes of w[d] to memory. -/
  | sth (d : WReg) (m : MemOp)
  /-- STW (R165). Stores 4 bytes of w[d] to memory. -/
  | stw (d : WReg) (m : MemOp)
  /-- STD (R165). Stores 8 bytes of w[d] to memory. -/
  | std (d : WReg) (m : MemOp)
  /-- LDV (R165). Loads 64 bytes into a vector group. -/
  | ldv (vd : VReg) (m : MemOp)
  /-- STV (R165). Stores a vector group as 64 bytes. -/
  | stv (vd : VReg) (m : MemOp)
  /-- STDF (R168). Stores 8 bytes and then increments a flag word. -/
  | stdf (d : WReg) (m : MemOp) (f : WReg)
  /-- STVF (R168). Stores 64 bytes and then increments a flag word. -/
  | stvf (vd : VReg) (m : MemOp) (f : WReg)
  /-- WREP (R169). Replicates one read of a group, with a flag increment, to each member of a set in a hitched window. -/
  | wrep (vd : VReg) (m : MemOp) (s : WReg)
  /-- LDTAG (R167). Reads the tag of a block into w[d]. -/
  | ldtag (d : WReg) (m : MemOp)
  /-- STTAG (R167). Writes w[d][15:0] to the tag of a block. -/
  | sttag (d : WReg) (m : MemOp)
  /-- LOCK (R170). Requests a lock on a region of core memory. -/
  | lock (m : MemOp) (l : WReg)
  /-- UNLOCK (R172). Releases the region that the context holds. -/
  | unlock
  /-- CMOV (R174). Moves a capability into a null register and nulls the source. -/
  | cmov (d a : KReg)
  /-- CSWAP (R174). Exchanges two capability registers. -/
  | cswap (d a : KReg)
  /-- CDROP (R174). Drops a whole owned or whole code capability. -/
  | cdrop (a : KReg)
  /-- CSPLIT (R175). Splits a counted fraction off a capability. -/
  | csplit (d a : KReg) (b : WReg) (mode : Bool)
  /-- CJOIN (R176). Joins two capabilities by count or by adjacency. -/
  | cjoin (d a : KReg)
  /-- CNARROW (R177). Cuts a whole owned buffer into two buffers. -/
  | cnarrow (d a : KReg) (b : WReg)
  /-- CRIGHTS (R178). Masks the rights of a capability, optionally converting between owned and code. -/
  | crights (a : KReg) (mask : BitVec 8) (conv : Bool)
  /-- CSTASH (R180). Stores a capability in a 16-byte memory slot and sets the slot's capability bit. -/
  | cstash (kd : KReg) (m : MemOp)
  /-- CFETCH (R180). Takes a stashed capability from its slot and clears the slot. -/
  | cfetch (kd : KReg) (m : MemOp)
  /-- CINSP (R179). Reads one field of a capability into w[d]. -/
  | cinsp (d : WReg) (a : KReg) (field : BitVec 3)
  /-- ASWAP (R182). Atomic swap that returns the old value. -/
  | aswap (t : ATy) (d : WReg) (m : MemOp) (s : WReg) (acq rel : Bool)
  /-- AADD (R182). Atomic add that returns the old value. -/
  | aadd (t : ATy) (d : WReg) (m : MemOp) (s : WReg) (acq rel : Bool)
  /-- AAND (R182). Atomic and that returns the old value. -/
  | aand (t : ATy) (d : WReg) (m : MemOp) (s : WReg) (acq rel : Bool)
  /-- AOR (R182). Atomic or that returns the old value. -/
  | aor (t : ATy) (d : WReg) (m : MemOp) (s : WReg) (acq rel : Bool)
  /-- AXOR (R182). Atomic exclusive-or that returns the old value. -/
  | axor (t : ATy) (d : WReg) (m : MemOp) (s : WReg) (acq rel : Bool)
  /-- AMAX (R182). Atomic maximum that returns the old value. -/
  | amax (t : ATy) (d : WReg) (m : MemOp) (s : WReg) (acq rel : Bool)
  /-- AMIN (R182). Atomic minimum that returns the old value. -/
  | amin (t : ATy) (d : WReg) (m : MemOp) (s : WReg) (acq rel : Bool)
  /-- ACAS (R182). Atomic compare-and-swap that returns the old value. -/
  | acas (t : ATy) (d : WReg) (m : MemOp) (s : WReg) (acq rel : Bool)
  /-- REDADD (R183). No-return atomic add reduction. -/
  | redadd (t : ATy) (m : MemOp) (s : WReg) (acq rel : Bool)
  /-- REDAND (R183). No-return atomic and reduction. -/
  | redand (t : ATy) (m : MemOp) (s : WReg) (acq rel : Bool)
  /-- REDOR (R183). No-return atomic or reduction. -/
  | redor (t : ATy) (m : MemOp) (s : WReg) (acq rel : Bool)
  /-- REDXOR (R183). No-return atomic exclusive-or reduction. -/
  | redxor (t : ATy) (m : MemOp) (s : WReg) (acq rel : Bool)
  /-- REDMAX (R183). No-return atomic maximum reduction. -/
  | redmax (t : ATy) (m : MemOp) (s : WReg) (acq rel : Bool)
  /-- REDMIN (R183). No-return atomic minimum reduction. -/
  | redmin (t : ATy) (m : MemOp) (s : WReg) (acq rel : Bool)
  /-- VEROPEN_READ (R186). Mode 0: opens a read handle on the latest published version. -/
  | veropenRead (kd k : KReg)
  /-- VEROPEN_PRIVATE (R186). Mode 1: creates a private writable version. -/
  | veropenPrivate (kd k : KReg)
  /-- VERCLOSE (R188). Ends a handle, discarding an unpublished private version. -/
  | verclose (k : KReg)
  /-- VERPUB (R187). Publishes a private version once its writes have been performed. -/
  | verpub (d : WReg) (k : KReg)
  /-- VADD (R195). Lane-wise addition. -/
  | vadd (o : VBin)
  /-- VSUB (R195). Lane-wise subtraction. -/
  | vsub (o : VBin)
  /-- VMUL (R195). Lane-wise multiplication. -/
  | vmul (o : VBin)
  /-- VDIV (R195). Lane-wise floating-point division. -/
  | vdiv (o : VBin)
  /-- VMIN (R195). Lane-wise minimum. -/
  | vmin (o : VBin)
  /-- VMAX (R195). Lane-wise maximum. -/
  | vmax (o : VBin)
  /-- VABS (R195). Lane-wise absolute value. -/
  | vabs (o : VUn)
  /-- VNEG (R195). Lane-wise negation. -/
  | vneg (o : VUn)
  /-- VSQRT (R195). Lane-wise floating-point square root. -/
  | vsqrt (o : VUn)
  /-- VFMA (R195). Lane-wise fused A × B + C. -/
  | vfma (o : VTer)
  /-- VFMS (R195). Lane-wise fused A × B - C. -/
  | vfms (o : VTer)
  /-- VFNMA (R195). Lane-wise fused -(A × B) + C. -/
  | vfnma (o : VTer)
  /-- VADDS (R195). Lane-wise saturating integer addition. -/
  | vadds (o : VBin)
  /-- VSUBS (R195). Lane-wise saturating integer subtraction. -/
  | vsubs (o : VBin)
  /-- VAND (R195). Lane-wise and. -/
  | vand (o : VBin)
  /-- VOR (R195). Lane-wise or. -/
  | vor (o : VBin)
  /-- VXOR (R195). Lane-wise exclusive-or. -/
  | vxor (o : VBin)
  /-- VANDN (R195). Lane-wise A and not B. -/
  | vandn (o : VBin)
  /-- VSHL (R195). Lane-wise left shift. -/
  | vshl (o : VBin)
  /-- VSHR (R195). Lane-wise right shift with zero fill. -/
  | vshr (o : VBin)
  /-- VSAR (R195). Lane-wise right shift with sign fill. -/
  | vsar (o : VBin)
  /-- VCMPEQ (R196). Sets a mask bit for each lane whose operands are equal. -/
  | vcmpeq (o : VCmp)
  /-- VCMPNE (R196). Sets a mask bit for each lane whose operands differ or are unordered. -/
  | vcmpne (o : VCmp)
  /-- VCMPLT (R196). Sets a mask bit for each lane where A is less than B. -/
  | vcmplt (o : VCmp)
  /-- VCMPGE (R196). Sets a mask bit for each lane where A is greater than or equal to B. -/
  | vcmpge (o : VCmp)
  /-- VCMPGT (R196). Sets a mask bit for each lane where A is greater than B. -/
  | vcmpgt (o : VCmp)
  /-- VCMPLE (R196). Sets a mask bit for each lane where A is less than or equal to B. -/
  | vcmple (o : VCmp)
  /-- VCMPUN (R196). Sets a mask bit for each lane whose operands are unordered. -/
  | vcmpun (o : VCmp)
  /-- VCMPOR (R196). Sets a mask bit for each lane whose operands are ordered. -/
  | vcmpor (o : VCmp)
  /-- VCVT (R197). Converts one part of the lanes between element types. -/
  | vcvt (dst : Ty) (o : VUn) (p : BitVec 4) (sat : Bool)
  /-- VRSUM (R198). Tree sum of the lanes into one register. -/
  | vrsum (t : Ty) (vd va : VReg) (mask : MReg)
  /-- VRMAX (R198). Tree maximum of the lanes into one register. -/
  | vrmax (t : Ty) (vd va : VReg) (mask : MReg)
  /-- VRMIN (R198). Tree minimum of the lanes into one register. -/
  | vrmin (t : Ty) (vd va : VReg) (mask : MReg)
  /-- VPERM (R199). Permutes the lanes of A by the indices in B. -/
  | vperm (t : Ty) (vd va vb : VReg) (mask : MReg) (z : Bool)
  /-- VBCAST (R199). Broadcasts lane j of A to every lane. -/
  | vbcast (t : Ty) (vd va : VReg) (j : BitVec 6) (mask : MReg) (z : Bool)
  /-- VROT (R199). Rotates the lanes of A. -/
  | vrot (t : Ty) (vd va : VReg) (j : BitVec 6) (mask : MReg) (z : Bool)
  /-- VZIP (R199). Interleaves one half of the lanes of A and B. -/
  | vzip (t : Ty) (vd va vb : VReg) (h : Bool) (mask : MReg) (z : Bool)
  /-- VUNZIP (R199). De-interleaves the lanes of A and B. -/
  | vunzip (t : Ty) (vd va vb : VReg) (h : Bool) (mask : MReg) (z : Bool)
  /-- VSEL (R199). Selects each lane from A or B by the mask. -/
  | vsel (t : Ty) (vd va : VReg) (b : BOp) (mask : MReg)
  /-- MAND (R200). Bitwise and of two masks. -/
  | mand (t : Ty) (d a b : MReg)
  /-- MOR (R200). Bitwise or of two masks. -/
  | mor (t : Ty) (d a b : MReg)
  /-- MXOR (R200). Bitwise exclusive-or of two masks. -/
  | mxor (t : Ty) (d a b : MReg)
  /-- MNOT (R200). Bitwise not of a mask. -/
  | mnot (t : Ty) (d a : MReg)
  /-- MPOP (R200). Writes the number of set mask bits to a window register. -/
  | mpop (t : Ty) (n : WReg) (a : MReg)
  /-- MFIRST (R200). Writes the index of the lowest set mask bit to a window register. -/
  | mfirst (t : Ty) (n : WReg) (a : MReg)
  /-- VINS (R201). Inserts the low bits of a window register into lane j. -/
  | vins (t : Ty) (vd : VReg) (n : WReg) (j : BitVec 6)
  /-- VEXT (R201). Extracts lane j into a window register. -/
  | vext (t : Ty) (n : WReg) (va : VReg) (j : BitVec 6)
  /-- VGATH (R209). Gathers indexed elements from memory into lanes, as a long form. -/
  | vgath (vd : VReg) (m : MemOp) (vs : VReg) (mask : MReg)
  /-- VSCAT (R209). Scatters lanes to indexed memory elements, as a long form. -/
  | vscat (vd : VReg) (m : MemOp) (vs : VReg) (mask : MReg)
  /-- LSUM (R210). Streaming sum over 64-byte chunks of memory. -/
  | lsum (t : Ty) (d : WReg) (m : MemOp) (mask : MReg)
  /-- LMAX (R210). Streaming maximum over 64-byte chunks of memory. -/
  | lmax (t : Ty) (d : WReg) (m : MemOp) (mask : MReg)
  /-- LMIN (R210). Streaming minimum over 64-byte chunks of memory. -/
  | lmin (t : Ty) (d : WReg) (m : MemOp) (mask : MReg)
  /-- LSCALE (R210). Scales the lanes of each chunk of memory in place. -/
  | lscale (t : Ty) (d : WReg) (m : MemOp) (mask : MReg)
  /-- QNT (R203). Quantises source lanes into one block, choosing the scale. -/
  | qnt (fmt : BitVec 8) (t : Ty) (vd va vc : VReg) (n : WReg)
  /-- QNTG (R203). Quantises source lanes into one block with a given scale. -/
  | qntg (fmt : BitVec 8) (t : Ty) (vd va vc : VReg) (n : WReg)
  /-- DQNT (R204). Dequantises one block into lanes. -/
  | dqnt (fmt : BitVec 8) (t : Ty) (vd va : VReg) (n : WReg) (rm : Rm)
  /-- LDVT (R202). Loads a block and its tag. -/
  | ldvt (vd : VReg) (m : MemOp) (s : WReg)
  /-- STVT (R202). Stores a block and its tag. -/
  | stvt (vd : VReg) (m : MemOp) (s : WReg)
  /-- BDOT (R205). Exact block dot product added into an FP32 register. -/
  | bdot (vd va vb : VReg) (n : WReg)
  /-- BSCALE (R206). Adjusts the scale of a block tag by delta. -/
  | bscale (vd va : VReg) (n : WReg) (delta : BitVec 8)
  /-- ACCLD (R214). Copies rows from memory into an accumulator tile. -/
  | accld (t : TileReg) (m : MemOp) (s : WReg)
  /-- ACCST (R214). Copies rows of an accumulator tile out to memory. -/
  | accst (t : TileReg) (m : MemOp) (s : WReg)
  /-- ACCZERO (R213). Sets every element of a tile to +0. -/
  | acczero (t : TileReg)
  /-- MMD (R218). Matrix product of dense A and dense B blocks into a tile. -/
  | mmd (t : TileReg) (ka kb : KReg) (c : WReg)
  /-- MMS (R218). Matrix product of dense A and sparse B blocks into a tile. -/
  | mms (t : TileReg) (ka kb : KReg) (c : WReg)
  /-- MMU (R218). Matrix product of an unfolded dense A and dense B into a tile. -/
  | mmu (t : TileReg) (ka kb : KReg) (c : WReg)
  /-- MMUS (R218). Matrix product of an unfolded dense A and sparse B into a tile. -/
  | mmus (t : TileReg) (ka kb : KReg) (c : WReg)
  /-- UFCFG (R220). Copies two registers into the context's unfolding configuration. -/
  | ufcfg (a : WReg)
  /-- SEND (R230). Sends a payload on an untimed ring. -/
  | send (ka : KReg) (b : WReg) (len : BitVec 6)
  /-- SENDK (R230). Sends a payload and a capability on an untimed ring. -/
  | sendk (ka : KReg) (b : WReg) (kc : KReg) (len : BitVec 6)
  /-- RECV (R232). Waits for and takes the oldest slot of an untimed ring. -/
  | recv (d : WReg) (ka kc : KReg)
  /-- TRYRECV (R232). Takes the oldest slot of an untimed ring without waiting. -/
  | tryrecv (d : WReg) (ka kc : KReg)
  /-- RINGMK (R226). Turns an owned buffer into a ring and its receive end. -/
  | ringmk (ka : KReg) (b : WReg)
  /-- RINGSEND (R227). Issues a send end with count taken from the ring's reserve. -/
  | ringsend (kd ka : KReg) (b : WReg) (tag : BitVec 16)
  /-- RINGFREE (R228). Returns a send end's count, or frees a ring back to its buffer. -/
  | ringfree (ka : KReg)
  /-- TSEND (R236). Sends a timed message with a new VRT. -/
  | tsend (ka : KReg) (b c : WReg) (len : BitVec 6)
  /-- TSENDK (R236). Sends a timed message that carries a capability. -/
  | tsendk (kd ka : KReg) (b c : WReg) (len : BitVec 6)
  /-- TRECV (R238). Checkpoints and takes the pending timed message of least VRT, or performs a pending rollback. -/
  | trecv (d : WReg) (ka kc : KReg)
  /-- CKPT (R237). Sets the actor's checkpoint mask. -/
  | ckpt (a : WReg)
  /-- ROLLB (R320). Carries out a pending rollback. -/
  | rollb
  /-- RECALL (R240). Withdraws a message that the actor sent during its current message. -/
  | recall (kd : KReg) (a : WReg)
  /-- DEFER_STORE (R241). Kind 0: records a deferred 8-byte store. -/
  | deferStore (a : WReg) (kb : KReg) (c : WReg) (len : BitVec 6)
  /-- DEFER_SEND (R241). Kind 1: records a deferred untimed send. -/
  | deferSend (a : WReg) (kb : KReg) (c : WReg) (len : BitVec 6)
  /-- DEFER_NOTIFY (R241). Kind 2: records a deferred host notification. -/
  | deferNotify (a c : WReg) (len : BitVec 6)
  /-- GVTRD (R243). Reads GVT, or the GVT floor in reproducible mode. -/
  | gvtrd (d : WReg)
  /-- GVTWAIT (R243). Waits until GVT exceeds w[a]. -/
  | gvtwait (a : WReg)
  /-- GARM (R245). Arms a gate with a descriptor. -/
  | garm (g : GReg) (a : WReg)
  /-- GARR (R246). Arrives at a gate without a contribution. -/
  | garr (g : GReg)
  /-- GWAIT (R247). Waits for the release of the context's phase and reads its result. -/
  | gwait (d : WReg) (g : GReg)
  /-- GARRED (R246). Arrives at a gate with a contribution. -/
  | garred (g : GReg) (a : WReg)
  /-- GTEST (R247). Reports whether the context's phase has been released. -/
  | gtest (d : WReg) (g : GReg)
  /-- HJOIN (R250). Attaches the group to a set of hitch members. -/
  | hjoin (ka : KReg) (b : WReg)
  /-- HDETACH (R251). Detaches the group from a set of hitch members. -/
  | hdetach (ka : KReg) (b : WReg)
  /-- HLEAVE (R252). Takes the group out of the hitch through the held exit. -/
  | hleave (ka : KReg)
  /-- HPUSH (R253). Pushes w[a] onto a hand-off queue. -/
  | hpush (q : QReg) (a : WReg)
  /-- HPOP (R253). Pops an entry of a hand-off queue into w[d]. -/
  | hpop (d : WReg) (q : QReg)
  /-- HPOLL (R253). Reads the number of entries in a hand-off queue. -/
  | hpoll (d : WReg) (q : QReg)
  /-- MBPUT (R254). Places a copy request in a mailbox. -/
  | mbput (mb : MbReg) (a : WReg) (kb kc : KReg)
  /-- MBGET (R255). Context 63 takes a copy request from a mailbox. -/
  | mbget (d : WReg) (mb : MbReg)
  /-- CPSTART_CAP (R256). Starts a copy on a channel through capabilities. -/
  | cpstartCap (ch : ChReg) (ka kb : KReg) (c : WReg)
  /-- CPSTART_ADDR (R256). A system context starts a copy on a channel by device addresses. -/
  | cpstartAddr (ch : ChReg) (c : WReg)
  /-- CPMCAST (R258). Starts an acknowledged multicast copy. -/
  | cpmcast (ch : ChReg) (ka kb : KReg) (c : WReg)
  /-- CPWAIT (R259). Waits until a channel completes, or raises its fault. -/
  | cpwait (ch : ChReg)
  /-- CPSTAT (R260). Reads the status of a channel. -/
  | cpstat (d : WReg) (ch : ChReg)
  /-- CPWM (R260). Reads the watermark of a channel. -/
  | cpwm (d : WReg) (ch : ChReg)
  /-- CPCANCEL (R261). Stops a channel after its block in flight. -/
  | cpcancel (ch : ChReg)
  /-- SPR (R262). Reads a special register into w[d]. -/
  | spr (d : WReg) (sel : BitVec 8)
  /-- SPW (R262). Writes w[a] to a special register. -/
  | spw (sel : BitVec 8) (a : WReg)
  /-- EVRET (R263). Returns from an event handler to EVT_RET. -/
  | evret
  /-- FACK_REPLAY (R279). Mode 0: the parked context's latched instruction is reissued. -/
  | fackReplay (d a : WReg)
  /-- FACK_SKIP (R279). Mode 1: the latched instruction is skipped and the context continues. -/
  | fackSkip (d a : WReg)
  /-- FACK_TERMINATE (R279). Mode 2: the parked context is ended. -/
  | fackTerminate (d a : WReg)
  /-- CTXSTOP (R265). Sets the stopped flag of a context. -/
  | ctxstop (d a : WReg)
  /-- CTXGO (R265). Clears the stopped flag of a context. -/
  | ctxgo (d a : WReg)
  /-- XINV_ENTRY (R266). Scope 0: invalidates the translation of one address of one ASID at every station. -/
  | xinvEntry (a b : WReg)
  /-- XINV_ASID (R266). Scope 1: invalidates every translation of one ASID. -/
  | xinvAsid (a b : WReg)
  /-- XINV_ALL (R266). Scope 2: invalidates every translation. -/
  | xinvAll (a b : WReg)
  /-- XREPLAY (R266). Makes a station replay its parked requests. -/
  | xreplay (a : WReg)
  /-- SLOTR (R267). Reads the slot-table entry of a position. -/
  | slotr (d a : WReg)
  /-- WIPE (R268). Zeroes and verifies a whole buffer. -/
  | wipe (d : WReg) (ka : KReg)
  deriving DecidableEq, Repr

end Sys2Proof
end

