-- ==== Sys2Proof/WellFormed.lean ====
section
/-! DEFINITION. When a term of `Instr` is an instruction that the encodings admit: the static ILLEGAL conditions of R92, R100,
R108, R119, R126, R158, R193, R224 and R225 that the types of the operands do not already exclude. Events carry no encoding,
and every event is well-formed. -/

namespace Sys2Proof

/-- The width of an element type in bits (R25). -/
def Ty.width : Ty → Nat
  | .s8 | .n8 | .e4m3 | .e5m2 => 8
  | .s16 | .n16 | .bf16 | .f16 => 16
  | .s32 | .n32 | .f32 => 32
  | .s64 | .n64 | .f64 => 64

/-- Whether the type is floating point, codes 8 to 13 (R25). -/
def Ty.isFp : Ty → Bool
  | .bf16 | .f16 | .f32 | .f64 | .e4m3 | .e5m2 => true
  | .s8 | .s16 | .s32 | .s64 | .n8 | .n16 | .n32 | .n64 => false

/-- Whether the type is a signed integer, codes 0 to 3 (R25). -/
def Ty.isSigned : Ty → Bool
  | .s8 | .s16 | .s32 | .s64 => true
  | _ => false

/-- The lanes of a 512-bit group at a type (R192). -/
def Ty.lanes (t : Ty) : Nat := 512 / t.width

/-- The element type of a scalar floating-point type. -/
def FTy.ty : FTy → Ty
  | .bf16 => .bf16 | .f16 => .f16 | .f32 => .f32 | .f64 => .f64

/-- The element type of an atomic's type. -/
def ATy.ty : ATy → Ty
  | .s32 => .s32 | .s64 => .s64 | .n32 => .n32 | .n64 => .n64 | .f32 => .f32 | .f64 => .f64

/-- Whether an atomic's type is floating point, codes 10 and 11. -/
def ATy.isFp : ATy → Bool
  | .f32 | .f64 => true
  | .s32 | .s64 | .n32 | .n64 => false

/-- The block format bytes of R68, other than plain bytes and the reserved ones: the functions of majors 0xA0 to 0xA2 (R119). -/
def blockFmt (f : BitVec 8) : Bool :=
  (0x12 ≤ f.toNat && f.toNat ≤ 0x18) || f == 0x22 || f == 0x24 || f == 0x28 || f == 0x30 || f == 0x31

/-- The values that one block of a format carries in register forms (R203). -/
def blockVals (f : BitVec 8) : Nat :=
  if f = 0x12 then 256
  else if f = 0x13 || f = 0x14 || f = 0x22 || f = 0x24 || f = 0x28 then 128
  else 64

/-- Whether a format byte is sparse (R68). -/
def sparseFmt (f : BitVec 8) : Bool := f = 0x22 || f = 0x24 || f = 0x28

/-- Registers that a quantised source or destination occupies (R203). -/
def blockGroups (f : BitVec 8) (t : Ty) : Nat := blockVals f * t.width / 512

namespace MemOp

/-- R92, R95, R108: a scale of 7 is reserved, and x and the scale are zero when xen is 0, which uses neither. -/
def wf (m : MemOp) : Bool := m.sh != 7 && (m.xen || (m.x == 0 && m.sh == 0))

/-- R95, R209: a gather's or scatter's scale is the element width, 1 to 8 bytes, with an index register or without. -/
def wfGather (m : MemOp) : Bool := decide (m.sh.toNat ≤ 3) && (m.xen || m.x == 0)

end MemOp

/-- R98, R99: a branch slot is 0 to 4. -/
def Target.wf (t : Target) : Bool := t.slot.toNat ≤ 4

/-- R97: a floating-point immediate has imm[47:32] zero. -/
def BOp.wf (t : Ty) : BOp → Bool
  | .imm i => !t.isFp || i.toNat < 2 ^ 32
  | .group _ | .reg _ => true

/-- R145: a floating-point immediate of a compare-skip has imm[47:32] zero. -/
def SkipOp.wf (t : Ty) : SkipOp → Bool
  | .imm i => !t.isFp || i.toNat < 2 ^ 32
  | .reg _ => true

/-- R193: rm is zero unless the form rounds and its lanes are floating point. -/
def rmOk (t : Ty) (rounds : Bool) (rm : Rm) : Bool := rm == .rne || (rounds && t.isFp)

namespace VBin

/-- The checks of a two-operand lane form whose types satisfy `types` (R193, R195). -/
def wf (types : Ty → Bool) (rounds : Bool) (o : VBin) : Bool :=
  types o.ty && rmOk o.ty rounds o.rm && o.b.wf o.ty

end VBin

/-- The checks of a one-operand lane form (R193, R195). -/
def VUn.wf (types : Ty → Bool) (rounds : Bool) (o : VUn) : Bool := types o.ty && rmOk o.ty rounds o.rm

/-- The checks of a fused lane form (R193, R195). -/
def VTer.wf (o : VTer) : Bool := o.ty.isFp && o.b.wf o.ty

/-- R119, R144: conditions 6 and 7 need a floating-point type. -/
def VCmp.wf (ordering : Bool) (o : VCmp) : Bool := (ordering || o.ty.isFp) && o.b.wf o.ty

/-- R197: the part below r, saturation only for integer narrowing, rm only where a floating-point type takes part. -/
def vcvtWf (dst : Ty) (o : VUn) (p : BitVec 4) (sat : Bool) : Bool :=
  let es := o.ty.width
  let ed := dst.width
  let ints := !o.ty.isFp && !dst.isFp
  dst != o.ty && p.toNat < max es ed / min es ed && (!sat || (ints && ed < es)) && (o.rm == .rne || !ints)

/-- R203: the checks of qnt and qntg. -/
def quantWf (fmt : BitVec 8) (t : Ty) (vd va vc : VReg) (n : WReg) : Bool :=
  blockFmt fmt && t.isFp && va.toNat + blockGroups fmt t ≤ 16 && (sparseFmt fmt || vc == 0) && n.toNat / 8 != vd.toNat

/-- R204, R224: the checks of dqnt; its destination type is one of codes 8 to 11. DEDUCED (log 25): its tag register may lie in a destination
group, since the program of R444 runs such a dqnt; unsafe. -/
def dequantWf (fmt : BitVec 8) (t : Ty) (vd : VReg) : Bool :=
  blockFmt fmt && (t == .bf16 || t == .f16 || t == .f32 || t == .f64) && vd.toNat + blockGroups fmt t ≤ 16

/-- R224: a tag register lies outside the destination group. -/
def tagOutside (vd : VReg) (n : WReg) : Bool := n.toNat / 8 != vd.toNat

/-- The selectors of R262. -/
def selectorOk (s : BitVec 8) : Bool := s.toNat ≤ 0x06 || (0x08 ≤ s.toNat && s.toNat ≤ 0x19)

/-- R225: a payload length is at most 48. -/
def lenOk (n : BitVec 6) : Bool := n.toNat ≤ 48

/-- The well-formed instructions: those that a 96-bit word can stand for (R92 to R100, R108). -/
def Instr.wf : Instr → Bool
  | .nop => true
  | .add _ _ _ => true
  | .sub _ _ _ => true
  | .mul _ _ _ => true
  | .mulh _ _ _ => true
  | .mulhn _ _ _ => true
  | .div _ _ _ => true
  | .divn _ _ _ => true
  | .rem _ _ _ => true
  | .remn _ _ _ => true
  | .adds _ _ _ => true
  | .subs _ _ _ => true
  | .addsn _ _ _ => true
  | .subsn _ _ _ => true
  | .andB _ _ _ => true
  | .orB _ _ _ => true
  | .xorB _ _ _ => true
  | .andn _ _ _ => true
  | .shl _ _ _ => true
  | .shr _ _ _ => true
  | .sar _ _ _ => true
  | .rol _ _ _ => true
  | .ror _ _ _ => true
  | .clz _ _ => true
  | .ctz _ _ => true
  | .popc _ _ => true
  | .brev _ _ => true
  | .bswap _ _ => true
  | .min _ _ _ => true
  | .max _ _ _ => true
  | .minn _ _ _ => true
  | .maxn _ _ _ => true
  | .addi _ _ _ => true
  | .andi _ _ _ => true
  | .ori _ _ _ => true
  | .xori _ _ _ => true
  | .shli _ _ _ => true
  | .shri _ _ _ => true
  | .sari _ _ _ => true
  | .mov _ _ => true
  | .movi _ _ => true
  | .movhi _ _ _ => true
  | .sext _ _ n => 1 ≤ n.toNat && n.toNat ≤ 64
  | .zext _ _ n => 1 ≤ n.toNat && n.toNat ≤ 64
  | .sel _ _ _ _ => true
  | .seq _ _ _ => true
  | .slt _ _ _ => true
  | .sltn _ _ _ => true
  | .addx _ _ _ sh => sh != 7
  | .fadd _ _ _ _ _ => true
  | .fsub _ _ _ _ _ => true
  | .fmul _ _ _ _ _ => true
  | .fdiv _ _ _ _ _ => true
  | .fsqrt _ _ _ _ => true
  | .fmin _ _ _ _ => true
  | .fmax _ _ _ _ => true
  | .fabs _ _ _ => true
  | .fneg _ _ _ => true
  | .fma _ _ _ _ _ _ => true
  | .fms _ _ _ _ _ _ => true
  | .fnma _ _ _ _ _ _ => true
  | .fnms _ _ _ _ _ _ => true
  | .cvt dst src _ _ rm => dst != src && (rm == .rne || dst.isFp || src.isFp)
  | .cvts dst src _ _ rm => dst != src && !dst.isFp && (rm == .rne || src.isFp)
  | .fint _ _ _ _ => true
  | .fclass _ _ _ => true
  | .fseq _ _ _ _ => true
  | .fslt _ _ _ _ => true
  | .fsle _ _ _ _ => true
  | .fsun _ _ _ _ => true
  | .skeq t _ q n => n != 0 && q.wf t
  | .skne t _ q n => n != 0 && q.wf t
  | .sklt t _ q n => n != 0 && q.wf t
  | .skge t _ q n => n != 0 && q.wf t
  | .skgt t _ q n => n != 0 && q.wf t
  | .skle t _ q n => n != 0 && q.wf t
  | .skun t _ q n => n != 0 && t.isFp && q.wf t
  | .skor t _ q n => n != 0 && t.isFp && q.wf t
  | .br tgt => tgt.wf
  | .call _ tgt => tgt.wf
  | .jr _ => true
  | .callr _ _ => true
  | .ret _ => true
  | .beqz _ tgt => tgt.wf
  | .bnez _ tgt => tgt.wf
  | .bltz _ tgt => tgt.wf
  | .bgez _ tgt => tgt.wf
  | .loop _ tgt => tgt.wf
  | .incblt _ _ tgt => tgt.wf
  | .callk _ kc tgt => kc != 15 && tgt.wf
  | .retk _ kb => kb != 15
  | .jk kc tgt => kc != 15 && tgt.wf
  | .halt => true
  | .sleep _ => true
  | .yield => true
  | .ldb _ m => m.wf
  | .ldh _ m => m.wf
  | .ldw _ m => m.wf
  | .ldd _ m => m.wf
  | .ldbs _ m => m.wf
  | .ldhs _ m => m.wf
  | .ldws _ m => m.wf
  | .stb _ m => m.wf
  | .sth _ m => m.wf
  | .stw _ m => m.wf
  | .std _ m => m.wf
  | .ldv _ m => m.wf
  | .stv _ m => m.wf
  | .stdf _ m _ => m.wf
  | .stvf _ m _ => m.wf
  | .wrep _ m _ => m.wf
  | .ldtag _ m => m.wf
  | .sttag _ m => m.wf
  | .lock m _ => m.wf
  | .unlock => true
  | .cmov _ _ => true
  | .cswap _ _ => true
  | .cdrop _ => true
  | .csplit d a _ _ => d != a
  | .cjoin d a => d != a
  | .cnarrow _ _ _ => true
  | .crights _ _ _ => true
  | .cstash _ m => m.wf
  | .cfetch _ m => m.wf
  | .cinsp _ _ field => field != 7
  | .aswap t _ m _ _ _ => !t.isFp && m.wf
  | .aadd _ _ m _ _ _ => m.wf
  | .aand t _ m _ _ _ => !t.isFp && m.wf
  | .aor t _ m _ _ _ => !t.isFp && m.wf
  | .axor t _ m _ _ _ => !t.isFp && m.wf
  | .amax _ _ m _ _ _ => m.wf
  | .amin _ _ m _ _ _ => m.wf
  | .acas t _ m _ _ _ => !t.isFp && m.wf
  | .redadd _ m _ _ _ => m.wf
  | .redand t m _ _ _ => !t.isFp && m.wf
  | .redor t m _ _ _ => !t.isFp && m.wf
  | .redxor t m _ _ _ => !t.isFp && m.wf
  | .redmax _ m _ _ _ => m.wf
  | .redmin _ m _ _ _ => m.wf
  | .veropenRead _ _ => true
  | .veropenPrivate _ _ => true
  | .verclose _ => true
  | .verpub _ _ => true
  | .vadd o => o.wf (fun _ => true) true
  | .vsub o => o.wf (fun _ => true) true
  | .vmul o => o.wf (fun _ => true) true
  | .vdiv o => o.wf Ty.isFp true
  | .vmin o => o.wf (fun _ => true) false
  | .vmax o => o.wf (fun _ => true) false
  | .vabs o => o.wf (fun _ => true) false
  | .vneg o => o.wf (fun _ => true) false
  | .vsqrt o => o.wf Ty.isFp true
  | .vfma o => o.wf
  | .vfms o => o.wf
  | .vfnma o => o.wf
  | .vadds o => o.wf (fun t => !t.isFp) false
  | .vsubs o => o.wf (fun t => !t.isFp) false
  | .vand o => o.wf (fun t => !t.isFp) false
  | .vor o => o.wf (fun t => !t.isFp) false
  | .vxor o => o.wf (fun t => !t.isFp) false
  | .vandn o => o.wf (fun t => !t.isFp) false
  | .vshl o => o.wf (fun t => !t.isFp) false
  | .vshr o => o.wf (fun t => !t.isFp) false
  | .vsar o => o.wf (fun t => !t.isFp) false
  | .vcmpeq o => o.wf true
  | .vcmpne o => o.wf true
  | .vcmplt o => o.wf true
  | .vcmpge o => o.wf true
  | .vcmpgt o => o.wf true
  | .vcmple o => o.wf true
  | .vcmpun o => o.wf false
  | .vcmpor o => o.wf false
  | .vcvt dst o p sat => vcvtWf dst o p sat
  | .vrsum _ _ _ _ => true
  | .vrmax _ _ _ _ => true
  | .vrmin _ _ _ _ => true
  | .vperm _ _ _ _ _ _ => true
  | .vbcast t _ _ j _ _ => j.toNat < t.lanes
  | .vrot _ _ _ _ _ _ => true
  | .vzip _ _ _ _ _ _ _ => true
  | .vunzip _ _ _ _ _ _ _ => true
  | .vsel t _ _ b _ => b.wf t
  | .mand _ _ _ _ => true
  | .mor _ _ _ _ => true
  | .mxor _ _ _ _ => true
  | .mnot _ _ _ => true
  | .mpop _ _ _ => true
  | .mfirst _ _ _ => true
  | .vins t _ _ j => j.toNat < t.lanes
  | .vext t _ _ j => j.toNat < t.lanes
  | .vgath _ m _ _ => m.wfGather
  | .vscat _ m _ _ => m.wfGather
  | .lsum _ _ m _ => m.wf
  | .lmax _ _ m _ => m.wf
  | .lmin _ _ m _ => m.wf
  | .lscale _ _ m _ => m.wf
  | .qnt fmt t vd va vc n => quantWf fmt t vd va vc n
  | .qntg fmt t vd va vc n => quantWf fmt t vd va vc n
  | .dqnt fmt t vd _ _ _ => dequantWf fmt t vd
  | .ldvt vd m r => m.wf && tagOutside vd r
  | .stvt _ m _ => m.wf
  | .bdot vd _ _ n => tagOutside vd n
  | .bscale vd _ n _ => tagOutside vd n
  | .accld _ m _ => m.wf
  | .accst _ m _ => m.wf
  | .acczero _ => true
  | .mmd _ _ _ _ => true
  | .mms _ _ _ _ => true
  | .mmu _ _ _ _ => true
  | .mmus _ _ _ _ => true
  | .ufcfg _ => true
  | .send _ _ len => lenOk len
  | .sendk _ _ _ len => lenOk len
  | .recv _ _ _ => true
  | .tryrecv _ _ _ => true
  | .ringmk _ _ => true
  | .ringsend _ _ _ _ => true
  | .ringfree _ => true
  | .tsend _ _ _ len => lenOk len
  | .tsendk _ _ _ _ len => lenOk len
  | .trecv _ _ _ => true
  | .ckpt _ => true
  | .rollb => true
  | .recall _ _ => true
  | .deferStore _ _ _ len => lenOk len
  | .deferSend _ _ _ len => lenOk len
  | .deferNotify _ _ len => lenOk len
  | .gvtrd _ => true
  | .gvtwait _ => true
  | .garm _ _ => true
  | .garr _ => true
  | .gwait _ _ => true
  | .garred _ _ => true
  | .gtest _ _ => true
  | .hjoin _ _ => true
  | .hdetach _ _ => true
  | .hleave _ => true
  | .hpush _ _ => true
  | .hpop _ _ => true
  | .hpoll _ _ => true
  | .mbput _ _ _ _ => true
  | .mbget _ _ => true
  | .cpstartCap _ _ _ _ => true
  | .cpstartAddr _ _ => true
  | .cpmcast _ _ _ _ => true
  | .cpwait _ => true
  | .cpstat _ _ => true
  | .cpwm _ _ => true
  | .cpcancel _ => true
  | .spr _ r => selectorOk r
  | .spw r _ => selectorOk r
  | .evret => true
  | .fackReplay _ _ => true
  | .fackSkip _ _ => true
  | .fackTerminate _ _ => true
  | .ctxstop _ _ => true
  | .ctxgo _ _ => true
  | .xinvEntry _ _ => true
  | .xinvAsid _ _ => true
  | .xinvAll _ _ => true
  | .xreplay _ => true
  | .slotr _ _ => true
  | .wipe _ _ => true
  | .eventDelivery _ => true
  | .lineFill _ _ _ _ => true
  | .memoryReply _ => true
  | .postedWriteAccept _ => true
  | .writePerformed _ => true
  | .flagIncrement _ => true
  | .vectorResult _ => true
  | .vectorPipeGrant _ => true
  | .tileOpComplete _ => true
  | .matrixKBlock _ => true
  | .matrixComplete _ => true
  | .lockGrant _ => true
  | .handoffEntryGiven _ _ _ => true
  | .gateArrivalCounts _ _ => true
  | .gateSweep _ _ _ => true
  | .gateRelease _ _ => true
  | .ringSlotWrite _ => true
  | .moveByteCopy _ => true
  | .timedMessageArrival _ => true
  | .recallArrival _ => true
  | .acknowledgement _ => true
  | .backPressureResend _ => true
  | .flipSweep _ => true
  | .countSweep _ => true
  | .deferredRelease _ => true
  | .faultRecordPost _ => true
  | .timer _ => true
  | .sleepExpiry _ => true
  | .sleepDepthEntry _ => true
  | .coreWake _ => true
  | .exitTest _ _ => true
  | .timingReplay _ => true
  | .scrubMaintenanceSlot _ _ => true
  | .scrubBlock _ _ => true
  | .slotTableTakesEffect _ => true
  | .slotCommit _ => true
  | .ctxLoad _ _ _ => true
  | .ctxSave _ _ _ => true
  | .ctxRelease _ _ => true
  | .ctxCmdComplete _ => true
  | .translationMiss _ => true
  | .tableWalkDone _ _ _ => true
  | .niRetry _ => true
  | .stationAck _ _ => true
  | .fbPop _ => true
  | .fbFail _ _ => true
  | .stnReplayAll _ => true
  | .stnInvalidateAll _ => true
  | .registerWrite _ _ => true
  | .bteRequest _ _ => true
  | .bteRetry _ _ => true
  | .channelBlockWrite _ _ _ => true
  | .channelComplete _ _ => true
  | .mcastAck _ _ _ => true
  | .windowRead _ => true
  | .windowWrite _ => true
  | .windowWrite64 _ => true
  | .windowAtomic _ => true
  | .replyWithData _ => true
  | .replyStatus _ => true
  | .refusal _ => true
  | .blockCopied _ => true
  | .hitchPrepared _ => true
  | .hitchCommit _ => true
  | .hitchAbort _ => true
  | .hitchJoinRequest _ => true
  | .hitchDetachRequest _ => true
  | .hitchAcknowledge _ => true
  | .exitNotice _ => true
  | .withdraw _ => true
  | .hitchPrepare _ _ _ _ => true
  | .linkReplay _ => true
  | .portRetrain _ _ => true
  | .portDown _ => true
  | .launch _ _ => true
  | .feed _ _ => true
  | .cancel _ _ => true
  | .doorbell _ _ _ => true
  | .launchPlacement _ _ _ _ => true
  | .launchCompletion _ => true
  | .completionRecord _ => true
  | .paddockPreempt _ => true
  | .graceExpiry _ => true
  | .quantumExpiry _ => true
  | .openLatest _ => true
  | .openPrivate _ => true
  | .publish _ => true
  | .close _ => true
  | .hostLoss _ => true
  | .extentWithdraw _ _ => true
  | .withdrawComplete _ _ => true
  | .getVersion _ => true
  | .getCapabilities _ => true
  | .negotiateAlgorithms _ => true
  | .getDigests _ => true
  | .getCertificate _ => true
  | .challenge _ => true
  | .getMeasurements _ _ => true
  | .keyExchange _ => true
  | .finish _ => true
  | .keyUpdate _ => true
  | .heartbeat _ => true
  | .endSession _ => true
  | .vendorDefinedRequest _ _ => true
  | .unsupportedRequest _ _ => true
  | .heartbeatTimeout _ => true
  | .lockInterfaceRequest _ _ => true
  | .getDeviceInterfaceReport _ _ => true
  | .startInterfaceRequest _ _ => true
  | .stopInterfaceRequest _ _ => true
  | .ideIntegrityFailure _ => true
  | .securityAlarm _ => true
  | .testModeEntry => true
  | .thermalThrottle _ => true
  | .powerGood _ => true
  | .startWatchdog => true
  | .firstQueueEnable _ => true
  | .packageSleep => true
  | .packageResume => true
  | .powerLoss => true
  | .unusedTurn _ => true
  | .paddockRebind _ _ _ => true
  | .cxlMemAccess _ _ _ _ => true
  | .unknownOp _ _ => true
  | .unknownPacketType _ => true
  | .wipePassEnd _ => true
  | .stopCompletion _ => true

/-- Whether a constructor is an instruction with a word of its own; the other constructors are events. -/
def Instr.coded : Instr → Bool
  | .nop => true
  | .add _ _ _ => true
  | .sub _ _ _ => true
  | .mul _ _ _ => true
  | .mulh _ _ _ => true
  | .mulhn _ _ _ => true
  | .div _ _ _ => true
  | .divn _ _ _ => true
  | .rem _ _ _ => true
  | .remn _ _ _ => true
  | .adds _ _ _ => true
  | .subs _ _ _ => true
  | .addsn _ _ _ => true
  | .subsn _ _ _ => true
  | .andB _ _ _ => true
  | .orB _ _ _ => true
  | .xorB _ _ _ => true
  | .andn _ _ _ => true
  | .shl _ _ _ => true
  | .shr _ _ _ => true
  | .sar _ _ _ => true
  | .rol _ _ _ => true
  | .ror _ _ _ => true
  | .clz _ _ => true
  | .ctz _ _ => true
  | .popc _ _ => true
  | .brev _ _ => true
  | .bswap _ _ => true
  | .min _ _ _ => true
  | .max _ _ _ => true
  | .minn _ _ _ => true
  | .maxn _ _ _ => true
  | .addi _ _ _ => true
  | .andi _ _ _ => true
  | .ori _ _ _ => true
  | .xori _ _ _ => true
  | .shli _ _ _ => true
  | .shri _ _ _ => true
  | .sari _ _ _ => true
  | .mov _ _ => true
  | .movi _ _ => true
  | .movhi _ _ _ => true
  | .sext _ _ _ => true
  | .zext _ _ _ => true
  | .sel _ _ _ _ => true
  | .seq _ _ _ => true
  | .slt _ _ _ => true
  | .sltn _ _ _ => true
  | .addx _ _ _ _ => true
  | .fadd _ _ _ _ _ => true
  | .fsub _ _ _ _ _ => true
  | .fmul _ _ _ _ _ => true
  | .fdiv _ _ _ _ _ => true
  | .fsqrt _ _ _ _ => true
  | .fmin _ _ _ _ => true
  | .fmax _ _ _ _ => true
  | .fabs _ _ _ => true
  | .fneg _ _ _ => true
  | .fma _ _ _ _ _ _ => true
  | .fms _ _ _ _ _ _ => true
  | .fnma _ _ _ _ _ _ => true
  | .fnms _ _ _ _ _ _ => true
  | .cvt _ _ _ _ _ => true
  | .cvts _ _ _ _ _ => true
  | .fint _ _ _ _ => true
  | .fclass _ _ _ => true
  | .fseq _ _ _ _ => true
  | .fslt _ _ _ _ => true
  | .fsle _ _ _ _ => true
  | .fsun _ _ _ _ => true
  | .skeq _ _ _ _ => true
  | .skne _ _ _ _ => true
  | .sklt _ _ _ _ => true
  | .skge _ _ _ _ => true
  | .skgt _ _ _ _ => true
  | .skle _ _ _ _ => true
  | .skun _ _ _ _ => true
  | .skor _ _ _ _ => true
  | .br _ => true
  | .call _ _ => true
  | .jr _ => true
  | .callr _ _ => true
  | .ret _ => true
  | .beqz _ _ => true
  | .bnez _ _ => true
  | .bltz _ _ => true
  | .bgez _ _ => true
  | .loop _ _ => true
  | .incblt _ _ _ => true
  | .callk _ _ _ => true
  | .retk _ _ => true
  | .jk _ _ => true
  | .halt => true
  | .sleep _ => true
  | .yield => true
  | .ldb _ _ => true
  | .ldh _ _ => true
  | .ldw _ _ => true
  | .ldd _ _ => true
  | .ldbs _ _ => true
  | .ldhs _ _ => true
  | .ldws _ _ => true
  | .stb _ _ => true
  | .sth _ _ => true
  | .stw _ _ => true
  | .std _ _ => true
  | .ldv _ _ => true
  | .stv _ _ => true
  | .stdf _ _ _ => true
  | .stvf _ _ _ => true
  | .wrep _ _ _ => true
  | .ldtag _ _ => true
  | .sttag _ _ => true
  | .lock _ _ => true
  | .unlock => true
  | .cmov _ _ => true
  | .cswap _ _ => true
  | .cdrop _ => true
  | .csplit _ _ _ _ => true
  | .cjoin _ _ => true
  | .cnarrow _ _ _ => true
  | .crights _ _ _ => true
  | .cstash _ _ => true
  | .cfetch _ _ => true
  | .cinsp _ _ _ => true
  | .aswap _ _ _ _ _ _ => true
  | .aadd _ _ _ _ _ _ => true
  | .aand _ _ _ _ _ _ => true
  | .aor _ _ _ _ _ _ => true
  | .axor _ _ _ _ _ _ => true
  | .amax _ _ _ _ _ _ => true
  | .amin _ _ _ _ _ _ => true
  | .acas _ _ _ _ _ _ => true
  | .redadd _ _ _ _ _ => true
  | .redand _ _ _ _ _ => true
  | .redor _ _ _ _ _ => true
  | .redxor _ _ _ _ _ => true
  | .redmax _ _ _ _ _ => true
  | .redmin _ _ _ _ _ => true
  | .veropenRead _ _ => true
  | .veropenPrivate _ _ => true
  | .verclose _ => true
  | .verpub _ _ => true
  | .vadd _ => true
  | .vsub _ => true
  | .vmul _ => true
  | .vdiv _ => true
  | .vmin _ => true
  | .vmax _ => true
  | .vabs _ => true
  | .vneg _ => true
  | .vsqrt _ => true
  | .vfma _ => true
  | .vfms _ => true
  | .vfnma _ => true
  | .vadds _ => true
  | .vsubs _ => true
  | .vand _ => true
  | .vor _ => true
  | .vxor _ => true
  | .vandn _ => true
  | .vshl _ => true
  | .vshr _ => true
  | .vsar _ => true
  | .vcmpeq _ => true
  | .vcmpne _ => true
  | .vcmplt _ => true
  | .vcmpge _ => true
  | .vcmpgt _ => true
  | .vcmple _ => true
  | .vcmpun _ => true
  | .vcmpor _ => true
  | .vcvt _ _ _ _ => true
  | .vrsum _ _ _ _ => true
  | .vrmax _ _ _ _ => true
  | .vrmin _ _ _ _ => true
  | .vperm _ _ _ _ _ _ => true
  | .vbcast _ _ _ _ _ _ => true
  | .vrot _ _ _ _ _ _ => true
  | .vzip _ _ _ _ _ _ _ => true
  | .vunzip _ _ _ _ _ _ _ => true
  | .vsel _ _ _ _ _ => true
  | .mand _ _ _ _ => true
  | .mor _ _ _ _ => true
  | .mxor _ _ _ _ => true
  | .mnot _ _ _ => true
  | .mpop _ _ _ => true
  | .mfirst _ _ _ => true
  | .vins _ _ _ _ => true
  | .vext _ _ _ _ => true
  | .vgath _ _ _ _ => true
  | .vscat _ _ _ _ => true
  | .lsum _ _ _ _ => true
  | .lmax _ _ _ _ => true
  | .lmin _ _ _ _ => true
  | .lscale _ _ _ _ => true
  | .qnt _ _ _ _ _ _ => true
  | .qntg _ _ _ _ _ _ => true
  | .dqnt _ _ _ _ _ _ => true
  | .ldvt _ _ _ => true
  | .stvt _ _ _ => true
  | .bdot _ _ _ _ => true
  | .bscale _ _ _ _ => true
  | .accld _ _ _ => true
  | .accst _ _ _ => true
  | .acczero _ => true
  | .mmd _ _ _ _ => true
  | .mms _ _ _ _ => true
  | .mmu _ _ _ _ => true
  | .mmus _ _ _ _ => true
  | .ufcfg _ => true
  | .send _ _ _ => true
  | .sendk _ _ _ _ => true
  | .recv _ _ _ => true
  | .tryrecv _ _ _ => true
  | .ringmk _ _ => true
  | .ringsend _ _ _ _ => true
  | .ringfree _ => true
  | .tsend _ _ _ _ => true
  | .tsendk _ _ _ _ _ => true
  | .trecv _ _ _ => true
  | .ckpt _ => true
  | .rollb => true
  | .recall _ _ => true
  | .deferStore _ _ _ _ => true
  | .deferSend _ _ _ _ => true
  | .deferNotify _ _ _ => true
  | .gvtrd _ => true
  | .gvtwait _ => true
  | .garm _ _ => true
  | .garr _ => true
  | .gwait _ _ => true
  | .garred _ _ => true
  | .gtest _ _ => true
  | .hjoin _ _ => true
  | .hdetach _ _ => true
  | .hleave _ => true
  | .hpush _ _ => true
  | .hpop _ _ => true
  | .hpoll _ _ => true
  | .mbput _ _ _ _ => true
  | .mbget _ _ => true
  | .cpstartCap _ _ _ _ => true
  | .cpstartAddr _ _ => true
  | .cpmcast _ _ _ _ => true
  | .cpwait _ => true
  | .cpstat _ _ => true
  | .cpwm _ _ => true
  | .cpcancel _ => true
  | .spr _ _ => true
  | .spw _ _ => true
  | .evret => true
  | .fackReplay _ _ => true
  | .fackSkip _ _ => true
  | .fackTerminate _ _ => true
  | .ctxstop _ _ => true
  | .ctxgo _ _ => true
  | .xinvEntry _ _ => true
  | .xinvAsid _ _ => true
  | .xinvAll _ _ => true
  | .xreplay _ => true
  | .slotr _ _ => true
  | .wipe _ _ => true
  | .eventDelivery _ => false
  | .lineFill _ _ _ _ => false
  | .memoryReply _ => false
  | .postedWriteAccept _ => false
  | .writePerformed _ => false
  | .flagIncrement _ => false
  | .vectorResult _ => false
  | .vectorPipeGrant _ => false
  | .tileOpComplete _ => false
  | .matrixKBlock _ => false
  | .matrixComplete _ => false
  | .lockGrant _ => false
  | .handoffEntryGiven _ _ _ => false
  | .gateArrivalCounts _ _ => false
  | .gateSweep _ _ _ => false
  | .gateRelease _ _ => false
  | .ringSlotWrite _ => false
  | .moveByteCopy _ => false
  | .timedMessageArrival _ => false
  | .recallArrival _ => false
  | .acknowledgement _ => false
  | .backPressureResend _ => false
  | .flipSweep _ => false
  | .countSweep _ => false
  | .deferredRelease _ => false
  | .faultRecordPost _ => false
  | .timer _ => false
  | .sleepExpiry _ => false
  | .sleepDepthEntry _ => false
  | .coreWake _ => false
  | .exitTest _ _ => false
  | .timingReplay _ => false
  | .scrubMaintenanceSlot _ _ => false
  | .scrubBlock _ _ => false
  | .slotTableTakesEffect _ => false
  | .slotCommit _ => false
  | .ctxLoad _ _ _ => false
  | .ctxSave _ _ _ => false
  | .ctxRelease _ _ => false
  | .ctxCmdComplete _ => false
  | .translationMiss _ => false
  | .tableWalkDone _ _ _ => false
  | .niRetry _ => false
  | .stationAck _ _ => false
  | .fbPop _ => false
  | .fbFail _ _ => false
  | .stnReplayAll _ => false
  | .stnInvalidateAll _ => false
  | .registerWrite _ _ => false
  | .bteRequest _ _ => false
  | .bteRetry _ _ => false
  | .channelBlockWrite _ _ _ => false
  | .channelComplete _ _ => false
  | .mcastAck _ _ _ => false
  | .windowRead _ => false
  | .windowWrite _ => false
  | .windowWrite64 _ => false
  | .windowAtomic _ => false
  | .replyWithData _ => false
  | .replyStatus _ => false
  | .refusal _ => false
  | .blockCopied _ => false
  | .hitchPrepared _ => false
  | .hitchCommit _ => false
  | .hitchAbort _ => false
  | .hitchJoinRequest _ => false
  | .hitchDetachRequest _ => false
  | .hitchAcknowledge _ => false
  | .exitNotice _ => false
  | .withdraw _ => false
  | .hitchPrepare _ _ _ _ => false
  | .linkReplay _ => false
  | .portRetrain _ _ => false
  | .portDown _ => false
  | .launch _ _ => false
  | .feed _ _ => false
  | .cancel _ _ => false
  | .doorbell _ _ _ => false
  | .launchPlacement _ _ _ _ => false
  | .launchCompletion _ => false
  | .completionRecord _ => false
  | .paddockPreempt _ => false
  | .graceExpiry _ => false
  | .quantumExpiry _ => false
  | .openLatest _ => false
  | .openPrivate _ => false
  | .publish _ => false
  | .close _ => false
  | .hostLoss _ => false
  | .extentWithdraw _ _ => false
  | .withdrawComplete _ _ => false
  | .getVersion _ => false
  | .getCapabilities _ => false
  | .negotiateAlgorithms _ => false
  | .getDigests _ => false
  | .getCertificate _ => false
  | .challenge _ => false
  | .getMeasurements _ _ => false
  | .keyExchange _ => false
  | .finish _ => false
  | .keyUpdate _ => false
  | .heartbeat _ => false
  | .endSession _ => false
  | .vendorDefinedRequest _ _ => false
  | .unsupportedRequest _ _ => false
  | .heartbeatTimeout _ => false
  | .lockInterfaceRequest _ _ => false
  | .getDeviceInterfaceReport _ _ => false
  | .startInterfaceRequest _ _ => false
  | .stopInterfaceRequest _ _ => false
  | .ideIntegrityFailure _ => false
  | .securityAlarm _ => false
  | .testModeEntry => false
  | .thermalThrottle _ => false
  | .powerGood _ => false
  | .startWatchdog => false
  | .firstQueueEnable _ => false
  | .packageSleep => false
  | .packageResume => false
  | .powerLoss => false
  | .unusedTurn _ => false
  | .paddockRebind _ _ _ => false
  | .cxlMemAccess _ _ _ _ => false
  | .unknownOp _ _ => false
  | .unknownPacketType _ => false
  | .wipePassEnd _ => false
  | .stopCompletion _ => false

end Sys2Proof
end

