-- ==== Sys2Proof/Decode.lean ====
section
/-! DEFINITION. Decoding a 96-bit word (R92 to R108, R117 to R129) and, after it, the encoder, both from the encoding tables
of spec/03_instruction_encoding.md, spec/04_opcode_map.md and the instruction chapters. A word is an instruction if its
fields name one that is well-formed and that encodes to the word itself: a reserved bit, or a field that the instruction
does not use, that is not zero makes the word differ from its encoding (R92, R108).
`decode` is marked noncomputable only because compiled code cannot build a constructor whose number is above 244; the
kernel evaluates it. -/

namespace Sys2Proof

/-- Codes of the rounding modes (R63). -/
def Rm.code : Rm → BitVec 2
  | .rne => 0 | .rtz => 1 | .rup => 2 | .rdn => 3

/-- The rounding mode of a code (R63). -/
def Rm.ofCode (c : BitVec 2) : Rm :=
  match c.toNat with
  | 0 => .rne | 1 => .rtz | 2 => .rup | _ => .rdn

/-- Codes of the element types (R25). -/
def Ty.code : Ty → BitVec 4
  | .s8 => 0 | .s16 => 1 | .s32 => 2 | .s64 => 3 | .n8 => 4 | .n16 => 5 | .n32 => 6 | .n64 => 7
  | .bf16 => 8 | .f16 => 9 | .f32 => 10 | .f64 => 11 | .e4m3 => 12 | .e5m2 => 13

/-- The element type of a code; 14 and 15 are reserved (R25). -/
def Ty.ofCode (c : BitVec 4) : Option Ty :=
  match c.toNat with
  | 0 => some .s8 | 1 => some .s16 | 2 => some .s32 | 3 => some .s64
  | 4 => some .n8 | 5 => some .n16 | 6 => some .n32 | 7 => some .n64
  | 8 => some .bf16 | 9 => some .f16 | 10 => some .f32 | 11 => some .f64
  | 12 => some .e4m3 | 13 => some .e5m2
  | _ => none

/-- The scalar floating-point type of a code, 8 to 11 (R119). -/
def FTy.ofCode (c : BitVec 4) : Option FTy :=
  match c.toNat with
  | 8 => some .bf16 | 9 => some .f16 | 10 => some .f32 | 11 => some .f64
  | _ => none

/-- The atomic type of a code: 2, 3, 6, 7, 10 or 11 (R119, R181). -/
def ATy.ofCode (c : BitVec 4) : Option ATy :=
  match c.toNat with
  | 2 => some .s32 | 3 => some .s64 | 6 => some .n32 | 7 => some .n64 | 10 => some .f32 | 11 => some .f64
  | _ => none

/-! Fields. Bits [95:88] and [87:80] are the major and the function; the rest is laid out by format (R92, R94 to R100). -/

def fMajor (w : InstWord) : BitVec 8 := w.extractLsb' 88 8
def fFunc (w : InstWord) : BitVec 8 := w.extractLsb' 80 8
/-- func[7:4] (R119). -/
def fOp (w : InstWord) : BitVec 4 := w.extractLsb' 84 4
/-- func[3:0] (R119). -/
def fTy (w : InstWord) : BitVec 4 := w.extractLsb' 80 4

/-! Format G (R94). -/

def gD (w : InstWord) : WReg := w.extractLsb' 73 7
def gA (w : InstWord) : WReg := w.extractLsb' 66 7
def gB (w : InstWord) : WReg := w.extractLsb' 59 7
def gC (w : InstWord) : WReg := w.extractLsb' 52 7
def gRm (w : InstWord) : BitVec 2 := w.extractLsb' 50 2
def gImm (w : InstWord) : BitVec 48 := w.extractLsb' 0 48

/-- A format-G word (R94). -/
def packG (major func : BitVec 8) (d a b c : WReg) (rm : BitVec 2) (imm : BitVec 48) : InstWord :=
  major ++ func ++ d ++ a ++ b ++ c ++ rm ++ 0#2 ++ imm

/-! Format M (R95). -/

def mD (w : InstWord) : WReg := w.extractLsb' 73 7
def mK (w : InstWord) : KReg := w.extractLsb' 69 4
def mX (w : InstWord) : WReg := w.extractLsb' 62 7
def mXen (w : InstWord) : Bool := w.getLsbD 61
def mSh (w : InstWord) : BitVec 3 := w.extractLsb' 58 3
def mS (w : InstWord) : WReg := w.extractLsb' 51 7
def mAcq (w : InstWord) : Bool := w.getLsbD 50
def mRel (w : InstWord) : Bool := w.getLsbD 49
def mDisp (w : InstWord) : BitVec 48 := w.extractLsb' 0 48

/-- The memory operand of a format-M word (R95, R96). -/
def mOperand (w : InstWord) : MemOp := { k := mK w, x := mX w, xen := mXen w, sh := mSh w, disp := mDisp w }

/-- A format-M word (R95). -/
def packM (major func : BitVec 8) (d : WReg) (m : MemOp) (s : WReg) (acq rel : Bool) : InstWord :=
  major ++ func ++ d ++ m.k ++ m.x ++ BitVec.ofBool m.xen ++ m.sh ++ s ++ BitVec.ofBool acq ++ BitVec.ofBool rel
    ++ 0#1 ++ m.disp

/-! Format V (R97). -/

def vVd (w : InstWord) : VReg := w.extractLsb' 76 4
def vVa (w : InstWord) : VReg := w.extractLsb' 72 4
def vVb (w : InstWord) : VReg := w.extractLsb' 68 4
def vVc (w : InstWord) : VReg := w.extractLsb' 64 4
def vMask (w : InstWord) : MReg := w.extractLsb' 61 3
def vTy (w : InstWord) : BitVec 4 := w.extractLsb' 57 4
def vRm (w : InstWord) : BitVec 2 := w.extractLsb' 55 2
def vZ (w : InstWord) : Bool := w.getLsbD 54
def vBsel (w : InstWord) : BitVec 2 := w.extractLsb' 52 2
def vImm (w : InstWord) : BitVec 48 := w.extractLsb' 0 48

/-- A format-V word with its fields given (R97). -/
def packVf (major func : BitVec 8) (vd va vb vc : VReg) (mask : MReg) (ty : BitVec 4) (rm : BitVec 2) (z : Bool)
    (bsel : BitVec 2) (imm : BitVec 48) : InstWord :=
  major ++ func ++ vd ++ va ++ vb ++ vc ++ mask ++ ty ++ rm ++ BitVec.ofBool z ++ bsel ++ 0#4 ++ imm

/-- A format-V word whose form has no bsel (R97). -/
def packVi (major func : BitVec 8) (vd va vb vc : VReg) (mask : MReg) (ty : BitVec 4) (rm : BitVec 2) (z : Bool)
    (imm : BitVec 48) : InstWord :=
  packVf major func vd va vb vc mask ty rm z 0 imm

/-- A format-V word whose second operand is chosen by bsel (R97). -/
def packV (major func : BitVec 8) (vd va vc : VReg) (mask : MReg) (ty : BitVec 4) (rm : BitVec 2) (z : Bool)
    (b : BOp) : InstWord :=
  match b with
  | .group v => packVf major func vd va v vc mask ty rm z 0 0
  | .reg r => packVf major func vd va 0 vc mask ty rm z 1 (BitVec.setWidth 48 r)
  | .imm i => packVf major func vd va 0 vc mask ty rm z 2 i

/-- The second operand by bsel; 3 is reserved (R97). -/
def vOperand (w : InstWord) : Option BOp :=
  match (vBsel w).toNat with
  | 0 => some (.group (vVb w))
  | 1 => some (.reg (BitVec.setWidth 7 (vImm w)))
  | 2 => some (.imm (vImm w))
  | _ => none

def vBin (w : InstWord) : Option VBin :=
  (Ty.ofCode (vTy w)).bind fun t => (vOperand w).map fun b =>
    { vd := vVd w, va := vVa w, b := b, mask := vMask w, ty := t, rm := Rm.ofCode (vRm w), z := vZ w }

def vUn (w : InstWord) : Option VUn :=
  (Ty.ofCode (vTy w)).map fun t =>
    { vd := vVd w, va := vVa w, mask := vMask w, ty := t, rm := Rm.ofCode (vRm w), z := vZ w }

def vTer (w : InstWord) : Option VTer :=
  (Ty.ofCode (vTy w)).bind fun t => (vOperand w).map fun b =>
    { vd := vVd w, va := vVa w, b := b, vc := vVc w, mask := vMask w, ty := t, rm := Rm.ofCode (vRm w), z := vZ w }

def vCmp (w : InstWord) : Option VCmp :=
  (Ty.ofCode (vTy w)).bind fun t => (vOperand w).map fun b =>
    { md := BitVec.setWidth 3 (vVd w), va := vVa w, b := b, mask := vMask w, ty := t, z := vZ w }

/-! Format B (R98). -/

def bD (w : InstWord) : WReg := w.extractLsb' 73 7
def bA (w : InstWord) : WReg := w.extractLsb' 66 7
def bB (w : InstWord) : WReg := w.extractLsb' 59 7
def bKc (w : InstWord) : KReg := w.extractLsb' 55 4

/-- The displacement and slot of a format-B word (R98). -/
def bTarget (w : InstWord) : Target := { disp := w.extractLsb' 3 45, slot := w.extractLsb' 0 3 }

/-- A format-B word (R98). -/
def packB (major func : BitVec 8) (d a b : WReg) (kc : KReg) (t : Target) : InstWord :=
  major ++ func ++ d ++ a ++ b ++ kc ++ 0#7 ++ t.disp ++ t.slot

/-! Format S (R100). -/

def sA (w : InstWord) : WReg := w.extractLsb' 66 7
def sN (w : InstWord) : BitVec 2 := w.extractLsb' 53 2

/-- The second operand of a compare-skip by its i bit (R100, R143). -/
def sOperand (w : InstWord) : SkipOp :=
  if w.getLsbD 52 then .imm (w.extractLsb' 0 48) else .reg (w.extractLsb' 59 7)

/-- A format-S word (R100). -/
def packS (func : BitVec 8) (a : WReg) (q : SkipOp) (n : BitVec 2) : InstWord :=
  match q with
  | .reg b => 0x30#8 ++ func ++ 0#7 ++ a ++ b ++ 0#4 ++ n ++ 0#1 ++ 0#4 ++ 0#48
  | .imm i => 0x30#8 ++ func ++ 0#7 ++ a ++ 0#7 ++ 0#4 ++ n ++ 1#1 ++ 0#4 ++ i

/-! The function tables of the majors. -/

/-- Major 0x01. -/
noncomputable def decode01 (w : InstWord) : Option Instr :=
  match (fFunc w).toNat with
  | 0 => some .nop
  | _ => none

/-- Major 0x02. -/
noncomputable def decode02 (w : InstWord) : Option Instr :=
  match (fFunc w).toNat with
  | 0 => some (.add (gD w) (gA w) (gB w))
  | 1 => some (.sub (gD w) (gA w) (gB w))
  | 2 => some (.mul (gD w) (gA w) (gB w))
  | 3 => some (.mulh (gD w) (gA w) (gB w))
  | 4 => some (.mulhn (gD w) (gA w) (gB w))
  | 5 => some (.div (gD w) (gA w) (gB w))
  | 6 => some (.divn (gD w) (gA w) (gB w))
  | 7 => some (.rem (gD w) (gA w) (gB w))
  | 8 => some (.remn (gD w) (gA w) (gB w))
  | _ => none

/-- Major 0x03. -/
noncomputable def decode03 (w : InstWord) : Option Instr :=
  match (fFunc w).toNat with
  | 0 => some (.adds (gD w) (gA w) (gB w))
  | 1 => some (.subs (gD w) (gA w) (gB w))
  | 2 => some (.addsn (gD w) (gA w) (gB w))
  | 3 => some (.subsn (gD w) (gA w) (gB w))
  | _ => none

/-- Major 0x04. -/
noncomputable def decode04 (w : InstWord) : Option Instr :=
  match (fFunc w).toNat with
  | 0 => some (.andB (gD w) (gA w) (gB w))
  | 1 => some (.orB (gD w) (gA w) (gB w))
  | 2 => some (.xorB (gD w) (gA w) (gB w))
  | 3 => some (.andn (gD w) (gA w) (gB w))
  | _ => none

/-- Major 0x05. -/
noncomputable def decode05 (w : InstWord) : Option Instr :=
  match (fFunc w).toNat with
  | 0 => some (.shl (gD w) (gA w) (gB w))
  | 1 => some (.shr (gD w) (gA w) (gB w))
  | 2 => some (.sar (gD w) (gA w) (gB w))
  | 3 => some (.rol (gD w) (gA w) (gB w))
  | 4 => some (.ror (gD w) (gA w) (gB w))
  | _ => none

/-- Major 0x06. -/
noncomputable def decode06 (w : InstWord) : Option Instr :=
  match (fFunc w).toNat with
  | 0 => some (.clz (gD w) (gA w))
  | 1 => some (.ctz (gD w) (gA w))
  | 2 => some (.popc (gD w) (gA w))
  | 3 => some (.brev (gD w) (gA w))
  | 4 => some (.bswap (gD w) (gA w))
  | _ => none

/-- Major 0x07. -/
noncomputable def decode07 (w : InstWord) : Option Instr :=
  match (fFunc w).toNat with
  | 0 => some (.min (gD w) (gA w) (gB w))
  | 1 => some (.max (gD w) (gA w) (gB w))
  | 2 => some (.minn (gD w) (gA w) (gB w))
  | 3 => some (.maxn (gD w) (gA w) (gB w))
  | _ => none

/-- Major 0x08. -/
noncomputable def decode08 (w : InstWord) : Option Instr :=
  match (fFunc w).toNat with
  | 0 => some (.addi (gD w) (gA w) (gImm w))
  | 1 => some (.andi (gD w) (gA w) (gImm w))
  | 2 => some (.ori (gD w) (gA w) (gImm w))
  | 3 => some (.xori (gD w) (gA w) (gImm w))
  | 4 => some (.shli (gD w) (gA w) (BitVec.setWidth 6 (gImm w)))
  | 5 => some (.shri (gD w) (gA w) (BitVec.setWidth 6 (gImm w)))
  | 6 => some (.sari (gD w) (gA w) (BitVec.setWidth 6 (gImm w)))
  | _ => none

/-- Major 0x09. -/
noncomputable def decode09 (w : InstWord) : Option Instr :=
  match (fFunc w).toNat with
  | 0 => some (.mov (gD w) (gA w))
  | 1 => some (.movi (gD w) (gImm w))
  | 2 => some (.movhi (gD w) (gA w) (BitVec.setWidth 16 (gImm w)))
  | _ => none

/-- Major 0x0A. -/
noncomputable def decode0A (w : InstWord) : Option Instr :=
  match (fFunc w).toNat with
  | 0 => some (.sext (gD w) (gA w) (BitVec.setWidth 7 (gImm w)))
  | 1 => some (.zext (gD w) (gA w) (BitVec.setWidth 7 (gImm w)))
  | 2 => some (.sel (gD w) (gA w) (gB w) (gC w))
  | 3 => some (.seq (gD w) (gA w) (gB w))
  | 4 => some (.slt (gD w) (gA w) (gB w))
  | 5 => some (.sltn (gD w) (gA w) (gB w))
  | _ => none

/-- Major 0x0B. -/
noncomputable def decode0B (w : InstWord) : Option Instr :=
  match (fFunc w).toNat with
  | 0 => some (.addx (gD w) (gA w) (gB w) (BitVec.setWidth 3 (gImm w)))
  | _ => none

/-- Major 0x20. -/
noncomputable def decode20 (w : InstWord) : Option Instr :=
  match (fOp w).toNat with
  | 0 => (FTy.ofCode (fTy w)).map fun t => .fadd t (gD w) (gA w) (gB w) (Rm.ofCode (gRm w))
  | 1 => (FTy.ofCode (fTy w)).map fun t => .fsub t (gD w) (gA w) (gB w) (Rm.ofCode (gRm w))
  | 2 => (FTy.ofCode (fTy w)).map fun t => .fmul t (gD w) (gA w) (gB w) (Rm.ofCode (gRm w))
  | 3 => (FTy.ofCode (fTy w)).map fun t => .fdiv t (gD w) (gA w) (gB w) (Rm.ofCode (gRm w))
  | 4 => (FTy.ofCode (fTy w)).map fun t => .fsqrt t (gD w) (gA w) (Rm.ofCode (gRm w))
  | 5 => (FTy.ofCode (fTy w)).map fun t => .fmin t (gD w) (gA w) (gB w)
  | 6 => (FTy.ofCode (fTy w)).map fun t => .fmax t (gD w) (gA w) (gB w)
  | 7 => (FTy.ofCode (fTy w)).map fun t => .fabs t (gD w) (gA w)
  | 8 => (FTy.ofCode (fTy w)).map fun t => .fneg t (gD w) (gA w)
  | _ => none

/-- Major 0x21. -/
noncomputable def decode21 (w : InstWord) : Option Instr :=
  match (fOp w).toNat with
  | 0 => (FTy.ofCode (fTy w)).map fun t => .fma t (gD w) (gA w) (gB w) (gC w) (Rm.ofCode (gRm w))
  | 1 => (FTy.ofCode (fTy w)).map fun t => .fms t (gD w) (gA w) (gB w) (gC w) (Rm.ofCode (gRm w))
  | 2 => (FTy.ofCode (fTy w)).map fun t => .fnma t (gD w) (gA w) (gB w) (gC w) (Rm.ofCode (gRm w))
  | 3 => (FTy.ofCode (fTy w)).map fun t => .fnms t (gD w) (gA w) (gB w) (gC w) (Rm.ofCode (gRm w))
  | _ => none

/-- Major 0x22. -/
noncomputable def decode22 (w : InstWord) : Option Instr :=
  (Ty.ofCode (fOp w)).bind fun dst => (Ty.ofCode (fTy w)).map fun src => .cvt dst src (gD w) (gA w) (Rm.ofCode (gRm w))

/-- Major 0x23. -/
noncomputable def decode23 (w : InstWord) : Option Instr :=
  (Ty.ofCode (fOp w)).bind fun dst => (Ty.ofCode (fTy w)).map fun src => .cvts dst src (gD w) (gA w) (Rm.ofCode (gRm w))

/-- Major 0x24. -/
noncomputable def decode24 (w : InstWord) : Option Instr :=
  match (fOp w).toNat with
  | 0 => (FTy.ofCode (fTy w)).map fun t => .fint t (gD w) (gA w) (Rm.ofCode (gRm w))
  | 1 => (FTy.ofCode (fTy w)).map fun t => .fclass t (gD w) (gA w)
  | _ => none

/-- Major 0x25. -/
noncomputable def decode25 (w : InstWord) : Option Instr :=
  match (fOp w).toNat with
  | 0 => (FTy.ofCode (fTy w)).map fun t => .fseq t (gD w) (gA w) (gB w)
  | 1 => (FTy.ofCode (fTy w)).map fun t => .fslt t (gD w) (gA w) (gB w)
  | 2 => (FTy.ofCode (fTy w)).map fun t => .fsle t (gD w) (gA w) (gB w)
  | 3 => (FTy.ofCode (fTy w)).map fun t => .fsun t (gD w) (gA w) (gB w)
  | _ => none

/-- Major 0x30. -/
noncomputable def decode30 (w : InstWord) : Option Instr :=
  match (fOp w).toNat with
  | 0 => (Ty.ofCode (fTy w)).map fun t => .skeq t (sA w) (sOperand w) (sN w)
  | 1 => (Ty.ofCode (fTy w)).map fun t => .skne t (sA w) (sOperand w) (sN w)
  | 2 => (Ty.ofCode (fTy w)).map fun t => .sklt t (sA w) (sOperand w) (sN w)
  | 3 => (Ty.ofCode (fTy w)).map fun t => .skge t (sA w) (sOperand w) (sN w)
  | 4 => (Ty.ofCode (fTy w)).map fun t => .skgt t (sA w) (sOperand w) (sN w)
  | 5 => (Ty.ofCode (fTy w)).map fun t => .skle t (sA w) (sOperand w) (sN w)
  | 6 => (Ty.ofCode (fTy w)).map fun t => .skun t (sA w) (sOperand w) (sN w)
  | 7 => (Ty.ofCode (fTy w)).map fun t => .skor t (sA w) (sOperand w) (sN w)
  | _ => none

/-- Major 0x38. -/
noncomputable def decode38 (w : InstWord) : Option Instr :=
  match (fFunc w).toNat with
  | 0 => some (.br (bTarget w))
  | 1 => some (.call (bD w) (bTarget w))
  | 2 => some (.jr (bA w))
  | 3 => some (.callr (bD w) (bA w))
  | 4 => some (.ret (bA w))
  | _ => none

/-- Major 0x39. -/
noncomputable def decode39 (w : InstWord) : Option Instr :=
  match (fFunc w).toNat with
  | 0 => some (.beqz (bA w) (bTarget w))
  | 1 => some (.bnez (bA w) (bTarget w))
  | 2 => some (.bltz (bA w) (bTarget w))
  | 3 => some (.bgez (bA w) (bTarget w))
  | _ => none

/-- Major 0x3A. -/
noncomputable def decode3A (w : InstWord) : Option Instr :=
  match (fFunc w).toNat with
  | 0 => some (.loop (bA w) (bTarget w))
  | 1 => some (.incblt (bA w) (bB w) (bTarget w))
  | _ => none

/-- Major 0x3B. -/
noncomputable def decode3B (w : InstWord) : Option Instr :=
  match (fFunc w).toNat with
  | 0 => some (.callk (bD w) (bKc w) (bTarget w))
  | 1 => some (.retk (bA w) (BitVec.setWidth 4 (bB w)))
  | 2 => some (.jk (bKc w) (bTarget w))
  | _ => none

/-- Major 0x3C. -/
noncomputable def decode3C (w : InstWord) : Option Instr :=
  match (fFunc w).toNat with
  | 0 => some .halt
  | 1 => some (.sleep (BitVec.setWidth 32 (gImm w)))
  | 2 => some .yield
  | _ => none

/-- Major 0x40. -/
noncomputable def decode40 (w : InstWord) : Option Instr :=
  match (fFunc w).toNat with
  | 0 => some (.ldb (mD w) (mOperand w))
  | 1 => some (.ldh (mD w) (mOperand w))
  | 2 => some (.ldw (mD w) (mOperand w))
  | 3 => some (.ldd (mD w) (mOperand w))
  | 4 => some (.ldbs (mD w) (mOperand w))
  | 5 => some (.ldhs (mD w) (mOperand w))
  | 6 => some (.ldws (mD w) (mOperand w))
  | _ => none

/-- Major 0x41. -/
noncomputable def decode41 (w : InstWord) : Option Instr :=
  match (fFunc w).toNat with
  | 0 => some (.stb (mD w) (mOperand w))
  | 1 => some (.sth (mD w) (mOperand w))
  | 2 => some (.stw (mD w) (mOperand w))
  | 3 => some (.std (mD w) (mOperand w))
  | _ => none

/-- Major 0x42. -/
noncomputable def decode42 (w : InstWord) : Option Instr :=
  match (fFunc w).toNat with
  | 0 => some (.ldv (BitVec.setWidth 4 (mD w)) (mOperand w))
  | 1 => some (.stv (BitVec.setWidth 4 (mD w)) (mOperand w))
  | _ => none

/-- Major 0x43. -/
noncomputable def decode43 (w : InstWord) : Option Instr :=
  match (fFunc w).toNat with
  | 0 => some (.stdf (mD w) (mOperand w) (mS w))
  | 1 => some (.stvf (BitVec.setWidth 4 (mD w)) (mOperand w) (mS w))
  | 2 => some (.wrep (BitVec.setWidth 4 (mD w)) (mOperand w) (mS w))
  | _ => none

/-- Major 0x44. -/
noncomputable def decode44 (w : InstWord) : Option Instr :=
  match (fFunc w).toNat with
  | 0 => some (.ldtag (mD w) (mOperand w))
  | 1 => some (.sttag (mD w) (mOperand w))
  | _ => none

/-- Major 0x45. -/
noncomputable def decode45 (w : InstWord) : Option Instr :=
  match (fFunc w).toNat with
  | 0 => some (.lock (mOperand w) (mS w))
  | 1 => some .unlock
  | _ => none

/-- Major 0x58. -/
noncomputable def decode58 (w : InstWord) : Option Instr :=
  match (fFunc w).toNat with
  | 0 => some (.cmov (BitVec.setWidth 4 (gD w)) (BitVec.setWidth 4 (gA w)))
  | 1 => some (.cswap (BitVec.setWidth 4 (gD w)) (BitVec.setWidth 4 (gA w)))
  | 2 => some (.cdrop (BitVec.setWidth 4 (gA w)))
  | _ => none

/-- Major 0x59. -/
noncomputable def decode59 (w : InstWord) : Option Instr :=
  match (fFunc w).toNat with
  | 0 => some (.csplit (BitVec.setWidth 4 (gD w)) (BitVec.setWidth 4 (gA w)) (gB w) ((gImm w).getLsbD 0))
  | 1 => some (.cjoin (BitVec.setWidth 4 (gD w)) (BitVec.setWidth 4 (gA w)))
  | _ => none

/-- Major 0x5A. -/
noncomputable def decode5A (w : InstWord) : Option Instr :=
  match (fFunc w).toNat with
  | 0 => some (.cnarrow (BitVec.setWidth 4 (gD w)) (BitVec.setWidth 4 (gA w)) (gB w))
  | 1 => some (.crights (BitVec.setWidth 4 (gA w)) (BitVec.setWidth 8 (gImm w)) ((gImm w).getLsbD 8))
  | _ => none

/-- Major 0x5B. -/
noncomputable def decode5B (w : InstWord) : Option Instr :=
  match (fFunc w).toNat with
  | 0 => some (.cstash (BitVec.setWidth 4 (mD w)) (mOperand w))
  | 1 => some (.cfetch (BitVec.setWidth 4 (mD w)) (mOperand w))
  | _ => none

/-- Major 0x5C. -/
noncomputable def decode5C (w : InstWord) : Option Instr :=
  match (fFunc w).toNat with
  | 0 => some (.cinsp (gD w) (BitVec.setWidth 4 (gA w)) (BitVec.setWidth 3 (gImm w)))
  | _ => none

/-- Major 0x60. -/
noncomputable def decode60 (w : InstWord) : Option Instr :=
  match (fOp w).toNat with
  | 0 => (ATy.ofCode (fTy w)).map fun t => .aswap t (mD w) (mOperand w) (mS w) (mAcq w) (mRel w)
  | 1 => (ATy.ofCode (fTy w)).map fun t => .aadd t (mD w) (mOperand w) (mS w) (mAcq w) (mRel w)
  | 2 => (ATy.ofCode (fTy w)).map fun t => .aand t (mD w) (mOperand w) (mS w) (mAcq w) (mRel w)
  | 3 => (ATy.ofCode (fTy w)).map fun t => .aor t (mD w) (mOperand w) (mS w) (mAcq w) (mRel w)
  | 4 => (ATy.ofCode (fTy w)).map fun t => .axor t (mD w) (mOperand w) (mS w) (mAcq w) (mRel w)
  | 5 => (ATy.ofCode (fTy w)).map fun t => .amax t (mD w) (mOperand w) (mS w) (mAcq w) (mRel w)
  | 6 => (ATy.ofCode (fTy w)).map fun t => .amin t (mD w) (mOperand w) (mS w) (mAcq w) (mRel w)
  | 7 => (ATy.ofCode (fTy w)).map fun t => .acas t (mD w) (mOperand w) (mS w) (mAcq w) (mRel w)
  | _ => none

/-- Major 0x61. -/
noncomputable def decode61 (w : InstWord) : Option Instr :=
  match (fOp w).toNat with
  | 1 => (ATy.ofCode (fTy w)).map fun t => .redadd t (mOperand w) (mS w) (mAcq w) (mRel w)
  | 2 => (ATy.ofCode (fTy w)).map fun t => .redand t (mOperand w) (mS w) (mAcq w) (mRel w)
  | 3 => (ATy.ofCode (fTy w)).map fun t => .redor t (mOperand w) (mS w) (mAcq w) (mRel w)
  | 4 => (ATy.ofCode (fTy w)).map fun t => .redxor t (mOperand w) (mS w) (mAcq w) (mRel w)
  | 5 => (ATy.ofCode (fTy w)).map fun t => .redmax t (mOperand w) (mS w) (mAcq w) (mRel w)
  | 6 => (ATy.ofCode (fTy w)).map fun t => .redmin t (mOperand w) (mS w) (mAcq w) (mRel w)
  | _ => none

/-- Major 0x62. DESIGN CHOICE (log 25): R187 and R188 give verpub the function 01 and verclose 02, R125's table the other way round; the model
follows the two rules that describe the instructions; unsafe. -/
noncomputable def decode62 (w : InstWord) : Option Instr :=
  match (fFunc w).toNat with
  | 0 =>
    match (mDisp w).toNat with
    | 0 => some (.veropenRead (BitVec.setWidth 4 (mD w)) (mK w))
    | 1 => some (.veropenPrivate (BitVec.setWidth 4 (mD w)) (mK w))
    | _ => none
  | 1 => some (.verpub (mD w) (mK w))
  | 2 => some (.verclose (mK w))
  | _ => none

/-- Major 0x70. -/
noncomputable def decode70 (w : InstWord) : Option Instr :=
  match (fFunc w).toNat with
  | 0 => (vBin w).map fun o => .vadd o
  | 1 => (vBin w).map fun o => .vsub o
  | 2 => (vBin w).map fun o => .vmul o
  | 3 => (vBin w).map fun o => .vdiv o
  | 4 => (vBin w).map fun o => .vmin o
  | 5 => (vBin w).map fun o => .vmax o
  | 6 => (vUn w).map fun o => .vabs o
  | 7 => (vUn w).map fun o => .vneg o
  | 8 => (vUn w).map fun o => .vsqrt o
  | _ => none

/-- Major 0x71. -/
noncomputable def decode71 (w : InstWord) : Option Instr :=
  match (fFunc w).toNat with
  | 0 => (vTer w).map fun o => .vfma o
  | 1 => (vTer w).map fun o => .vfms o
  | 2 => (vTer w).map fun o => .vfnma o
  | _ => none

/-- Major 0x72. -/
noncomputable def decode72 (w : InstWord) : Option Instr :=
  match (fFunc w).toNat with
  | 0 => (vBin w).map fun o => .vadds o
  | 1 => (vBin w).map fun o => .vsubs o
  | _ => none

/-- Major 0x73. -/
noncomputable def decode73 (w : InstWord) : Option Instr :=
  match (fFunc w).toNat with
  | 0 => (vBin w).map fun o => .vand o
  | 1 => (vBin w).map fun o => .vor o
  | 2 => (vBin w).map fun o => .vxor o
  | 3 => (vBin w).map fun o => .vandn o
  | 4 => (vBin w).map fun o => .vshl o
  | 5 => (vBin w).map fun o => .vshr o
  | 6 => (vBin w).map fun o => .vsar o
  | _ => none

/-- Major 0x74. -/
noncomputable def decode74 (w : InstWord) : Option Instr :=
  match (fFunc w).toNat with
  | 0 => (vCmp w).map fun o => .vcmpeq o
  | 1 => (vCmp w).map fun o => .vcmpne o
  | 2 => (vCmp w).map fun o => .vcmplt o
  | 3 => (vCmp w).map fun o => .vcmpge o
  | 4 => (vCmp w).map fun o => .vcmpgt o
  | 5 => (vCmp w).map fun o => .vcmple o
  | 6 => (vCmp w).map fun o => .vcmpun o
  | 7 => (vCmp w).map fun o => .vcmpor o
  | _ => none

/-- Major 0x75. -/
noncomputable def decode75 (w : InstWord) : Option Instr :=
  (Ty.ofCode (fTy w)).bind fun dst => (vUn w).map fun o => .vcvt dst o (BitVec.setWidth 4 (vImm w)) ((vImm w).getLsbD 4)

/-- Major 0x76. -/
noncomputable def decode76 (w : InstWord) : Option Instr :=
  match (fFunc w).toNat with
  | 0 => (Ty.ofCode (vTy w)).map fun t => .vrsum t (vVd w) (vVa w) (vMask w)
  | 1 => (Ty.ofCode (vTy w)).map fun t => .vrmax t (vVd w) (vVa w) (vMask w)
  | 2 => (Ty.ofCode (vTy w)).map fun t => .vrmin t (vVd w) (vVa w) (vMask w)
  | _ => none

/-- Major 0x77. -/
noncomputable def decode77 (w : InstWord) : Option Instr :=
  match (fFunc w).toNat with
  | 0 => (Ty.ofCode (vTy w)).map fun t => .vperm t (vVd w) (vVa w) (vVb w) (vMask w) (vZ w)
  | 1 => (Ty.ofCode (vTy w)).map fun t => .vbcast t (vVd w) (vVa w) (BitVec.setWidth 6 (vImm w)) (vMask w) (vZ w)
  | 2 => (Ty.ofCode (vTy w)).map fun t => .vrot t (vVd w) (vVa w) (BitVec.setWidth 6 (vImm w)) (vMask w) (vZ w)
  | 3 => (Ty.ofCode (vTy w)).map fun t => .vzip t (vVd w) (vVa w) (vVb w) ((vImm w).getLsbD 0) (vMask w) (vZ w)
  | 4 => (Ty.ofCode (vTy w)).map fun t => .vunzip t (vVd w) (vVa w) (vVb w) ((vImm w).getLsbD 0) (vMask w) (vZ w)
  | 5 => (Ty.ofCode (vTy w)).bind fun t => (vOperand w).map fun b => .vsel t (vVd w) (vVa w) b (vMask w)
  | _ => none

/-- Major 0x78. -/
noncomputable def decode78 (w : InstWord) : Option Instr :=
  match (fFunc w).toNat with
  | 0 => (Ty.ofCode (vTy w)).map fun t => .mand t (BitVec.setWidth 3 (vVd w)) (BitVec.setWidth 3 (vVa w)) (BitVec.setWidth 3 (vVb w))
  | 1 => (Ty.ofCode (vTy w)).map fun t => .mor t (BitVec.setWidth 3 (vVd w)) (BitVec.setWidth 3 (vVa w)) (BitVec.setWidth 3 (vVb w))
  | 2 => (Ty.ofCode (vTy w)).map fun t => .mxor t (BitVec.setWidth 3 (vVd w)) (BitVec.setWidth 3 (vVa w)) (BitVec.setWidth 3 (vVb w))
  | 3 => (Ty.ofCode (vTy w)).map fun t => .mnot t (BitVec.setWidth 3 (vVd w)) (BitVec.setWidth 3 (vVa w))
  | 4 => (Ty.ofCode (vTy w)).map fun t => .mpop t (BitVec.setWidth 7 (vImm w)) (BitVec.setWidth 3 (vVa w))
  | 5 => (Ty.ofCode (vTy w)).map fun t => .mfirst t (BitVec.setWidth 7 (vImm w)) (BitVec.setWidth 3 (vVa w))
  | _ => none

/-- Major 0x79. -/
noncomputable def decode79 (w : InstWord) : Option Instr :=
  match (fFunc w).toNat with
  | 0 => (Ty.ofCode (vTy w)).map fun t => .vins t (vVd w) (BitVec.setWidth 7 (vImm w)) ((vImm w).extractLsb' 8 6)
  | 1 => (Ty.ofCode (vTy w)).map fun t => .vext t (BitVec.setWidth 7 (vImm w)) (vVa w) ((vImm w).extractLsb' 8 6)
  | _ => none

/-- Major 0x80. -/
noncomputable def decode80 (w : InstWord) : Option Instr :=
  match (fFunc w).toNat with
  | 0 => some (.vgath (BitVec.setWidth 4 (mD w)) (mOperand w) (BitVec.setWidth 4 (mS w)) ((mS w).extractLsb' 4 3))
  | 1 => some (.vscat (BitVec.setWidth 4 (mD w)) (mOperand w) (BitVec.setWidth 4 (mS w)) ((mS w).extractLsb' 4 3))
  | _ => none

/-- Major 0x81. -/
noncomputable def decode81 (w : InstWord) : Option Instr :=
  match (fFunc w).toNat with
  | 0 => (Ty.ofCode (BitVec.setWidth 4 (mS w))).map fun t => .lsum t (mD w) (mOperand w) ((mS w).extractLsb' 4 3)
  | 1 => (Ty.ofCode (BitVec.setWidth 4 (mS w))).map fun t => .lmax t (mD w) (mOperand w) ((mS w).extractLsb' 4 3)
  | 2 => (Ty.ofCode (BitVec.setWidth 4 (mS w))).map fun t => .lmin t (mD w) (mOperand w) ((mS w).extractLsb' 4 3)
  | 3 => (Ty.ofCode (BitVec.setWidth 4 (mS w))).map fun t => .lscale t (mD w) (mOperand w) ((mS w).extractLsb' 4 3)
  | _ => none

/-- Major 0xA0. -/
noncomputable def decodeA0 (w : InstWord) : Option Instr :=
  (Ty.ofCode (vTy w)).map fun t => .qnt (fFunc w) t (vVd w) (vVa w) (vVc w) (BitVec.setWidth 7 (vImm w))

/-- Major 0xA1. -/
noncomputable def decodeA1 (w : InstWord) : Option Instr :=
  (Ty.ofCode (vTy w)).map fun t => .qntg (fFunc w) t (vVd w) (vVa w) (vVc w) (BitVec.setWidth 7 (vImm w))

/-- Major 0xA2. -/
noncomputable def decodeA2 (w : InstWord) : Option Instr :=
  (Ty.ofCode (vTy w)).map fun t => .dqnt (fFunc w) t (vVd w) (vVa w) (BitVec.setWidth 7 (vImm w)) (Rm.ofCode (vRm w))

/-- Major 0xA3. -/
noncomputable def decodeA3 (w : InstWord) : Option Instr :=
  match (fFunc w).toNat with
  | 0 => some (.ldvt (BitVec.setWidth 4 (mD w)) (mOperand w) (mS w))
  | 1 => some (.stvt (BitVec.setWidth 4 (mD w)) (mOperand w) (mS w))
  | _ => none

/-- Major 0xA4. -/
noncomputable def decodeA4 (w : InstWord) : Option Instr :=
  match (fFunc w).toNat with
  | 0 => some (.bdot (vVd w) (vVa w) (vVb w) (BitVec.setWidth 7 (vImm w)))
  | 1 => some (.bscale (vVd w) (vVa w) (BitVec.setWidth 7 (vImm w)) ((vImm w).extractLsb' 8 8))
  | _ => none

/-- Major 0xB0. -/
noncomputable def decodeB0 (w : InstWord) : Option Instr :=
  match (fFunc w).toNat with
  | 0 => some (.accld (BitVec.setWidth 3 (mD w)) (mOperand w) (mS w))
  | 1 => some (.accst (BitVec.setWidth 3 (mD w)) (mOperand w) (mS w))
  | _ => none

/-- Major 0xB1. -/
noncomputable def decodeB1 (w : InstWord) : Option Instr :=
  match (fFunc w).toNat with
  | 0 => some (.acczero (BitVec.setWidth 3 (gD w)))
  | _ => none

/-- Major 0xB2. -/
noncomputable def decodeB2 (w : InstWord) : Option Instr :=
  match (fFunc w).toNat with
  | 0 => some (.mmd (BitVec.setWidth 3 (gD w)) (BitVec.setWidth 4 (gA w)) (BitVec.setWidth 4 (gB w)) (gC w))
  | 1 => some (.mms (BitVec.setWidth 3 (gD w)) (BitVec.setWidth 4 (gA w)) (BitVec.setWidth 4 (gB w)) (gC w))
  | 2 => some (.mmu (BitVec.setWidth 3 (gD w)) (BitVec.setWidth 4 (gA w)) (BitVec.setWidth 4 (gB w)) (gC w))
  | 3 => some (.mmus (BitVec.setWidth 3 (gD w)) (BitVec.setWidth 4 (gA w)) (BitVec.setWidth 4 (gB w)) (gC w))
  | _ => none

/-- Major 0xB3. -/
noncomputable def decodeB3 (w : InstWord) : Option Instr :=
  match (fFunc w).toNat with
  | 0 => some (.ufcfg (gA w))
  | _ => none

/-- Major 0xC0. -/
noncomputable def decodeC0 (w : InstWord) : Option Instr :=
  match (fFunc w).toNat with
  | 0 => some (.send (BitVec.setWidth 4 (gA w)) (gB w) (BitVec.setWidth 6 (gImm w)))
  | 1 => some (.sendk (BitVec.setWidth 4 (gA w)) (gB w) (BitVec.setWidth 4 (gC w)) (BitVec.setWidth 6 (gImm w)))
  | 2 => some (.recv (gD w) (BitVec.setWidth 4 (gA w)) (BitVec.setWidth 4 (gC w)))
  | 3 => some (.tryrecv (gD w) (BitVec.setWidth 4 (gA w)) (BitVec.setWidth 4 (gC w)))
  | _ => none

/-- Major 0xC1. -/
noncomputable def decodeC1 (w : InstWord) : Option Instr :=
  match (fFunc w).toNat with
  | 0 => some (.ringmk (BitVec.setWidth 4 (gA w)) (gB w))
  | 1 => some (.ringsend (BitVec.setWidth 4 (gD w)) (BitVec.setWidth 4 (gA w)) (gB w) (BitVec.setWidth 16 (gImm w)))
  | 2 => some (.ringfree (BitVec.setWidth 4 (gA w)))
  | _ => none

/-- Major 0xD0. -/
noncomputable def decodeD0 (w : InstWord) : Option Instr :=
  match (fFunc w).toNat with
  | 0 => some (.tsend (BitVec.setWidth 4 (gA w)) (gB w) (gC w) (BitVec.setWidth 6 (gImm w)))
  | 1 => some (.tsendk (BitVec.setWidth 4 (gD w)) (BitVec.setWidth 4 (gA w)) (gB w) (gC w) (BitVec.setWidth 6 (gImm w)))
  | 2 => some (.trecv (gD w) (BitVec.setWidth 4 (gA w)) (BitVec.setWidth 4 (gC w)))
  | _ => none

/-- Major 0xD1. -/
noncomputable def decodeD1 (w : InstWord) : Option Instr :=
  match (fFunc w).toNat with
  | 0 => some (.ckpt (gA w))
  | 1 => some .rollb
  | 2 => some (.recall (BitVec.setWidth 4 (gD w)) (gA w))
  | 3 =>
    match ((gImm w).extractLsb' 0 2).toNat with
    | 0 => some (.deferStore (gA w) (BitVec.setWidth 4 (gB w)) (gC w) ((gImm w).extractLsb' 8 6))
    | 1 => some (.deferSend (gA w) (BitVec.setWidth 4 (gB w)) (gC w) ((gImm w).extractLsb' 8 6))
    | 2 => some (.deferNotify (gA w) (gC w) ((gImm w).extractLsb' 8 6))
    | _ => none
  | _ => none

/-- Major 0xD2. -/
noncomputable def decodeD2 (w : InstWord) : Option Instr :=
  match (fFunc w).toNat with
  | 0 => some (.gvtrd (gD w))
  | 1 => some (.gvtwait (gA w))
  | _ => none

/-- Major 0xD8. -/
noncomputable def decodeD8 (w : InstWord) : Option Instr :=
  match (fFunc w).toNat with
  | 0 => some (.garm (BitVec.setWidth 2 (gD w)) (gA w))
  | 1 => some (.garr (BitVec.setWidth 2 (gD w)))
  | 2 => some (.gwait (gD w) (BitVec.setWidth 2 (gA w)))
  | 3 => some (.garred (BitVec.setWidth 2 (gD w)) (gA w))
  | 4 => some (.gtest (gD w) (BitVec.setWidth 2 (gA w)))
  | _ => none

/-- Major 0xD9. -/
noncomputable def decodeD9 (w : InstWord) : Option Instr :=
  match (fFunc w).toNat with
  | 0 => some (.hjoin (BitVec.setWidth 4 (gA w)) (gB w))
  | 1 => some (.hdetach (BitVec.setWidth 4 (gA w)) (gB w))
  | 2 => some (.hleave (BitVec.setWidth 4 (gA w)))
  | _ => none

/-- Major 0xDA. -/
noncomputable def decodeDA (w : InstWord) : Option Instr :=
  match (fFunc w).toNat with
  | 0 => some (.hpush (BitVec.setWidth 2 (gD w)) (gA w))
  | 1 => some (.hpop (gD w) (BitVec.setWidth 2 (gA w)))
  | 2 => some (.hpoll (gD w) (BitVec.setWidth 2 (gA w)))
  | 3 => some (.mbput (BitVec.setWidth 3 (gD w)) (gA w) (BitVec.setWidth 4 (gB w)) (BitVec.setWidth 4 (gC w)))
  | 4 => some (.mbget (gD w) (BitVec.setWidth 3 (gA w)))
  | _ => none

/-- Major 0xE0. -/
noncomputable def decodeE0 (w : InstWord) : Option Instr :=
  match (fFunc w).toNat with
  | 0 =>
    match (gImm w).toNat with
    | 0 => some (.cpstartCap (BitVec.setWidth 3 (gD w)) (BitVec.setWidth 4 (gA w)) (BitVec.setWidth 4 (gB w)) (gC w))
    | 1 => some (.cpstartAddr (BitVec.setWidth 3 (gD w)) (gC w))
    | _ => none
  | 1 => some (.cpmcast (BitVec.setWidth 3 (gD w)) (BitVec.setWidth 4 (gA w)) (BitVec.setWidth 4 (gB w)) (gC w))
  | 2 => some (.cpwait (BitVec.setWidth 3 (gD w)))
  | 3 => some (.cpstat (gD w) (BitVec.setWidth 3 (gA w)))
  | 4 => some (.cpwm (gD w) (BitVec.setWidth 3 (gA w)))
  | 5 => some (.cpcancel (BitVec.setWidth 3 (gD w)))
  | _ => none

/-- Major 0xF0. -/
noncomputable def decodeF0 (w : InstWord) : Option Instr :=
  match (fFunc w).toNat with
  | 0 => some (.spr (gD w) (BitVec.setWidth 8 (gImm w)))
  | 1 => some (.spw (BitVec.setWidth 8 (gImm w)) (gA w))
  | _ => none

/-- Major 0xF1. -/
noncomputable def decodeF1 (w : InstWord) : Option Instr :=
  match (fFunc w).toNat with
  | 0 => some .evret
  | _ => none

/-- Major 0xF2. -/
noncomputable def decodeF2 (w : InstWord) : Option Instr :=
  match (fFunc w).toNat with
  | 0 =>
    match (gImm w).toNat with
    | 0 => some (.fackReplay (gD w) (gA w))
    | 1 => some (.fackSkip (gD w) (gA w))
    | 2 => some (.fackTerminate (gD w) (gA w))
    | _ => none
  | _ => none

/-- Major 0xF3. -/
noncomputable def decodeF3 (w : InstWord) : Option Instr :=
  match (fFunc w).toNat with
  | 0 => some (.ctxstop (gD w) (gA w))
  | 1 => some (.ctxgo (gD w) (gA w))
  | _ => none

/-- Major 0xF4. -/
noncomputable def decodeF4 (w : InstWord) : Option Instr :=
  match (fFunc w).toNat with
  | 0 =>
    match (gImm w).toNat with
    | 0 => some (.xinvEntry (gA w) (gB w))
    | 1 => some (.xinvAsid (gA w) (gB w))
    | 2 => some (.xinvAll (gA w) (gB w))
    | _ => none
  | 1 => some (.xreplay (gA w))
  | _ => none

/-- Major 0xF5. -/
noncomputable def decodeF5 (w : InstWord) : Option Instr :=
  match (fFunc w).toNat with
  | 0 => some (.slotr (gD w) (gA w))
  | _ => none

/-- Major 0xF6. -/
noncomputable def decodeF6 (w : InstWord) : Option Instr :=
  match (fFunc w).toNat with
  | 0 => some (.wipe (gD w) (BitVec.setWidth 4 (gA w)))
  | _ => none

/-- The table of the majors (R120 to R129); a major that has no arm is unassigned (R117). -/
noncomputable def decodeMajor (w : InstWord) : Option Instr :=
  match (fMajor w).toNat with
  | 0x01 => decode01 w
  | 0x02 => decode02 w
  | 0x03 => decode03 w
  | 0x04 => decode04 w
  | 0x05 => decode05 w
  | 0x06 => decode06 w
  | 0x07 => decode07 w
  | 0x08 => decode08 w
  | 0x09 => decode09 w
  | 0x0A => decode0A w
  | 0x0B => decode0B w
  | 0x20 => decode20 w
  | 0x21 => decode21 w
  | 0x22 => decode22 w
  | 0x23 => decode23 w
  | 0x24 => decode24 w
  | 0x25 => decode25 w
  | 0x30 => decode30 w
  | 0x38 => decode38 w
  | 0x39 => decode39 w
  | 0x3A => decode3A w
  | 0x3B => decode3B w
  | 0x3C => decode3C w
  | 0x40 => decode40 w
  | 0x41 => decode41 w
  | 0x42 => decode42 w
  | 0x43 => decode43 w
  | 0x44 => decode44 w
  | 0x45 => decode45 w
  | 0x58 => decode58 w
  | 0x59 => decode59 w
  | 0x5A => decode5A w
  | 0x5B => decode5B w
  | 0x5C => decode5C w
  | 0x60 => decode60 w
  | 0x61 => decode61 w
  | 0x62 => decode62 w
  | 0x70 => decode70 w
  | 0x71 => decode71 w
  | 0x72 => decode72 w
  | 0x73 => decode73 w
  | 0x74 => decode74 w
  | 0x75 => decode75 w
  | 0x76 => decode76 w
  | 0x77 => decode77 w
  | 0x78 => decode78 w
  | 0x79 => decode79 w
  | 0x80 => decode80 w
  | 0x81 => decode81 w
  | 0xA0 => decodeA0 w
  | 0xA1 => decodeA1 w
  | 0xA2 => decodeA2 w
  | 0xA3 => decodeA3 w
  | 0xA4 => decodeA4 w
  | 0xB0 => decodeB0 w
  | 0xB1 => decodeB1 w
  | 0xB2 => decodeB2 w
  | 0xB3 => decodeB3 w
  | 0xC0 => decodeC0 w
  | 0xC1 => decodeC1 w
  | 0xD0 => decodeD0 w
  | 0xD1 => decodeD1 w
  | 0xD2 => decodeD2 w
  | 0xD8 => decodeD8 w
  | 0xD9 => decodeD9 w
  | 0xDA => decodeDA w
  | 0xE0 => decodeE0 w
  | 0xF0 => decodeF0 w
  | 0xF1 => decodeF1 w
  | 0xF2 => decodeF2 w
  | 0xF3 => decodeF3 w
  | 0xF4 => decodeF4 w
  | 0xF5 => decodeF5 w
  | 0xF6 => decodeF6 w
  | _ => none

/-- The word of an instruction, written from the tables of R94 to R100, R120 to R129 and R225. An event has no word. -/
def encode : Instr → InstWord
  | .nop => packG 0x01 0x00 0 0 0 0 0 0
  | .add d a b => packG 0x02 0x00 d a b 0 0 0
  | .sub d a b => packG 0x02 0x01 d a b 0 0 0
  | .mul d a b => packG 0x02 0x02 d a b 0 0 0
  | .mulh d a b => packG 0x02 0x03 d a b 0 0 0
  | .mulhn d a b => packG 0x02 0x04 d a b 0 0 0
  | .div d a b => packG 0x02 0x05 d a b 0 0 0
  | .divn d a b => packG 0x02 0x06 d a b 0 0 0
  | .rem d a b => packG 0x02 0x07 d a b 0 0 0
  | .remn d a b => packG 0x02 0x08 d a b 0 0 0
  | .adds d a b => packG 0x03 0x00 d a b 0 0 0
  | .subs d a b => packG 0x03 0x01 d a b 0 0 0
  | .addsn d a b => packG 0x03 0x02 d a b 0 0 0
  | .subsn d a b => packG 0x03 0x03 d a b 0 0 0
  | .andB d a b => packG 0x04 0x00 d a b 0 0 0
  | .orB d a b => packG 0x04 0x01 d a b 0 0 0
  | .xorB d a b => packG 0x04 0x02 d a b 0 0 0
  | .andn d a b => packG 0x04 0x03 d a b 0 0 0
  | .shl d a b => packG 0x05 0x00 d a b 0 0 0
  | .shr d a b => packG 0x05 0x01 d a b 0 0 0
  | .sar d a b => packG 0x05 0x02 d a b 0 0 0
  | .rol d a b => packG 0x05 0x03 d a b 0 0 0
  | .ror d a b => packG 0x05 0x04 d a b 0 0 0
  | .clz d a => packG 0x06 0x00 d a 0 0 0 0
  | .ctz d a => packG 0x06 0x01 d a 0 0 0 0
  | .popc d a => packG 0x06 0x02 d a 0 0 0 0
  | .brev d a => packG 0x06 0x03 d a 0 0 0 0
  | .bswap d a => packG 0x06 0x04 d a 0 0 0 0
  | .min d a b => packG 0x07 0x00 d a b 0 0 0
  | .max d a b => packG 0x07 0x01 d a b 0 0 0
  | .minn d a b => packG 0x07 0x02 d a b 0 0 0
  | .maxn d a b => packG 0x07 0x03 d a b 0 0 0
  | .addi d a imm => packG 0x08 0x00 d a 0 0 0 imm
  | .andi d a imm => packG 0x08 0x01 d a 0 0 0 imm
  | .ori d a imm => packG 0x08 0x02 d a 0 0 0 imm
  | .xori d a imm => packG 0x08 0x03 d a 0 0 0 imm
  | .shli d a n => packG 0x08 0x04 d a 0 0 0 (BitVec.setWidth 48 n)
  | .shri d a n => packG 0x08 0x05 d a 0 0 0 (BitVec.setWidth 48 n)
  | .sari d a n => packG 0x08 0x06 d a 0 0 0 (BitVec.setWidth 48 n)
  | .mov d a => packG 0x09 0x00 d a 0 0 0 0
  | .movi d imm => packG 0x09 0x01 d 0 0 0 0 imm
  | .movhi d a imm => packG 0x09 0x02 d a 0 0 0 (BitVec.setWidth 48 imm)
  | .sext d a n => packG 0x0A 0x00 d a 0 0 0 (BitVec.setWidth 48 n)
  | .zext d a n => packG 0x0A 0x01 d a 0 0 0 (BitVec.setWidth 48 n)
  | .sel d a b c => packG 0x0A 0x02 d a b c 0 0
  | .seq d a b => packG 0x0A 0x03 d a b 0 0 0
  | .slt d a b => packG 0x0A 0x04 d a b 0 0 0
  | .sltn d a b => packG 0x0A 0x05 d a b 0 0 0
  | .addx d a b sh => packG 0x0B 0x00 d a b 0 0 (BitVec.setWidth 48 sh)
  | .fadd t d a b rm => packG 0x20 (0x0#4 ++ t.ty.code) d a b 0 rm.code 0
  | .fsub t d a b rm => packG 0x20 (0x1#4 ++ t.ty.code) d a b 0 rm.code 0
  | .fmul t d a b rm => packG 0x20 (0x2#4 ++ t.ty.code) d a b 0 rm.code 0
  | .fdiv t d a b rm => packG 0x20 (0x3#4 ++ t.ty.code) d a b 0 rm.code 0
  | .fsqrt t d a rm => packG 0x20 (0x4#4 ++ t.ty.code) d a 0 0 rm.code 0
  | .fmin t d a b => packG 0x20 (0x5#4 ++ t.ty.code) d a b 0 0 0
  | .fmax t d a b => packG 0x20 (0x6#4 ++ t.ty.code) d a b 0 0 0
  | .fabs t d a => packG 0x20 (0x7#4 ++ t.ty.code) d a 0 0 0 0
  | .fneg t d a => packG 0x20 (0x8#4 ++ t.ty.code) d a 0 0 0 0
  | .fma t d a b c rm => packG 0x21 (0x0#4 ++ t.ty.code) d a b c rm.code 0
  | .fms t d a b c rm => packG 0x21 (0x1#4 ++ t.ty.code) d a b c rm.code 0
  | .fnma t d a b c rm => packG 0x21 (0x2#4 ++ t.ty.code) d a b c rm.code 0
  | .fnms t d a b c rm => packG 0x21 (0x3#4 ++ t.ty.code) d a b c rm.code 0
  | .cvt dst src d a rm => packG 0x22 (dst.code ++ src.code) d a 0 0 rm.code 0
  | .cvts dst src d a rm => packG 0x23 (dst.code ++ src.code) d a 0 0 rm.code 0
  | .fint t d a rm => packG 0x24 (0x0#4 ++ t.ty.code) d a 0 0 rm.code 0
  | .fclass t d a => packG 0x24 (0x1#4 ++ t.ty.code) d a 0 0 0 0
  | .fseq t d a b => packG 0x25 (0x0#4 ++ t.ty.code) d a b 0 0 0
  | .fslt t d a b => packG 0x25 (0x1#4 ++ t.ty.code) d a b 0 0 0
  | .fsle t d a b => packG 0x25 (0x2#4 ++ t.ty.code) d a b 0 0 0
  | .fsun t d a b => packG 0x25 (0x3#4 ++ t.ty.code) d a b 0 0 0
  | .skeq t a q n => packS (0x00#4 ++ t.code) a q n
  | .skne t a q n => packS (0x01#4 ++ t.code) a q n
  | .sklt t a q n => packS (0x02#4 ++ t.code) a q n
  | .skge t a q n => packS (0x03#4 ++ t.code) a q n
  | .skgt t a q n => packS (0x04#4 ++ t.code) a q n
  | .skle t a q n => packS (0x05#4 ++ t.code) a q n
  | .skun t a q n => packS (0x06#4 ++ t.code) a q n
  | .skor t a q n => packS (0x07#4 ++ t.code) a q n
  | .br tgt => packB 0x38 0x00 0 0 0 0 tgt
  | .call d tgt => packB 0x38 0x01 d 0 0 0 tgt
  | .jr a => packB 0x38 0x02 0 a 0 0 { disp := 0, slot := 0 }
  | .callr d a => packB 0x38 0x03 d a 0 0 { disp := 0, slot := 0 }
  | .ret a => packB 0x38 0x04 0 a 0 0 { disp := 0, slot := 0 }
  | .beqz a tgt => packB 0x39 0x00 0 a 0 0 tgt
  | .bnez a tgt => packB 0x39 0x01 0 a 0 0 tgt
  | .bltz a tgt => packB 0x39 0x02 0 a 0 0 tgt
  | .bgez a tgt => packB 0x39 0x03 0 a 0 0 tgt
  | .loop a tgt => packB 0x3A 0x00 0 a 0 0 tgt
  | .incblt a b tgt => packB 0x3A 0x01 0 a b 0 tgt
  | .callk d kc tgt => packB 0x3B 0x00 d 0 0 kc tgt
  | .retk a kb => packB 0x3B 0x01 0 a (BitVec.setWidth 7 kb) 0 { disp := 0, slot := 0 }
  | .jk kc tgt => packB 0x3B 0x02 0 0 0 kc tgt
  | .halt => packG 0x3C 0x00 0 0 0 0 0 0
  | .sleep n => packG 0x3C 0x01 0 0 0 0 0 (BitVec.setWidth 48 n)
  | .yield => packG 0x3C 0x02 0 0 0 0 0 0
  | .ldb d m => packM 0x40 0x00 d m 0 false false
  | .ldh d m => packM 0x40 0x01 d m 0 false false
  | .ldw d m => packM 0x40 0x02 d m 0 false false
  | .ldd d m => packM 0x40 0x03 d m 0 false false
  | .ldbs d m => packM 0x40 0x04 d m 0 false false
  | .ldhs d m => packM 0x40 0x05 d m 0 false false
  | .ldws d m => packM 0x40 0x06 d m 0 false false
  | .stb d m => packM 0x41 0x00 d m 0 false false
  | .sth d m => packM 0x41 0x01 d m 0 false false
  | .stw d m => packM 0x41 0x02 d m 0 false false
  | .std d m => packM 0x41 0x03 d m 0 false false
  | .ldv vd m => packM 0x42 0x00 (BitVec.setWidth 7 vd) m 0 false false
  | .stv vd m => packM 0x42 0x01 (BitVec.setWidth 7 vd) m 0 false false
  | .stdf d m f => packM 0x43 0x00 d m f false false
  | .stvf vd m f => packM 0x43 0x01 (BitVec.setWidth 7 vd) m f false false
  | .wrep vd m s => packM 0x43 0x02 (BitVec.setWidth 7 vd) m s false false
  | .ldtag d m => packM 0x44 0x00 d m 0 false false
  | .sttag d m => packM 0x44 0x01 d m 0 false false
  | .lock m l => packM 0x45 0x00 0 m l false false
  | .unlock => packM 0x45 0x01 0 { k := 0, x := 0, xen := false, sh := 0, disp := 0 } 0 false false
  | .cmov d a => packG 0x58 0x00 (BitVec.setWidth 7 d) (BitVec.setWidth 7 a) 0 0 0 0
  | .cswap d a => packG 0x58 0x01 (BitVec.setWidth 7 d) (BitVec.setWidth 7 a) 0 0 0 0
  | .cdrop a => packG 0x58 0x02 0 (BitVec.setWidth 7 a) 0 0 0 0
  | .csplit d a b mode => packG 0x59 0x00 (BitVec.setWidth 7 d) (BitVec.setWidth 7 a) b 0 0 (BitVec.setWidth 48 (BitVec.ofBool mode))
  | .cjoin d a => packG 0x59 0x01 (BitVec.setWidth 7 d) (BitVec.setWidth 7 a) 0 0 0 0
  | .cnarrow d a b => packG 0x5A 0x00 (BitVec.setWidth 7 d) (BitVec.setWidth 7 a) b 0 0 0
  | .crights a mask conv => packG 0x5A 0x01 0 (BitVec.setWidth 7 a) 0 0 0 (BitVec.setWidth 48 (BitVec.ofBool conv ++ mask))
  | .cstash kd m => packM 0x5B 0x00 (BitVec.setWidth 7 kd) m 0 false false
  | .cfetch kd m => packM 0x5B 0x01 (BitVec.setWidth 7 kd) m 0 false false
  | .cinsp d a field => packG 0x5C 0x00 d (BitVec.setWidth 7 a) 0 0 0 (BitVec.setWidth 48 field)
  | .aswap t d m s acq rel => packM 0x60 (0x0#4 ++ t.ty.code) d m s acq rel
  | .aadd t d m s acq rel => packM 0x60 (0x1#4 ++ t.ty.code) d m s acq rel
  | .aand t d m s acq rel => packM 0x60 (0x2#4 ++ t.ty.code) d m s acq rel
  | .aor t d m s acq rel => packM 0x60 (0x3#4 ++ t.ty.code) d m s acq rel
  | .axor t d m s acq rel => packM 0x60 (0x4#4 ++ t.ty.code) d m s acq rel
  | .amax t d m s acq rel => packM 0x60 (0x5#4 ++ t.ty.code) d m s acq rel
  | .amin t d m s acq rel => packM 0x60 (0x6#4 ++ t.ty.code) d m s acq rel
  | .acas t d m s acq rel => packM 0x60 (0x7#4 ++ t.ty.code) d m s acq rel
  | .redadd t m s acq rel => packM 0x61 (0x1#4 ++ t.ty.code) 0 m s acq rel
  | .redand t m s acq rel => packM 0x61 (0x2#4 ++ t.ty.code) 0 m s acq rel
  | .redor t m s acq rel => packM 0x61 (0x3#4 ++ t.ty.code) 0 m s acq rel
  | .redxor t m s acq rel => packM 0x61 (0x4#4 ++ t.ty.code) 0 m s acq rel
  | .redmax t m s acq rel => packM 0x61 (0x5#4 ++ t.ty.code) 0 m s acq rel
  | .redmin t m s acq rel => packM 0x61 (0x6#4 ++ t.ty.code) 0 m s acq rel
  | .veropenRead kd k => packM 0x62 0x00 (BitVec.setWidth 7 kd) { k := k, x := 0, xen := false, sh := 0, disp := 0x00#48 } 0 false false
  | .veropenPrivate kd k => packM 0x62 0x00 (BitVec.setWidth 7 kd) { k := k, x := 0, xen := false, sh := 0, disp := 0x01#48 } 0 false false
  | .verclose k => packM 0x62 0x02 0 { k := k, x := 0, xen := false, sh := 0, disp := 0 } 0 false false
  | .verpub d k => packM 0x62 0x01 d { k := k, x := 0, xen := false, sh := 0, disp := 0 } 0 false false
  | .vadd o => packV 0x70 0x00 o.vd o.va 0 o.mask o.ty.code o.rm.code o.z o.b
  | .vsub o => packV 0x70 0x01 o.vd o.va 0 o.mask o.ty.code o.rm.code o.z o.b
  | .vmul o => packV 0x70 0x02 o.vd o.va 0 o.mask o.ty.code o.rm.code o.z o.b
  | .vdiv o => packV 0x70 0x03 o.vd o.va 0 o.mask o.ty.code o.rm.code o.z o.b
  | .vmin o => packV 0x70 0x04 o.vd o.va 0 o.mask o.ty.code o.rm.code o.z o.b
  | .vmax o => packV 0x70 0x05 o.vd o.va 0 o.mask o.ty.code o.rm.code o.z o.b
  | .vabs o => packVi 0x70 0x06 o.vd o.va 0 0 o.mask o.ty.code o.rm.code o.z 0
  | .vneg o => packVi 0x70 0x07 o.vd o.va 0 0 o.mask o.ty.code o.rm.code o.z 0
  | .vsqrt o => packVi 0x70 0x08 o.vd o.va 0 0 o.mask o.ty.code o.rm.code o.z 0
  | .vfma o => packV 0x71 0x00 o.vd o.va o.vc o.mask o.ty.code o.rm.code o.z o.b
  | .vfms o => packV 0x71 0x01 o.vd o.va o.vc o.mask o.ty.code o.rm.code o.z o.b
  | .vfnma o => packV 0x71 0x02 o.vd o.va o.vc o.mask o.ty.code o.rm.code o.z o.b
  | .vadds o => packV 0x72 0x00 o.vd o.va 0 o.mask o.ty.code o.rm.code o.z o.b
  | .vsubs o => packV 0x72 0x01 o.vd o.va 0 o.mask o.ty.code o.rm.code o.z o.b
  | .vand o => packV 0x73 0x00 o.vd o.va 0 o.mask o.ty.code o.rm.code o.z o.b
  | .vor o => packV 0x73 0x01 o.vd o.va 0 o.mask o.ty.code o.rm.code o.z o.b
  | .vxor o => packV 0x73 0x02 o.vd o.va 0 o.mask o.ty.code o.rm.code o.z o.b
  | .vandn o => packV 0x73 0x03 o.vd o.va 0 o.mask o.ty.code o.rm.code o.z o.b
  | .vshl o => packV 0x73 0x04 o.vd o.va 0 o.mask o.ty.code o.rm.code o.z o.b
  | .vshr o => packV 0x73 0x05 o.vd o.va 0 o.mask o.ty.code o.rm.code o.z o.b
  | .vsar o => packV 0x73 0x06 o.vd o.va 0 o.mask o.ty.code o.rm.code o.z o.b
  | .vcmpeq o => packV 0x74 0x00 (BitVec.setWidth 4 o.md) o.va 0 o.mask o.ty.code 0 o.z o.b
  | .vcmpne o => packV 0x74 0x01 (BitVec.setWidth 4 o.md) o.va 0 o.mask o.ty.code 0 o.z o.b
  | .vcmplt o => packV 0x74 0x02 (BitVec.setWidth 4 o.md) o.va 0 o.mask o.ty.code 0 o.z o.b
  | .vcmpge o => packV 0x74 0x03 (BitVec.setWidth 4 o.md) o.va 0 o.mask o.ty.code 0 o.z o.b
  | .vcmpgt o => packV 0x74 0x04 (BitVec.setWidth 4 o.md) o.va 0 o.mask o.ty.code 0 o.z o.b
  | .vcmple o => packV 0x74 0x05 (BitVec.setWidth 4 o.md) o.va 0 o.mask o.ty.code 0 o.z o.b
  | .vcmpun o => packV 0x74 0x06 (BitVec.setWidth 4 o.md) o.va 0 o.mask o.ty.code 0 o.z o.b
  | .vcmpor o => packV 0x74 0x07 (BitVec.setWidth 4 o.md) o.va 0 o.mask o.ty.code 0 o.z o.b
  | .vcvt dst o p sat => packVi 0x75 (BitVec.setWidth 8 dst.code) o.vd o.va 0 0 o.mask o.ty.code o.rm.code o.z (BitVec.setWidth 48 (BitVec.ofBool sat ++ p))
  | .vrsum t vd va mask => packVi 0x76 0x00 vd va 0 0 mask t.code 0 false 0
  | .vrmax t vd va mask => packVi 0x76 0x01 vd va 0 0 mask t.code 0 false 0
  | .vrmin t vd va mask => packVi 0x76 0x02 vd va 0 0 mask t.code 0 false 0
  | .vperm t vd va vb mask z => packVi 0x77 0x00 vd va vb 0 mask t.code 0 z 0
  | .vbcast t vd va j mask z => packVi 0x77 0x01 vd va 0 0 mask t.code 0 z (BitVec.setWidth 48 j)
  | .vrot t vd va j mask z => packVi 0x77 0x02 vd va 0 0 mask t.code 0 z (BitVec.setWidth 48 j)
  | .vzip t vd va vb h mask z => packVi 0x77 0x03 vd va vb 0 mask t.code 0 z (BitVec.setWidth 48 (BitVec.ofBool h))
  | .vunzip t vd va vb h mask z => packVi 0x77 0x04 vd va vb 0 mask t.code 0 z (BitVec.setWidth 48 (BitVec.ofBool h))
  | .vsel t vd va b mask => packV 0x77 0x05 vd va 0 mask t.code 0 false b
  | .mand t d a b => packVi 0x78 0x00 (BitVec.setWidth 4 d) (BitVec.setWidth 4 a) (BitVec.setWidth 4 b) 0 0 t.code 0 false 0
  | .mor t d a b => packVi 0x78 0x01 (BitVec.setWidth 4 d) (BitVec.setWidth 4 a) (BitVec.setWidth 4 b) 0 0 t.code 0 false 0
  | .mxor t d a b => packVi 0x78 0x02 (BitVec.setWidth 4 d) (BitVec.setWidth 4 a) (BitVec.setWidth 4 b) 0 0 t.code 0 false 0
  | .mnot t d a => packVi 0x78 0x03 (BitVec.setWidth 4 d) (BitVec.setWidth 4 a) 0 0 0 t.code 0 false 0
  | .mpop t n a => packVi 0x78 0x04 0 (BitVec.setWidth 4 a) 0 0 0 t.code 0 false (BitVec.setWidth 48 n)
  | .mfirst t n a => packVi 0x78 0x05 0 (BitVec.setWidth 4 a) 0 0 0 t.code 0 false (BitVec.setWidth 48 n)
  | .vins t vd n j => packVi 0x79 0x00 vd 0 0 0 0 t.code 0 false (BitVec.setWidth 48 (j ++ 0#1 ++ n))
  | .vext t n va j => packVi 0x79 0x01 0 va 0 0 0 t.code 0 false (BitVec.setWidth 48 (j ++ 0#1 ++ n))
  | .vgath vd m vs mask => packM 0x80 0x00 (BitVec.setWidth 7 vd) m (mask ++ vs) false false
  | .vscat vd m vs mask => packM 0x80 0x01 (BitVec.setWidth 7 vd) m (mask ++ vs) false false
  | .lsum t d m mask => packM 0x81 0x00 d m (mask ++ t.code) false false
  | .lmax t d m mask => packM 0x81 0x01 d m (mask ++ t.code) false false
  | .lmin t d m mask => packM 0x81 0x02 d m (mask ++ t.code) false false
  | .lscale t d m mask => packM 0x81 0x03 d m (mask ++ t.code) false false
  | .qnt fmt t vd va vc n => packVi 0xA0 fmt vd va 0 vc 0 t.code 0 false (BitVec.setWidth 48 n)
  | .qntg fmt t vd va vc n => packVi 0xA1 fmt vd va 0 vc 0 t.code 0 false (BitVec.setWidth 48 n)
  | .dqnt fmt t vd va n rm => packVi 0xA2 fmt vd va 0 0 0 t.code rm.code false (BitVec.setWidth 48 n)
  | .ldvt vd m s => packM 0xA3 0x00 (BitVec.setWidth 7 vd) m s false false
  | .stvt vd m s => packM 0xA3 0x01 (BitVec.setWidth 7 vd) m s false false
  | .bdot vd va vb n => packVi 0xA4 0x00 vd va vb 0 0 0x0A#4 0 false (BitVec.setWidth 48 n)
  | .bscale vd va n delta => packVi 0xA4 0x01 vd va 0 0 0 0 0 false (BitVec.setWidth 48 (delta ++ 0#1 ++ n))
  | .accld t m s => packM 0xB0 0x00 (BitVec.setWidth 7 t) m s false false
  | .accst t m s => packM 0xB0 0x01 (BitVec.setWidth 7 t) m s false false
  | .acczero t => packG 0xB1 0x00 (BitVec.setWidth 7 t) 0 0 0 0 0
  | .mmd t ka kb c => packG 0xB2 0x00 (BitVec.setWidth 7 t) (BitVec.setWidth 7 ka) (BitVec.setWidth 7 kb) c 0 0
  | .mms t ka kb c => packG 0xB2 0x01 (BitVec.setWidth 7 t) (BitVec.setWidth 7 ka) (BitVec.setWidth 7 kb) c 0 0
  | .mmu t ka kb c => packG 0xB2 0x02 (BitVec.setWidth 7 t) (BitVec.setWidth 7 ka) (BitVec.setWidth 7 kb) c 0 0
  | .mmus t ka kb c => packG 0xB2 0x03 (BitVec.setWidth 7 t) (BitVec.setWidth 7 ka) (BitVec.setWidth 7 kb) c 0 0
  | .ufcfg a => packG 0xB3 0x00 0 a 0 0 0 0
  | .send ka b len => packG 0xC0 0x00 0 (BitVec.setWidth 7 ka) b 0 0 (BitVec.setWidth 48 len)
  | .sendk ka b kc len => packG 0xC0 0x01 0 (BitVec.setWidth 7 ka) b (BitVec.setWidth 7 kc) 0 (BitVec.setWidth 48 len)
  | .recv d ka kc => packG 0xC0 0x02 d (BitVec.setWidth 7 ka) 0 (BitVec.setWidth 7 kc) 0 0
  | .tryrecv d ka kc => packG 0xC0 0x03 d (BitVec.setWidth 7 ka) 0 (BitVec.setWidth 7 kc) 0 0
  | .ringmk ka b => packG 0xC1 0x00 0 (BitVec.setWidth 7 ka) b 0 0 0
  | .ringsend kd ka b tag => packG 0xC1 0x01 (BitVec.setWidth 7 kd) (BitVec.setWidth 7 ka) b 0 0 (BitVec.setWidth 48 tag)
  | .ringfree ka => packG 0xC1 0x02 0 (BitVec.setWidth 7 ka) 0 0 0 0
  | .tsend ka b c len => packG 0xD0 0x00 0 (BitVec.setWidth 7 ka) b c 0 (BitVec.setWidth 48 len)
  | .tsendk kd ka b c len => packG 0xD0 0x01 (BitVec.setWidth 7 kd) (BitVec.setWidth 7 ka) b c 0 (BitVec.setWidth 48 len)
  | .trecv d ka kc => packG 0xD0 0x02 d (BitVec.setWidth 7 ka) 0 (BitVec.setWidth 7 kc) 0 0
  | .ckpt a => packG 0xD1 0x00 0 a 0 0 0 0
  | .rollb => packG 0xD1 0x01 0 0 0 0 0 0
  | .recall kd a => packG 0xD1 0x02 (BitVec.setWidth 7 kd) a 0 0 0 0
  | .deferStore a kb c len => packG 0xD1 0x03 0 a (BitVec.setWidth 7 kb) c 0 (BitVec.setWidth 48 (len ++ 0#8))
  | .deferSend a kb c len => packG 0xD1 0x03 0 a (BitVec.setWidth 7 kb) c 0 (BitVec.setWidth 48 (len ++ 1#8))
  | .deferNotify a c len => packG 0xD1 0x03 0 a 0 c 0 (BitVec.setWidth 48 (len ++ 2#8))
  | .gvtrd d => packG 0xD2 0x00 d 0 0 0 0 0
  | .gvtwait a => packG 0xD2 0x01 0 a 0 0 0 0
  | .garm g a => packG 0xD8 0x00 (BitVec.setWidth 7 g) a 0 0 0 0
  | .garr g => packG 0xD8 0x01 (BitVec.setWidth 7 g) 0 0 0 0 0
  | .gwait d g => packG 0xD8 0x02 d (BitVec.setWidth 7 g) 0 0 0 0
  | .garred g a => packG 0xD8 0x03 (BitVec.setWidth 7 g) a 0 0 0 0
  | .gtest d g => packG 0xD8 0x04 d (BitVec.setWidth 7 g) 0 0 0 0
  | .hjoin ka b => packG 0xD9 0x00 0 (BitVec.setWidth 7 ka) b 0 0 0
  | .hdetach ka b => packG 0xD9 0x01 0 (BitVec.setWidth 7 ka) b 0 0 0
  | .hleave ka => packG 0xD9 0x02 0 (BitVec.setWidth 7 ka) 0 0 0 0
  | .hpush q a => packG 0xDA 0x00 (BitVec.setWidth 7 q) a 0 0 0 0
  | .hpop d q => packG 0xDA 0x01 d (BitVec.setWidth 7 q) 0 0 0 0
  | .hpoll d q => packG 0xDA 0x02 d (BitVec.setWidth 7 q) 0 0 0 0
  | .mbput mb a kb kc => packG 0xDA 0x03 (BitVec.setWidth 7 mb) a (BitVec.setWidth 7 kb) (BitVec.setWidth 7 kc) 0 0
  | .mbget d mb => packG 0xDA 0x04 d (BitVec.setWidth 7 mb) 0 0 0 0
  | .cpstartCap ch ka kb c => packG 0xE0 0x00 (BitVec.setWidth 7 ch) (BitVec.setWidth 7 ka) (BitVec.setWidth 7 kb) c 0 0x00#48
  | .cpstartAddr ch c => packG 0xE0 0x00 (BitVec.setWidth 7 ch) 0 0 c 0 0x01#48
  | .cpmcast ch ka kb c => packG 0xE0 0x01 (BitVec.setWidth 7 ch) (BitVec.setWidth 7 ka) (BitVec.setWidth 7 kb) c 0 0
  | .cpwait ch => packG 0xE0 0x02 (BitVec.setWidth 7 ch) 0 0 0 0 0
  | .cpstat d ch => packG 0xE0 0x03 d (BitVec.setWidth 7 ch) 0 0 0 0
  | .cpwm d ch => packG 0xE0 0x04 d (BitVec.setWidth 7 ch) 0 0 0 0
  | .cpcancel ch => packG 0xE0 0x05 (BitVec.setWidth 7 ch) 0 0 0 0 0
  | .spr d sr => packG 0xF0 0x00 d 0 0 0 0 (BitVec.setWidth 48 sr)
  | .spw sr a => packG 0xF0 0x01 0 a 0 0 0 (BitVec.setWidth 48 sr)
  | .evret => packG 0xF1 0x00 0 0 0 0 0 0
  | .fackReplay d a => packG 0xF2 0x00 d a 0 0 0 0x00#48
  | .fackSkip d a => packG 0xF2 0x00 d a 0 0 0 0x01#48
  | .fackTerminate d a => packG 0xF2 0x00 d a 0 0 0 0x02#48
  | .ctxstop d a => packG 0xF3 0x00 d a 0 0 0 0
  | .ctxgo d a => packG 0xF3 0x01 d a 0 0 0 0
  | .xinvEntry a b => packG 0xF4 0x00 0 a b 0 0 0x00#48
  | .xinvAsid a b => packG 0xF4 0x00 0 a b 0 0 0x01#48
  | .xinvAll a b => packG 0xF4 0x00 0 a b 0 0 0x02#48
  | .xreplay a => packG 0xF4 0x01 0 a 0 0 0 0
  | .slotr d a => packG 0xF5 0x00 d a 0 0 0 0
  | .wipe d ka => packG 0xF6 0x00 d (BitVec.setWidth 7 ka) 0 0 0 0
  | .eventDelivery _ => 0
  | .lineFill _ _ _ _ => 0
  | .memoryReply _ => 0
  | .postedWriteAccept _ => 0
  | .writePerformed _ => 0
  | .flagIncrement _ => 0
  | .vectorResult _ => 0
  | .vectorPipeGrant _ => 0
  | .tileOpComplete _ => 0
  | .matrixKBlock _ => 0
  | .matrixComplete _ => 0
  | .lockGrant _ => 0
  | .handoffEntryGiven _ _ _ => 0
  | .gateArrivalCounts _ _ => 0
  | .gateSweep _ _ _ => 0
  | .gateRelease _ _ => 0
  | .ringSlotWrite _ => 0
  | .moveByteCopy _ => 0
  | .timedMessageArrival _ => 0
  | .recallArrival _ => 0
  | .acknowledgement _ => 0
  | .backPressureResend _ => 0
  | .flipSweep _ => 0
  | .countSweep _ => 0
  | .deferredRelease _ => 0
  | .faultRecordPost _ => 0
  | .timer _ => 0
  | .sleepExpiry _ => 0
  | .sleepDepthEntry _ => 0
  | .coreWake _ => 0
  | .exitTest _ _ => 0
  | .timingReplay _ => 0
  | .scrubMaintenanceSlot _ _ => 0
  | .scrubBlock _ _ => 0
  | .slotTableTakesEffect _ => 0
  | .slotCommit _ => 0
  | .ctxLoad _ _ _ => 0
  | .ctxSave _ _ _ => 0
  | .ctxRelease _ _ => 0
  | .ctxCmdComplete _ => 0
  | .translationMiss _ => 0
  | .tableWalkDone _ _ _ => 0
  | .niRetry _ => 0
  | .stationAck _ _ => 0
  | .fbPop _ => 0
  | .fbFail _ _ => 0
  | .stnReplayAll _ => 0
  | .stnInvalidateAll _ => 0
  | .registerWrite _ _ => 0
  | .bteRequest _ _ => 0
  | .bteRetry _ _ => 0
  | .channelBlockWrite _ _ _ => 0
  | .channelComplete _ _ => 0
  | .mcastAck _ _ _ => 0
  | .windowRead _ => 0
  | .windowWrite _ => 0
  | .windowWrite64 _ => 0
  | .windowAtomic _ => 0
  | .replyWithData _ => 0
  | .replyStatus _ => 0
  | .refusal _ => 0
  | .blockCopied _ => 0
  | .hitchPrepared _ => 0
  | .hitchCommit _ => 0
  | .hitchAbort _ => 0
  | .hitchJoinRequest _ => 0
  | .hitchDetachRequest _ => 0
  | .hitchAcknowledge _ => 0
  | .exitNotice _ => 0
  | .withdraw _ => 0
  | .hitchPrepare _ _ _ _ => 0
  | .linkReplay _ => 0
  | .portRetrain _ _ => 0
  | .portDown _ => 0
  | .launch _ _ => 0
  | .feed _ _ => 0
  | .cancel _ _ => 0
  | .doorbell _ _ _ => 0
  | .launchPlacement _ _ _ _ => 0
  | .launchCompletion _ => 0
  | .completionRecord _ => 0
  | .paddockPreempt _ => 0
  | .graceExpiry _ => 0
  | .quantumExpiry _ => 0
  | .openLatest _ => 0
  | .openPrivate _ => 0
  | .publish _ => 0
  | .close _ => 0
  | .hostLoss _ => 0
  | .extentWithdraw _ _ => 0
  | .withdrawComplete _ _ => 0
  | .getVersion _ => 0
  | .getCapabilities _ => 0
  | .negotiateAlgorithms _ => 0
  | .getDigests _ => 0
  | .getCertificate _ => 0
  | .challenge _ => 0
  | .getMeasurements _ _ => 0
  | .keyExchange _ => 0
  | .finish _ => 0
  | .keyUpdate _ => 0
  | .heartbeat _ => 0
  | .endSession _ => 0
  | .vendorDefinedRequest _ _ => 0
  | .unsupportedRequest _ _ => 0
  | .heartbeatTimeout _ => 0
  | .lockInterfaceRequest _ _ => 0
  | .getDeviceInterfaceReport _ _ => 0
  | .startInterfaceRequest _ _ => 0
  | .stopInterfaceRequest _ _ => 0
  | .ideIntegrityFailure _ => 0
  | .securityAlarm _ => 0
  | .testModeEntry => 0
  | .thermalThrottle _ => 0
  | .powerGood _ => 0
  | .startWatchdog => 0
  | .firstQueueEnable _ => 0
  | .packageSleep => 0
  | .packageResume => 0
  | .powerLoss => 0
  | .unusedTurn _ => 0
  | .paddockRebind _ _ _ => 0
  | .cxlMemAccess _ _ _ _ => 0
  | .unknownOp _ _ => 0
  | .unknownPacketType _ => 0
  | .wipePassEnd _ => 0
  | .stopCompletion _ => 0

/-- What a word that is no instruction raises (R108): ZERO_WORD for 96 zero bits, ILLEGAL otherwise. -/
inductive DecodeError where
  | zeroWord
  | illegal
  deriving DecidableEq, Repr

/-- Decoding, total on every word (R108, R117): the instruction that the word's fields name, if it is well-formed and the
word has every field that it does not use zero. -/
noncomputable def decode (w : InstWord) : Except DecodeError Instr :=
  if w = 0 then .error .zeroWord
  else
    match decodeMajor w with
    | some i => if i.wf && encode i == w then .ok i else .error .illegal
    | none => .error .illegal

/-- Byte `k` of a number, little-endian. -/
def byteOf (v k : Nat) : Byte := BitVec.ofNat 8 (v / 2 ^ (8 * k))

/-- The number that bytes form, the first being the lowest (R58, R87). -/
def bytesLe : List Byte → Nat
  | [] => 0
  | b :: bs => b.toNat + 256 * bytesLe bs

/-- The twelve bytes of an instruction word in memory order (R87). -/
def wordBytes (w : InstWord) : List Byte := (List.range 12).map (byteOf w.toNat)

/-- Decoding the twelve bytes of a slot (R87). -/
noncomputable def decodeBytes (bs : List Byte) : Except DecodeError Instr := decode (BitVec.ofNat 96 (bytesLe (bs.take 12)))

/-- The decoder on a word of the opcode table, whose bit 0 is bit 0 of the instruction and whose missing bits are zero. -/
noncomputable def decodeTableWord (nbits w : Nat) : Option Instr :=
  (decodeBytes (wordBytes (BitVec.ofNat 96 (low nbits w)))).toOption

end Sys2Proof
end

