-- ==== Sys2Proof/Machine/Num.lean ====
section
/-! DEFINITION. Numbers: integers of a width and the floating-point formats (R58 to R66). A finite value is held exactly, as a
sign, a natural mantissa and a power of two, so that every operation computes exactly and rounds once (R64). -/

namespace Sys2Proof

/-- The signed value of the low `n` bits of `v` (R58). -/
def signed (n v : Nat) : Int :=
  let x := v % 2 ^ n
  if 2 * x < 2 ^ n then (x : Int) else (x : Int) - 2 ^ n

/-- The `n`-bit pattern of an integer, modulo `2 ^ n` (R59). -/
def wrap (n : Nat) (x : Int) : Nat := (x % (2 : Int) ^ n).toNat

/-- An integer clamped to a range (R59). -/
def clampInt (lo hi x : Int) : Int := if x < lo then lo else if hi < x then hi else x

/-- The smallest value of an integer type (R58). -/
def Ty.lo (t : Ty) : Int := if t.isSigned then -(2 ^ (t.width - 1)) else 0

/-- The largest value of an integer type (R58). -/
def Ty.hi (t : Ty) : Int := if t.isSigned then 2 ^ (t.width - 1) - 1 else 2 ^ t.width - 1

/-- The integer that a pattern stands for at an integer type (R58). -/
def Ty.int (t : Ty) (v : Nat) : Int := if t.isSigned then signed t.width v else ((v % 2 ^ t.width : Nat) : Int)

end Sys2Proof

namespace Sys2Proof.Machine

/-- A floating-point format (R60). `finite` is the code of the largest finite value; `noInf` says that the format has no
infinity; `saturate` that a finite value beyond the range becomes the largest finite value in every mode (R64, R65). -/
structure Fmt where
  ebits : Nat
  fbits : Nat
  bias : Int
  nan : Nat
  finite : Nat
  noInf : Bool
  saturate : Bool

/-- The formats of R60 and R62. -/
def fmtOf : Ty → Fmt
  | .f64 => { ebits := 11, fbits := 52, bias := 1023, nan := 0x7FF8000000000000, finite := 0x7FEFFFFFFFFFFFFF, noInf := false, saturate := false }
  | .f32 => { ebits := 8, fbits := 23, bias := 127, nan := 0x7FC00000, finite := 0x7F7FFFFF, noInf := false, saturate := false }
  | .bf16 => { ebits := 8, fbits := 7, bias := 127, nan := 0x7FC0, finite := 0x7F7F, noInf := false, saturate := false }
  | .f16 => { ebits := 5, fbits := 10, bias := 15, nan := 0x7E00, finite := 0x7BFF, noInf := false, saturate := false }
  | .e4m3 => { ebits := 4, fbits := 3, bias := 7, nan := 0x7F, finite := 0x7E, noInf := true, saturate := true }
  | .e5m2 => { ebits := 5, fbits := 2, bias := 15, nan := 0x7E, finite := 0x7B, noInf := false, saturate := true }
  | _ => { ebits := 8, fbits := 23, bias := 127, nan := 0x7FC00000, finite := 0x7F7FFFFF, noInf := false, saturate := false }

/-- A floating-point value: a NaN, an infinity, or plus or minus `m × 2 ^ e`. -/
inductive Val where
  | nan
  | inf (neg : Bool)
  | fin (neg : Bool) (m : Nat) (e : Int)
  deriving DecidableEq, Repr

namespace Val

/-- The value of a pattern (R60). -/
def decode (t : Ty) (v : Nat) : Val :=
  let f := fmtOf t
  let w := 1 + f.ebits + f.fbits
  let x := v % 2 ^ w
  let neg := x / 2 ^ (w - 1) == 1
  let mag := x % 2 ^ (w - 1)
  let ex := mag / 2 ^ f.fbits
  let fr := mag % 2 ^ f.fbits
  if f.noInf then
    if mag == f.nan then .nan
    else if ex == 0 then .fin neg fr (1 - f.bias - f.fbits)
    else .fin neg (2 ^ f.fbits + fr) (ex - f.bias - f.fbits)
  else if ex == 2 ^ f.ebits - 1 then (if fr == 0 then .inf neg else .nan)
  else if ex == 0 then .fin neg fr (1 - f.bias - f.fbits)
  else .fin neg (2 ^ f.fbits + fr) (ex - f.bias - f.fbits)

/-- Whether rounding goes up in magnitude, for a quotient, a remainder and the half of the divisor (R63). -/
def roundsUp (rm : Rm) (neg : Bool) (q rest half : Nat) : Bool :=
  match rm with
  | .rne => half < rest || (rest == half && q % 2 == 1)
  | .rtz => false
  | .rup => !neg && rest != 0
  | .rdn => neg && rest != 0

/-- `m × 2 ^ e` rounded to a multiple of `2 ^ q`, as that multiple (R63). -/
def quantum (rm : Rm) (neg : Bool) (m : Nat) (e q : Int) : Nat :=
  if q ≤ e then m * 2 ^ (e - q).toNat
  else
    let sh := (q - e).toNat
    let k := m / 2 ^ sh
    if roundsUp rm neg k (m % 2 ^ sh) (2 ^ (sh - 1)) then k + 1 else k

/-- The pattern of a value, rounded once (R63, R64). -/
def encode (t : Ty) (rm : Rm) : Val → Nat
  | .nan => (fmtOf t).nan
  | .inf neg =>
    let f := fmtOf t
    let s := if neg then 2 ^ (f.ebits + f.fbits) else 0
    s + (if f.noInf then f.finite else (2 ^ f.ebits - 1) * 2 ^ f.fbits)
  | .fin neg m e =>
    let f := fmtOf t
    let s := if neg then 2 ^ (f.ebits + f.fbits) else 0
    if m == 0 then s
    else
      let q := (if Nat.log2 m + e < 1 - f.bias then 1 - f.bias else Nat.log2 m + e) - f.fbits
      let code := (q + f.fbits + f.bias - 1).toNat * 2 ^ f.fbits + quantum rm neg m e q
      let big :=
        if f.saturate then f.finite
        else
          match rm, neg with
          | .rne, _ | .rup, false | .rdn, true => (2 ^ f.ebits - 1) * 2 ^ f.fbits
          | _, _ => f.finite
      s + (if f.finite < code then big else code)

def neg : Val → Val
  | .nan => .nan
  | .inf n => .inf (!n)
  | .fin n m e => .fin (!n) m e

def abs : Val → Val
  | .nan => .nan
  | .inf _ => .inf false
  | .fin _ m e => .fin false m e

/-- The integer `m × 2 ^ (e - lo)` with its sign. -/
def scaled (n : Bool) (m : Nat) (e lo : Int) : Int :=
  let x : Int := (m * 2 ^ (e - lo).toNat : Nat)
  if n then -x else x

/-- The exact sum; a zero from opposite signs is +0, and -0 in mode 3 (R64, R139). -/
def add (rm : Rm) : Val → Val → Val
  | .nan, _ | _, .nan => .nan
  | .inf a, .inf b => if a == b then .inf a else .nan
  | .inf a, .fin .. => .inf a
  | .fin .., .inf b => .inf b
  | .fin a m e, .fin b n g =>
    let lo := if e ≤ g then e else g
    let s := scaled a m e lo + scaled b n g lo
    if s == 0 then .fin (if a == b then a else rm == .rdn) 0 0
    else .fin (decide (s < 0)) s.natAbs lo

/-- The exact product (R139). -/
def mul : Val → Val → Val
  | .nan, _ | _, .nan => .nan
  | .inf a, .inf b => .inf (a != b)
  | .inf a, .fin b n _ | .fin b n _, .inf a => if n == 0 then .nan else .inf (a != b)
  | .fin a m e, .fin b n g => .fin (a != b) (m * n) (e + g)

/-- The quotient, with enough bits and the rest folded into the lowest one that rounding is exact (R139). -/
def div : Val → Val → Val
  | .nan, _ | _, .nan => .nan
  | .inf _, .inf _ => .nan
  | .inf a, .fin b _ _ => .inf (a != b)
  | .fin a _ _, .inf b => .fin (a != b) 0 0
  | .fin a m e, .fin b n g =>
    if n == 0 then (if m == 0 then .nan else .inf (a != b))
    else
      let k := Nat.log2 n + 70
      let x := m * 2 ^ k
      .fin (a != b) (2 * (x / n) + (if x % n == 0 then 0 else 1)) (e - g - k - 1)

/-- The integer square root, one bit of the root after another from bit `n - 1`. -/
def isqrt (x : Nat) : Nat → Nat → Nat
  | 0, r => r
  | n + 1, r =>
    let c := r + 2 ^ n
    isqrt x n (if c * c ≤ x then c else r)

/-- The square root, exact after rounding as in `div` (R139). -/
def sqrt : Val → Val
  | .nan => .nan
  | .inf a => if a then .nan else .inf false
  | .fin a m e =>
    if m == 0 then .fin a 0 0
    else if a then .nan
    else
      let k : Nat := if e % 2 == 0 then 128 else 129
      let x := m * 2 ^ k
      let r := isqrt x (Nat.log2 x / 2 + 1) 0
      .fin false (2 * r + (if r * r == x then 0 else 1)) ((e - k) / 2 - 1)

/-- The value rounded to an integer (R63); none for NaN and infinities. -/
def toInt (rm : Rm) : Val → Option Int
  | .fin a m e =>
    let q : Int := (quantum rm a m e 0 : Nat)
    some (if a then -q else q)
  | .nan | .inf _ => none

/-- An integral value in the same format (R138, R139). -/
def fint (rm : Rm) : Val → Val
  | .fin a m e => .fin a (quantum rm a m e 0) 0
  | v => v

def isNan : Val → Bool
  | .nan => true
  | .inf _ | .fin .. => false

/-- Sign and magnitude compared: less, equal or greater; -0 equals +0 (R141, R144). None when either is a NaN. -/
def compare : Val → Val → Option Ordering
  | .nan, _ | _, .nan => none
  | .inf a, .inf b => some (if a == b then .eq else if a then .lt else .gt)
  | .inf a, .fin .. => some (if a then .lt else .gt)
  | .fin .., .inf b => some (if b then .gt else .lt)
  | .fin a m e, .fin b n g =>
    let lo := if e ≤ g then e else g
    let x := scaled a m e lo
    let y := scaled b n g lo
    some (if x < y then .lt else if x == y then .eq else .gt)

/-- The order of R66, in which -0 lies below +0. -/
def below (a b : Val) : Bool :=
  match compare a b with
  | some .lt => true
  | some .eq =>
    match a, b with
    | .fin x _ _, .fin y _ _ => x && !y
    | _, _ => false
  | _ => false

/-- Maximum and minimum (R66). -/
def max (a b : Val) : Val := if a.isNan || b.isNan then .nan else if below a b then b else a
def min (a b : Val) : Val := if a.isNan || b.isNan then .nan else if below b a then b else a

/-- The value of an integer. -/
def ofInt (x : Int) : Val := .fin (decide (x < 0)) x.natAbs 0

end Val

/-- A pattern converted from one type to another (R65). `sat` chooses clamping for integer narrowing. DEDUCED (log 26): two integer types of one
width have no row in R65's table, and R142's reads it as low bits kept; so does the model, where the last sentence of R65 taken alone would clamp
through FP64; unsafe. -/
def convert (dst src : Ty) (rm : Rm) (sat : Bool) (v : Nat) : Nat :=
  if src.isFp then
    if dst.isFp then (Val.decode src v).encode dst rm
    else
      match Val.decode src v with
      | .nan => 0
      | .inf neg => wrap dst.width (if neg then dst.lo else dst.hi)
      | .fin a m e => wrap dst.width (clampInt dst.lo dst.hi (((Val.fin a m e).toInt rm).getD 0))
  else if dst.isFp then (Val.ofInt (src.int v)).encode dst rm
  else wrap dst.width (if sat then clampInt dst.lo dst.hi (src.int v) else src.int v)

/-- A pattern of a type written to a 64-bit register (R133). -/
def extend (t : Ty) (v : Nat) : Word := BitVec.ofNat 64 (if t.isSigned then wrap 64 (t.int v) else v % 2 ^ t.width)

/-- The class bit of a value (R140). -/
def fclass (t : Ty) (v : Nat) : Nat :=
  let f := fmtOf t
  match Val.decode t v with
  | .nan => if v / 2 ^ (f.fbits - 1) % 2 == 1 then 9 else 8
  | .inf neg => if neg then 0 else 7
  | .fin neg m _ =>
    if m == 0 then (if neg then 3 else 4)
    else if m < 2 ^ f.fbits then (if neg then 2 else 5)
    else if neg then 1 else 6

/-- A two-operand arithmetic operation on patterns of one type, rounded once (R64). -/
def fop2 (t : Ty) (rm : Rm) (f : Val → Val → Val) (a b : Nat) : Nat := (f (Val.decode t a) (Val.decode t b)).encode t rm

/-- A one-operand arithmetic operation on patterns (R64). -/
def fop1 (t : Ty) (rm : Rm) (f : Val → Val) (a : Nat) : Nat := (f (Val.decode t a)).encode t rm

/-- The fused operations: plus or minus a product, plus or minus an addend, with one rounding (R138). -/
def fused (t : Ty) (rm : Rm) (negProduct negAddend : Bool) (a b c : Nat) : Nat :=
  let p := Val.mul (Val.decode t a) (Val.decode t b)
  let z := Val.decode t c
  (Val.add rm (if negProduct then p.neg else p) (if negAddend then z.neg else z)).encode t rm

end Sys2Proof.Machine
end

