-- ==== Sys2Proof/Config.lean ====
section
/-! DEFINITION. What an implementation fixes and what the spec leaves open. Constants with no body are free values: nothing
in Lean can evaluate them or prove a value of them (log 4, log 12). The others are numbers that the spec states. -/

namespace Sys2Proof.Config

/-- Issue positions of a core (R12). -/
abbrev positions : Nat := 16
/-- Contexts of a core (R356). -/
abbrev contexts : Nat := 64
/-- Registers of a core's register file (R7). -/
abbrev fileRegs : Nat := 2048
/-- Barns across and down the mesh (R44). -/
abbrev meshSide : Nat := 32
/-- Barns of the package. -/
abbrev barns : Nat := 1024
/-- Bytes of core memory (R44). -/
abbrev coreBytes : Nat := 0x80000
/-- Bytes of barn memory (R44). -/
abbrev barnBytes : Nat := 0x200000
/-- World 0's part of core memory (R40). -/
abbrev worldZeroPart : Nat := 0x4000
/-- First barn-memory offset and blocks of the receive pool (R371). -/
abbrev poolBase : Nat := 0x1C0000
abbrev poolBlocks : Nat := 4096
/-- Physical HBM (R334) and the first physical address of the pool (R338). -/
abbrev hbmTop : Nat := 0x7000000000
abbrev cxlBase : Nat := 0x1000000000000
/-- Region-lock registers of a core (R170), vector and tile entries of a dispatch queue (R190). -/
abbrev regionLocks : Nat := 4
abbrev vectorEntries : Nat := 2
abbrev tileEntries : Nat := 4
/-- Entries of a station's fault buffer and parked-request store, and of its caches (R342, R345). -/
abbrev faultBuffer : Nat := 8
abbrev parkedStore : Nat := 4096
abbrev firstLevel : Nat := 512
abbrev secondLevel : Nat := 16384
/-- Versions a region holds at once (R186). -/
abbrev versionLimit : Nat := 64
/-- The default minimum of usable barns (R434). -/
abbrev minBarns : Nat := 1008
/-- The package's fabric size, columns and rows, each from 1 to 24 (R387): fixed when the fabric is wired. -/
opaque fabricCols : Nat
opaque fabricRows : Nat

/-- Whether a 64-byte block fails the verification of a wipe or a scrub (R268, R427): a fact of the silicon (log 4). -/
opaque blockFails : Nat → Bool

/-- The physical page that the management core's firmware takes for a page mapped on first touch (R346): a fact of the firmware (log 20). -/
opaque demandPage : Nat → Nat

/-- Single-bit errors that the codes have corrected in a barn's memories since the last scrub step there (R333, R441): facts of the silicon
(log 4). -/
opaque softErrors : Nat → Nat

/-- The virtual address at which the HBM scopes of a launch start: one for every launch, so that the bases of its scope capabilities do not
depend on placement or on the firmware (R1, R2; log 18). -/
abbrev scopeVa : Nat := 0x200000000000

/-- The flits that wait at a port of the fabric when the package sends its n-th packet (R392): a fact of the links (log 4). -/
opaque queuedFlits : Nat → Nat → Nat

/-- The granule of HBM in which the management core puts the image of a context of a paddock that it pre-empts, by launch and context (R290): the spec
gives it no address (log 4). -/
opaque imagePage : Nat → Nat → Nat

/-- Whether the contexts of a hitch's other members are at rest, by hitch and moment, when the management core is to save its slice (R366): a fact of
the other packages (log 4). -/
opaque othersAtRest : Nat → Nat → Bool

/-- The package coordinates of a member of a hitch, row and column, and the mesh-SRAM offset of the hitch port that its package makes
(R397): facts of the other packages' firmware (log 4). -/
opaque memberPlace : Nat → Nat → Nat × Nat
opaque memberPort : Nat → Nat → Nat
/-- The length of an exported region by world and virtual address, where no version of it is open (R418, log 4). -/
opaque exportLength : Nat → Nat → BitVec 32
/-- What the configuration space of a function reads, by offset: the spec gives it no contents (R432, log 12). -/
opaque configSpace : Nat → Nat → BitVec 64
/-- STATUS of a refusal record for an entry of an OP, for which the spec states none (R415, log 4). -/
opaque entryStatus : Nat → BitVec 8
/-- A line of an exported region's window while the host has no version open (R418, log 4). -/
opaque closedLine : Nat → BitVec 512
/-- Records that a host has read from a completion ring when the service core looks (R417): the host's doing (log 4). -/
opaque hostReads : Nat → Nat

/-- The address in the pool of a block of a version of an exported region, by its location: the spec does not give it (R338, R427, log 21). -/
opaque versionPlace : Nat → BitVec 64

/-! Free values (log 12): what the security controller computes. Each takes the counter `State.free` or the data that it
depends on. -/

/-- A 64-byte measurement by index (R424). -/
opaque measurement : Nat → BitVec 512
/-- A fresh nonce (R423). -/
opaque freeNonce : Nat → BitVec 256
/-- A signature of 3,309 bytes by the identity key, as a number, over data given as numbers (R423, R427). -/
opaque signature : List Nat → Nat
/-- The certificate chain of slot 0 and its digest (R423). -/
opaque certificateChain : Nat
opaque certificateDigest : BitVec 512
/-- The bodies of SPDM and TDISP answers that the spec names and gives no contents for (R423, R425). -/
opaque answerBody : Nat → Nat → Nat
/-- The words of the security status mailbox whose layout the spec does not give (R425, log 12): offset, TDI states, counts of discarded accesses,
alarms. -/
opaque mailboxWord : Nat → List Nat → List Nat → List Bool → BitVec 64

end Sys2Proof.Config
end

