-- ==== Sys2Proof/Machine/State.lean ====
section
/-! DEFINITION. The state of one GX9 package as plain data, and the state right after reset. Keys: barn = 32 y + x,
core = 4 barn + core within the barn, context = 64 core + number. A home location (R294) is the mesh-SRAM address of the
byte (R44), or 2^64 plus the physical address of a byte of HBM or of the pool (R334, R338). -/

namespace Sys2Proof.Machine

/-- A finite map from keys to values, kept in the canonical form of `Map.wf` (Sys2Proof/Machine/Ops.lean). -/
abbrev Map (α : Type) := List (Nat × α)

/-- A capability (R26), with the sender tag that a send end carries (R227, log 6). -/
structure Cap where
  world : BitVec 8
  gen : BitVec 12
  count : BitVec 16
  kind : BitVec 4
  rights : BitVec 8
  length : BitVec 32
  base : BitVec 48
  stag : BitVec 16
  deriving DecidableEq, Repr

/-- The null capability (R9, R28). -/
def Cap.null : Cap :=
  { world := 0, gen := 0, count := 0, kind := 0, rights := 0, length := 0, base := 0, stag := 0 }

/-- The fault codes of R270. -/
inductive FaultCode where
  | zeroWord | illegal | priv | repro | window | badTarget | capNull | capKind | capRights | capBounds | align
  | xltFault | poison | fmtReserved | fmtIll | fmtClash | hitchAbsent | hitchGone | vrtDup | ringFull | recallOverflow
  deriving DecidableEq, Repr

/-- A fault as it is found: its code, qualifier (R278), address or offending value (R277), whether it is late (R271),
whether it is charged before decoding (R456), and whether `addr` is an offending value and no address (R277, R289). -/
structure FaultInfo where
  code : FaultCode
  detail : Nat
  addr : Nat
  late : Bool
  preDecode : Bool
  value : Bool := false
  deriving DecidableEq, Repr

/-- A fault record (R277) without its CTX and SEQ fields, which are the context's and the core's; `value` says that ADDR is an offending value. -/
structure Record where
  addr : Word
  progress : Word
  codept : Word
  insn : InstWord
  detail : BitVec 8
  code : BitVec 8
  paired : Bool
  inEvent : Bool
  entry : Bool
  late : Bool
  value : Bool := false
  deriving DecidableEq, Repr

/-- The life of a context; the codes are those of R357. -/
inductive CtxState where
  | absent | ready | waiting | parked | halted | ended | transfer
  deriving DecidableEq, Repr

/-- What the retry latch holds (R11): the word and code point of an instruction, whether it was a second slot (R106), whether
it is due for reissue, whether it holds no word (R456), the event whose entry failed (R279), and operands latched at the
first issue (R209). -/
structure Latch where
  word : InstWord
  codept : Nat
  paired : Bool
  replay : Bool
  noWord : Bool
  entry : Option Nat
  ops : List Word
  deriving DecidableEq, Repr

/-- The operations of the atomics (R181). -/
inductive AtomOp where
  | swap | add | and | or | xor | max | min | cas
  deriving DecidableEq, Repr

/-- The streaming forms (R210). -/
inductive StreamOp where
  | sum | max | min | scale
  deriving DecidableEq, Repr

/-- The matrix forms (R216). -/
inductive MatForm where
  | mmd | mms | mmu | mmus
  deriving DecidableEq, Repr

/-- A request of a replicating store without its reply (R169): its transaction, the member that it went to, the member of the set, and
whether the flag is incremented by it. -/
structure Replica where
  tx : Nat
  target : Nat
  member : Nat
  flag : Bool
  deriving DecidableEq, Repr

/-- What an access does when its request is served. -/
inductive AccOp where
  /-- A scalar load of n bytes into a register (R165). -/
  | load (d : WReg) (n : Nat) (sext : Bool)
  /-- A vector load (R165). -/
  | loadV (vd : VReg)
  /-- A tag read (R167). -/
  | loadTag (d : WReg)
  /-- A load of a block and its tag (R202). -/
  | loadVT (vd : VReg) (s : WReg)
  /-- A store of n bytes (R165, R209, R210). -/
  | store (n : Nat) (v : Block)
  /-- A store of the bytes of an aligned 8-byte word that a mask names (R210, R296). -/
  | storeMask (v : Block) (mask : BitVec 8)
  /-- A tag write (R167). -/
  | storeTag (t : BitVec 16)
  /-- A store of a block and its tag (R202). -/
  | storeVT (v : Block) (t : BitVec 16)
  /-- A flag-carrying store; the flag word is at the device address (R168). -/
  | flagStore (n : Nat) (v : Block) (flag : Nat)
  /-- The increment of a flag word (R168). -/
  | flagInc
  /-- A replicating store: its register, the flag offset, its requests that have no reply yet, the members of the set whose flag was
  incremented, and the first refusal (R169). -/
  | replicate (s : WReg) (v : Block) (flag : Nat) (left : List Replica) (done : List Nat) (bad : Option FaultInfo)
  /-- An atomic or a reduction (R181, R182). -/
  | atomic (o : AtomOp) (t : ATy) (d : Option WReg) (src cmp : Word) (rel : Bool)
  /-- Capability stash and fetch (R180). -/
  | stash (kd : KReg)
  | fetchCap (kd : KReg)
  /-- One lane after another of a gather (R209). -/
  | gather (vd : VReg) (b : Nat) (idx : Block) (mask : Word)
  /-- One lane after another of a scatter (R209). -/
  | scatter (b : Nat) (idx data : Block) (mask : Word)
  /-- One chunk after another of a streaming form (R210). -/
  | stream (o : StreamOp) (t : Ty) (d : WReg) (mask : Word) (count : Nat) (scale : Word)
  /-- One chunk after another of a tile copy (R214). -/
  | tileCopy (t : TileReg) (toTile : Bool) (first rows : Nat)
  /-- acczero (R213). -/
  | tileZero (t : TileReg)
  /-- A matrix form: the capability of B and the four descriptor words, the unfolding configuration, the reference formats once
  they are read (R218), and the blocks of the K-block in progress that members of another package have sent: address, bytes,
  tag. -/
  | matrix (f : MatForm) (t : TileReg) (kb : Cap) (c0 c1 c2 c3 u0 u1 : Word) (refs : Option (BitVec 8 × BitVec 8))
    (far : List (Nat × Nat × BitVec 16))
  /-- The fetch of a line (R91). -/
  | line
  deriving DecidableEq, Repr

/-- An access in flight: its operation, the capability and the offset, the instruction that made it, the words of 64 bytes that it has read, by
number (number 8 is the tag of ldvt), and once one is read the location of the block and whether its page is shared with a host (R162, R296). -/
structure Access where
  op : AccOp
  k : Cap
  off : Int
  ins : Latch
  part : List (Nat × Nat) := []
  at_ : Option (Nat × Bool) := none
  deriving DecidableEq, Repr

/-- What a Waiting context waits for (R10). -/
inductive Wait where
  | none
  /-- The reply of an access that left the core (R161). -/
  | reply
  /-- The acceptance of a posted write (R343). -/
  | accept
  /-- The increment of a flag word (R168). -/
  | flag
  /-- A condition; its instruction stands in the latch and is tried again (R10, R286). -/
  | cond
  /-- The end of a sleep with the cycles left, or an event only (R155). -/
  | sleep (left : Option Nat)
  /-- A tile form or a matrix form (R212, R218). -/
  | tile
  | matrix
  /-- A message that is to be written in its ring (R230). -/
  | ring (id : Nat)
  /-- The annihilation of a recalled message, with the register for its capability (R240). -/
  | recall (vrt : Nat) (kd : KReg)
  /-- Acknowledgements of stations or members (R266, R250 to R252). -/
  | acks (left : List Nat)
  /-- The pass of a wipe (R268). -/
  | wipe (d : WReg) (k : Cap)
  /-- A replicating store at several members (R169). -/
  | members
  /-- The grant of a region lock; its instruction stands in the latch (R170). -/
  | lock (start len : Nat)
  deriving DecidableEq, Repr

/-- A checkpoint of a timed actor (R238). -/
structure Checkpoint where
  vrt : Nat
  pc : Nat
  groups : List (Nat × Block)
  k : Vector Cap 16
  m : Vector Word 8
  lvt : Word
  seq : BitVec 10
  mask : BitVec 16
  ufc0 : Word
  ufc1 : Word
  floor : Word
  evtVec : Word
  evtRet : Word
  evtEn : Bool
  deriving DecidableEq, Repr

/-- An undo record: the home of a block and what it held (R317). -/
structure Undo where
  vrt : Nat
  block : Nat
  bytes : List Byte
  tag : BitVec 16
  slots : List Cap
  deriving DecidableEq, Repr

/-- A send-log entry (R317): the VRT, the message during whose handling it was made, the ring, the source register and the
original capability (R373), whether it is live, the number of the transaction that carried it (R315, R391), and the slots that left the source with a
byte copy to another package (R372, R373). -/
structure SendLog where
  vrt : Nat
  during : Nat
  port : Nat
  kd : Option KReg
  cap : Cap
  live : Bool
  recalled : Bool
  tx : Nat
  slots : List (Nat × Cap) := []
  /-- Its recall found no room and came back (R314); the actor has not raised RECALL_OVERFLOW yet (R240, R320). -/
  refused : Bool := false
  deriving DecidableEq, Repr

/-- A deferred record (R241, R317). -/
structure Deferred where
  stamp : Nat
  kind : Nat
  cap : Cap
  words : List Word
  off : Nat
  len : Nat
  order : Nat
  deriving DecidableEq, Repr

/-- The loft (R317). -/
structure Loft where
  base : Nat
  length : Nat
  checkpoints : List Checkpoint
  undos : List Undo
  sends : List SendLog
  defers : List Deferred
  deriving DecidableEq, Repr

/-- A context. -/
structure Ctx where
  state : CtxState
  stopped : Bool
  /-- The program counter as a code point (R146). -/
  pc : Nat
  wbase : Nat
  /-- Window size divided by 8 (R7). -/
  wsize : Nat
  prio : BitVec 2
  world : BitVec 8
  asid : BitVec 16
  /-- Pool 0 to 3, or 0xF for none (R357). -/
  pool : BitVec 4
  levels : Nat
  inEvent : Bool
  evtEn : Bool
  sys : Bool
  sup : Bool
  actor : Bool
  repro : Bool
  lvl : Vector (BitVec 32) 8
  faultRing : Word
  actorId : BitVec 18
  rank : BitVec 6
  k : Vector Cap 16
  /-- Masks; m0 reads as all ones (R19) and its entry is not used. -/
  m : Vector Word 8
  latch : Option Latch
  progress : Word
  timerCmp : Word
  evtVec : Word
  evtRet : Word
  /-- Pending event bits; bit i is code i (R283). -/
  events : BitVec 6
  ufc0 : Word
  ufc1 : Word
  lvt : Word
  floor : Word
  ckMask : BitVec 16
  seq : BitVec 10
  /-- The actor has issued its first trecv (R322), is handling (R316), or is rolling back to a VRT (R322). -/
  began : Bool
  handling : Bool
  rolling : Option Nat
  /-- The checkpoint to which a rollback goes (R239, R320). -/
  goal : Option Checkpoint
  loft : Loft
  wait : Wait
  /-- Order stamp of the beginning of the wait (R21, R256). -/
  since : Nat
  acc : Option Access
  /-- The virtual address whose translation the access needs, and whether it writes (R344). -/
  miss : Option (Nat × Bool)
  /-- The fault record that is not posted yet (R276), and the fault that parked the context. -/
  record : Option Record
  fault : Option FaultInfo
  /-- The core's count of barn cycles at the last issue, and on becoming resident (R360). -/
  lastIssue : Option Nat
  resident : Nat
  /-- The core's count of barn cycles at the turn that the context gives up (R156). -/
  yielded : Option Nat
  launch : Nat
  /-- Phase of the latest arrival at each gate (R247). -/
  arrived : Vector (Option Nat) 4
  /-- Order stamp of the first issue of the tile form or matrix form in progress (R24, R219, R363). -/
  tileAt : Nat
  deriving DecidableEq, Repr

/-- The empty loft. -/
def Loft.empty : Loft := { base := 0, length := 0, checkpoints := [], undos := [], sends := [], defers := [] }

/-- An absent context (R357; zero values by log 7). -/
def Ctx.reset : Ctx :=
  { state := .absent, stopped := false, pc := 0, wbase := 0, wsize := 0, prio := 0, world := 0, asid := 0, pool := 0xF,
    levels := 0, inEvent := false, evtEn := false, sys := false, sup := false, actor := false, repro := false,
    lvl := Vector.replicate 8 0, faultRing := 0, actorId := 0, rank := 0, k := Vector.replicate 16 Cap.null,
    m := Vector.replicate 8 0, latch := none, progress := 0, timerCmp := 0, evtVec := 0, evtRet := 0, events := 0,
    ufc0 := 0, ufc1 := 0, lvt := 0, floor := 0, ckMask := 0xFFFF, seq := 0, began := false, handling := false,
    rolling := none, goal := none, loft := Loft.empty, wait := .none, since := 0, acc := none, miss := none, record := none, fault := none,
    lastIssue := none, resident := 0, yielded := none, launch := 0, arrived := Vector.replicate 4 none, tileAt := 0 }

/-- An entry of a hand-off queue: its value, its pusher, and whether it is given to a pop yet (R253). -/
structure HEntry where
  val : Word
  by_ : Nat
  given : Bool
  /-- Order stamp of the push. -/
  at_ : Nat
  deriving DecidableEq, Repr

/-- A full mailbox: the 256 bits of R254, the capabilities and the requester that it pins, and the order stamp of its mbput. -/
structure Mailbox where
  word : BitVec 256
  kb : Cap
  kc : Cap
  by_ : Nat
  at_ : Nat
  deriving DecidableEq, Repr

/-- An arrival at a gate: the context, what it contributes, the phase in which it counts (R246), and the launch coordinates of the context
(R86). -/
structure Arrival where
  ctx : Nat
  val : Option Word
  phase : Nat
  coords : List Nat
  /-- Order stamp of the arrival. -/
  at_ : Nat
  deriving DecidableEq, Repr

/-- A gate of a core (R244 to R248). `waiting` holds arrivals that do not count yet. -/
structure Gate where
  armed : Bool
  error : Bool
  desc : Word
  phase : Nat
  counted : List Arrival
  waiting : List Arrival
  /-- The core's arrivals of the current phase are in and its barn may enter the sweep. -/
  entered : Bool
  /-- The released phases since the gate was armed, and their results. -/
  released : List (Nat × Word)
  /-- Results of the members of a hitch gate (R401). -/
  far : List (Nat × Option Word)
  deriving DecidableEq, Repr

def Gate.reset : Gate :=
  { armed := false, error := false, desc := 0, phase := 0, counted := [], waiting := [], entered := false, released := [], far := [] }

/-- A copy channel (R23, R256 to R261). STATE is 0 idle, 1 busy, 2 stopped (R260). `written` lists the blocks written above
the contiguous run, whose length is `mark`; a multicast keeps its progress there, while its watermark stays at 0 (R258). -/
structure Channel where
  state : Nat
  src : Nat
  dst : Nat
  len : Nat
  world : BitVec 8
  starter : Nat
  /-- The launch on whose behalf the command runs (R5). -/
  launch : Nat
  mark : Nat
  written : List Nat
  fcode : BitVec 8
  faddr : Nat
  /-- The context charged with the fault of a stopped channel (R259). -/
  charged : Option Nat
  /-- cpcancel waits for the block in flight (R261). -/
  cancel : Bool
  mcast : Bool
  /-- Destinations of a multicast, those that hold their whole range, and those that have acknowledged (R258, R381). -/
  dsts : List Nat
  full : List Nat
  acked : List Nat
  /-- Blocks that are read and not written: number, bytes and tag (R378). -/
  data : List (Nat × Nat × BitVec 16)
  /-- Requests to another package without a reply: transaction and block; the number after the last block stands for the flag (R375, R378). -/
  far : List (Nat × Nat)
  table : Nat
  /-- ASID of its translations (R342). -/
  asid : Nat
  /-- The mailbox request that it carries (R256, R257). -/
  mailbox : Option Mailbox
  /-- The capabilities of the source and of the destination, or of the table of a multicast (R173, R258). -/
  pins : List Cap
  /-- Contexts and order stamps: the channel's first access follows their earlier accesses (R298). -/
  after : List (Nat × Nat)
  /-- The virtual address whose translation a block needs, and whether it writes (R344). -/
  miss : Option (Nat × Bool)
  deriving DecidableEq, Repr

def Channel.reset : Channel :=
  { state := 0, src := 0, dst := 0, len := 0, world := 0, starter := 0, launch := 0, mark := 0, written := [], fcode := 0, faddr := 0,
    charged := none, cancel := false, mcast := false, dsts := [], full := [], acked := [], data := [], far := [], table := 0, asid := 0, mailbox := none, pins := [], after := [], miss := none }

/-- A locked region: the holder and the home locations (R170). -/
structure RegionLock where
  holder : Nat
  start : Nat
  len : Nat
  deriving DecidableEq, Repr

/-- A vector entry (R190): the results of a register form, or its late fault, and whether a pipe has taken it (R362). -/
structure VEntry where
  ctx : Nat
  ins : Latch
  regs : List (Nat × Word)
  masks : List (Nat × Word)
  fault : Option FaultInfo
  started : Bool
  deriving DecidableEq, Repr

/-- A line of a fetch buffer and whether its parity failed twice (R89). -/
structure FetchLine where
  line : Block
  bad : Bool
  deriving DecidableEq, Repr

/-- A context command under way (R358): the context, the state and the stopped flag that its image gives or takes, and the address that a save
writes. -/
structure Moving where
  ctx : Nat
  state : CtxState
  stopped : Bool
  save : Option Nat
  deriving DecidableEq, Repr

/-- A core. -/
structure Core where
  /-- Barn cycles counted; the rotation counter is this modulo 16 (R12). -/
  rot : Nat
  /-- Slot-table entries in force and staged, and the table that a commit puts in force (R356, R359). -/
  slots : Vector Word 16
  staged : Vector Word 16
  commit : Option (Vector Word 16)
  /-- Staged tables as they were at the writes to SLOT_COMMIT that are not carried out yet (R359). -/
  committing : List (Vector Word 16)
  /-- Arithmetic cycles of a timing replay left (R440). -/
  hold : Nat
  /-- CMD_STATUS, and the context whose image is in transfer (R356 to R358). -/
  busy : Bool
  err : Bool
  errCode : Nat
  moving : Option Moving
  queues : Vector (List HEntry) 4
  boxes : Vector (Option Mailbox) 8
  /-- Requests read by mbget and not carried by a channel yet, oldest first, with their mailbox numbers (R254 to R256). -/
  served : List (Nat × Mailbox)
  chans : Vector Channel 8
  gates : Vector Gate 4
  locks : List RegionLock
  entryDelay : BitVec 16
  maxDepth : BitVec 2
  /-- The sleep depth reached and the idle cycles counted (R367). -/
  depth : Option Nat
  idle : Nat
  /-- Fault records posted (SEQ of R277). -/
  posted : BitVec 32
  vents : List VEntry
  /-- Contexts whose tile forms and matrix forms hold tile entries, in issue order (R190, R363). -/
  tents : List Nat
  /-- Lines of the fetch buffer, by location in SRAM and by `lineName` in translated space (R91, R303). -/
  lines : List (Nat × FetchLine)
  /-- The line whose fill the turn of the core awaits within its cycle (R12, R89). -/
  want : Option Nat
  /-- The context whose fetch the turn of the core awaits the translation of, within its cycle (R12, R91). -/
  wantCtx : Option Nat
  deriving DecidableEq, Repr

/-- A core at reset (R36, R351; log 7). -/
def Core.reset : Core :=
  { rot := 0, slots := Vector.replicate 16 0, staged := Vector.replicate 16 0, commit := none, committing := [], hold := 0, busy := false, err := false,
    errCode := 0, moving := none, queues := Vector.replicate 4 [], boxes := Vector.replicate 8 none, served := [], chans := Vector.replicate 8 Channel.reset,
    gates := Vector.replicate 4 Gate.reset, locks := [], entryDelay := 64, maxDepth := 1, depth := none, idle := 0,
    posted := 0, vents := [], tents := [], lines := [], want := none, wantCtx := none }

/-- A byte copy from another package: its member and its number there, and the run that it has taken in the receive pool (R371). -/
structure Landing where
  member : Nat
  copy : Nat
  first : Nat
  blocks : Nat
  deriving DecidableEq, Repr

/-- A barn. -/
structure Barn where
  world : BitVec 8
  launch : Nat
  retired : Bool
  /-- Holders of the tile locks (R24) and claims (R215): contexts, or the name of one that is evicted (`evictedName`). -/
  tileLock : Vector (Option Nat) 8
  tileClaim : Vector (Option Nat) 8
  /-- Matrix forms that wait for each tile's lock, in issue order (R24). -/
  tileWait : Vector (List Nat) 8
  /-- Buffers in the receive pool: offset in the pool and length, whose blocks are the run that is taken (R371). -/
  pool : List (Nat × Nat)
  /-- Byte copies from other packages whose runs are taken and whose capabilities have not come yet (R371, R372). -/
  landing : List Landing
  /-- GVT colour, counters and minima (R323). -/
  colour : Bool
  s0 : Word
  s1 : Word
  r0 : Word
  r1 : Word
  m0 : Word
  m1 : Word
  /-- RAS_STATUS fields (R441). -/
  corr : Nat
  parity : Nat
  treplay : Nat
  pdiscard : Nat
  /-- Replays in the current window (R440). -/
  replays : Nat
  /-- A wake from depth 2 that waits for its exit test (R437). -/
  testDue : Bool
  /-- The core granted last by the vector arbiter and by the matrix array (R362, R363). -/
  lastVector : Nat
  lastMatrix : Nat
  deriving DecidableEq, Repr

/-- A barn at reset (R432, R441; log 7). -/
def Barn.reset : Barn :=
  { world := 0, launch := 0, retired := false, tileLock := Vector.replicate 8 none, tileClaim := Vector.replicate 8 none,
    tileWait := Vector.replicate 8 [], pool := [], landing := [], colour := false, s0 := 0, s1 := 0, r0 := 0, r1 := 0, m0 := BitVec.allOnes 64, m1 := BitVec.allOnes 64,
    corr := 0, parity := 0, treplay := 0, pdiscard := 0, replays := 0, testDue := false, lastVector := 3,
    lastMatrix := 3 }

/-- A posted write that is accepted and not performed (R161, R297): its home location, or the transaction that carries it to
another package. -/
structure Posted where
  id : Nat
  src : Nat
  loc : Nat
  op : AccOp
  cap : Cap
  txid : Option Nat
  /-- The entry that has to be performed before this one (R209). -/
  prev : Option Nat
  /-- Its page is shared with a host (R338). -/
  shared : Bool := false
  /-- The write of a block and its tag of which it is a part: a number that its parts share, the bytes and the tag (R333). -/
  whole : Option (Nat × Block × BitVec 16) := none
  deriving DecidableEq, Repr

/-- The states of a ring slot (R313); an untimed ring holds pending slots only. -/
inductive SlotState where
  | pending | handled | doomed | parked
  deriving DecidableEq, Repr

/-- A slot of a ring: its state, header fields (R229), payload, side slot and sender; `took` is the capability that the actor took from the side
slot and holds (R313). -/
structure Slot where
  state : SlotState
  vrt : Nat
  tag : BitVec 16
  defer_ : Bool
  cap : Bool
  len : Nat
  payload : BitVec 384
  side : Cap
  took : Cap
  sender : Nat
  /-- The sender sits in another package, at the member and barn coordinates of a packet (R399). -/
  remote : Option Packet
  /-- The cell of the ring that it takes (R226, R229; log 10). -/
  cell : Nat := 0
  deriving DecidableEq, Repr

/-- A ring (R226), keyed by the home location of its port. -/
structure Ring where
  live : Bool
  timed : Bool
  cells : Nat
  /-- Base of the buffer when it became a ring (R226, R228). -/
  origin : Nat
  gen : BitVec 12
  world : BitVec 8
  saved : BitVec 8
  length : Nat
  reserve : Nat
  issued : Nat
  /-- The context that holds the receive end, and its launch. -/
  owner : Nat
  launch : Nat
  fault : Bool
  slots : List Slot
  /-- Annihilated messages whose acknowledgement waits until the owner has their capability back (R302, R315). -/
  owed : List Slot
  deriving DecidableEq, Repr

def Ring.reset : Ring :=
  { live := false, timed := false, cells := 0, origin := 0, gen := 0, world := 0, saved := 0, length := 0, reserve := 0, issued := 0,
    owner := 0, launch := 0, fault := false, slots := [], owed := [] }

/-- The kinds of message that travel between barns (R230, R236, R315, R320). -/
inductive MsgKind where
  | untimed | timed | recall | ack
  deriving DecidableEq, Repr

/-- A message in transit. `from_` is the sending context, which waits for it unless `launch` is not 0 (a deferred action or a feed
of that launch sends it); `port` is the base of its send end; `cap` is the capability as it travels and `orig` as it left the
register `reg`; `copy` says that a byte copy has to be made first (R372). -/
structure Msg where
  id : Nat
  kind : MsgKind
  from_ : Nat
  port : Nat
  vrt : Nat
  tag : BitVec 16
  defer_ : Bool
  len : Nat
  payload : BitVec 384
  cap : Cap
  orig : Cap
  reg : Option KReg
  copy : Bool
  /-- Colour stamped when it left the sender's barn (R323). -/
  colour : Option Bool
  launch : Nat
  /-- The slots that left the source with a byte copy to another package (R372, R373), and those of them that have not been sent yet. -/
  slots : List (Nat × Cap) := []
  unsent : List (Nat × Cap) := []
  /-- The launch of the ring that it goes to in this package (R231), 0 for none. -/
  dest : Nat := 0
  deriving DecidableEq, Repr

/-- A version of a region: its number and the handles that contexts hold open on it (R186). Its bytes and tags lie in memory at
the locations that `versionLoc` gives (Sys2Proof/Machine/Ops.lean). -/
structure Version where
  num : Nat
  handles : Nat
  deriving DecidableEq, Repr

/-- A versioned region, keyed by 2^48 × world + base (R186 to R189, R418). `host` is the version that the host's window shows. -/
structure Region where
  live : Bool
  base : Nat
  length : Nat
  world : BitVec 8
  latest : Nat
  versions : List Version
  priv : Option Nat
  privHost : Bool
  host : Option Nat
  /-- A launch entry has named it as an exported region (R418, log 21). -/
  exported : Bool
  /-- The host's version control block: VERNUM and STATUS (R418). -/
  vernum : BitVec 32
  status : Nat
  deriving DecidableEq, Repr

def Region.reset : Region :=
  { live := false, base := 0, length := 0, world := 0, latest := 0, versions := [], priv := none, privHost := false,
    host := none, exported := false, vernum := 0, status := 0 }

/-- A cached leaf (R342): ASID, page address and size, physical address, world, write permission, shared. -/
structure Leaf where
  asid : Nat
  va : Nat
  size : Nat
  pa : Nat
  world : BitVec 8
  w : Bool
  shared : Bool
  deriving DecidableEq, Repr

/-- A source of translated requests (R342, R345): a context, a copy channel, or the deferred releases of a launch. -/
inductive Source where
  | ctx (c : Nat)
  | chan (core ch : Nat)
  | release (launch : Nat)
  deriving DecidableEq, Repr

/-- A parked request (R344): its source, ASID, granule, world and kind; for one that is parked behind an earlier request of a channel (R345),
one more than the number of its block. -/
structure ParkedReq where
  src : Source
  asid : Nat
  granule : Nat
  world : BitVec 8
  write : Bool
  behind : Nat := 0
  deriving DecidableEq, Repr

/-- A fault entry without its count of waiters, which is that of the parked requests (R345). -/
structure FaultEntry where
  asid : Nat
  granule : Nat
  world : BitVec 8
  cause : Nat
  level : Nat
  write : Bool
  src : Source
  deriving DecidableEq, Repr

/-- A miss marker (R344), whether its walk is under way, and the root at which that walk started (R348). -/
structure Marker where
  asid : Nat
  granule : Nat
  walking : Bool
  root : Word
  deriving DecidableEq, Repr

/-- A translation station (R345, R348). -/
structure Station where
  root : Word
  dropped : Bool
  buffer : List FaultEntry
  parked : List ParkedReq
  /-- Requests refused by a full store, retried after a back-off (R345). -/
  refused : List ParkedReq
  markers : List Marker
  cache : List Leaf
  deriving DecidableEq, Repr

def Station.reset : Station :=
  { root := 0, dropped := false, buffer := [], parked := [], refused := [], markers := [], cache := [] }

/-- A request at a block-transfer engine (R376): core and channel (8 for the move engine), block, TRIES, whether it holds an entry and whether
that is a reserved one, the refusal word that answered it last, and the cycle at which its network interface sends it again. -/
structure BteReq where
  id : Nat
  core : Nat
  chan : Nat
  tries : Nat
  held : Bool
  reserved : Bool
  word : Option Word := none
  due : Nat := 0
  deriving DecidableEq, Repr

/-- A block-transfer engine (R376, R377). -/
structure Engine where
  refused : BitVec 32
  reqs : List BteReq
  deriving DecidableEq, Repr

def Engine.reset : Engine := { refused := 0, reqs := [] }

/-- A fabric port (R388, R389); STATE is 0 down, 1 training, 2 up, 3 retraining. -/
structure Port where
  state : Nat
  peer : Nat
  replays : BitVec 32
  streak : Nat
  deriving DecidableEq, Repr

def Port.reset : Port := { state := 0, peer := 0, replays := 0, streak := 0 }

/-- The attachment of the group to a member (R405). -/
inductive Attach where
  | detached | joining | attached | detaching
  deriving DecidableEq, Repr

/-- The state of a member (R405). -/
inductive MemberState where
  | resident | holding | gone
  deriving DecidableEq, Repr

/-- The formation of a hitch (R365). -/
inductive HitchStage where
  | prepared | bound | leaving | exitWait | withdrawing | left
  deriving DecidableEq, Repr

/-- A hitch registered on the package (R402 to R409). -/
structure Hitch where
  id : Nat
  world : BitVec 8
  gen : BitVec 12
  repro : Bool
  count : Nat
  me : Nat
  scope : Nat
  launch : Nat
  stage : HitchStage
  /-- Package coordinates of each member: row and column. -/
  place : Map (Nat × Nat)
  /-- The mode of each member, where it differs from that of this package's launch (R56). -/
  modes : Map Bool
  attach : Map Attach
  member : Map MemberState
  /-- Members that have reported prepared to member 0 (R365). -/
  reported : List Nat
  /-- Members attached to this group's slice (R252). -/
  holders : List Nat
  /-- The context that issued hleave, if one did. -/
  leaver : Option Nat
  /-- The contexts whose hjoin or hdetach waits at the hitch unit, in the order in which they reached it, with their members (R406). -/
  line : List (Nat × List Nat) := []
  deriving DecidableEq, Repr

/-- A level of a launch (R353). -/
structure Level where
  domain : Nat
  skreg : Nat
  countX : Nat
  countY : Nat
  scope : Nat
  deriving DecidableEq, Repr

/-- A launch record (R352 to R354). -/
structure LaunchRec where
  repro : Bool
  actor : Bool
  wsize : Nat
  prio : BitVec 2
  pinned : Nat
  kregs : BitVec 8
  code : Nat
  codeLen : Nat
  entry : Nat
  supEntry : Nat
  grace : Nat
  data : Nat
  dataLen : Nat
  loftLen : Nat
  hitch : Word
  levels : List Level
  init : List (Nat × Word)
  deriving DecidableEq, Repr

/-- The life of a launch. -/
inductive LaunchStage where
  | queued | placed | running | noticed | saved | ending | closed
  deriving DecidableEq, Repr

/-- A launch (R349, R351, R416, R293). -/
structure Launch where
  stage : LaunchStage
  world : BitVec 8
  asid : BitVec 16
  desc : LaunchRec
  queue : Nat
  tag : BitVec 32
  notify : List (BitVec 32)
  region : Nat
  feed : Bool
  feedPort : Option Nat
  /-- Feed entries that wait for the ring (R416): length and payload. -/
  feeds : List (Nat × BitVec 384)
  /-- Paddock: column, row, width, height. -/
  px : Nat
  py : Nat
  pw : Nat
  ph : Nat
  /-- Whether the launch still has results (R5), and the code of the first fault acknowledged with terminate. -/
  results : Bool
  firstTerm : BitVec 8
  /-- The cause of a termination, 0 for none (R417). -/
  cause : BitVec 8
  gvt : Word
  /-- The GVT round: the old colour while count sweeps run (R324); the sums and minima of the other members of a hitch (R400). -/
  round : Option Bool
  sums : List (Nat × Word × Word)
  /-- Deferred actions released and not performed yet, in release order: actor context and record (R242). -/
  releases : List (Nat × Deferred)
  failures : Nat
  /-- Cycle at which the launch was bound (R364), the cycle at which its grace ends (R291). -/
  bound : Nat
  graceEnd : Nat
  /-- Minimum recorded when pre-empted (R322), and the images and slot tables saved. -/
  savedMin : Word
  /-- What D of each colour was over its barns when it was placed, whose counters are never cleared (R323, R324, log 30). -/
  swept : Word × Word := (0, 0)
  saved : Map Ctx
  savedCores : Map Core
  savedRegs : Map Word
  savedTiles : Map (BitVec 32)
  savedBarns : Map Barn
  savedMem : Map Byte
  savedTags : Map (BitVec 16)
  savedSlots : Map Cap
  savedPoison : Map Bool
  savedRings : Map Ring
  /-- Copies of the code and data images that the scheduler holds in system pages: virtual address and bytes. -/
  buffers : List (Nat × Nat)
  deriving DecidableEq, Repr

/-- A completion record that waits for a place in its ring (R417): KIND, STATUS, RES, TAG, LAUNCH and DATA. -/
structure CRecord where
  kind : Nat
  status : Nat
  res : Nat
  tag : Nat
  launch : Nat
  d0 : Word
  d1 : Word
  deriving DecidableEq, Repr

/-- A work queue (R413, R414). -/
structure Queue where
  cbase : Word
  base : Word
  head : Word
  world : BitVec 8
  csize : BitVec 4
  size : BitVec 4
  en : Bool
  tail : BitVec 16
  /-- Records of the completion ring: written, waiting to be written, and not yet read by the host. -/
  seq : BitVec 32
  waiting : List CRecord
  unread : Nat
  deriving DecidableEq, Repr

def Queue.reset : Queue :=
  { cbase := 0, base := 0, head := 0, world := 0, csize := 0, size := 0, en := false, tail := 0, seq := 0, waiting := [],
    unread := 0 }

/-- The TDISP states (R425). -/
inductive TdiState where
  | unlocked | locked | run | error
  deriving DecidableEq, Repr

/-- A TDI (R411, R425). -/
structure Tdi where
  state : TdiState
  session : Option Nat
  discarded : Nat
  /-- A STOP is being carried out (R425). -/
  stopping : Bool
  deriving DecidableEq, Repr

def Tdi.reset : Tdi := { state := .unlocked, session := none, discarded := 0, stopping := false }

/-- An SPDM session (R423, R428): its function, whether FINISH has completed it, and whether it is suspended. -/
structure Session where
  id : Nat
  fn : Nat
  open_ : Bool
  suspended : Bool
  deriving DecidableEq, Repr

/-- A scrub receipt (R427) without its signature. -/
structure Receipt where
  world : BitVec 8
  epoch : BitVec 32
  start : Nat
  len : Nat
  covered : Nat
  excluded : List Nat
  deriving DecidableEq, Repr

/-- Start-up modes (R435). -/
inductive BootMode where
  | starting | listening | minimal | running
  deriving DecidableEq, Repr

/-- BOOT_STATUS and what the start keeps (R433 to R435). -/
structure Boot where
  mode : BootMode
  stage : Nat
  fails : Nat
  reason : Nat
  barnsOk : Nat
  minBarns : Nat
  /-- A start is under way: no stage has failed yet, and the listening state is not reached (R431). -/
  under : Bool
  deriving DecidableEq, Repr

/-- Package power states (R436). -/
inductive Power where
  | run | sleep | off
  deriving DecidableEq, Repr

/-- The sidecar of a block of HBM or of a sealed page of the pool (R335, R336): the world and the key epoch under which it is sealed, which is
what its ICODE verifies. -/
structure Seal where
  world : BitVec 8
  epoch : BitVec 32
  deriving DecidableEq, Repr

/-- A record posted to a yard's management core: a table entry that lies in a poisoned block (R346). -/
structure PoisonReport where
  station : Nat
  asid : Nat
  granule : Nat
  deriving DecidableEq, Repr

/-- What the device has sent to a host or to the board (log 3). -/
inductive Answer where
  /-- An SPDM or TDISP answer: request code, and its body. -/
  | spdm (fn : Nat) (code : Nat) (body : Nat)
  /-- An ERROR answer and its name. -/
  | error (fn : Nat) (name : String)
  /-- A completion record written to a ring: queue, KIND, STATUS, PHASE, RES, TAG, LAUNCH, SEQ, DATA (R417). -/
  | record (queue kind status phase res tag launch seq : Nat) (d0 d1 : Word)
  /-- The SPDM version, and the four algorithms that are negotiated (R410, R423). -/
  | version (fn major minor : Nat)
  | algorithms (fn : Nat) (signature hash exchange aead : String)
  /-- What a read of BAR0 or of configuration space gives (R411, R432). -/
  | register (fn off : Nat) (v : Word)
  /-- What a read of the security status mailbox by the board gives (R411). -/
  | mailbox (off : Nat) (v : Word)
  | receipt (r : Receipt) (nonce : BitVec 256) (sig : Nat)
  /-- A line read through a CXL.mem window, or poison (R419, R421). -/
  | line (region off : Nat) (v : Option Block)
  deriving DecidableEq, Repr

/-- The instruction at issue, or the context on whose behalf an event acts. `spent` says that the turn was spent without
issuing (R190). -/
structure Issue where
  ctx : Nat
  codept : Nat
  word : InstWord
  paired : Bool
  latched : Bool
  ops : List Word
  pos : Nat
  spent : Bool
  deriving DecidableEq, Repr

/-- What the next step is (log 2): an input of the outside world, a step of the device that is due, another try of the
instruction for which a context waits, or a turn of the core in focus. -/
inductive Choice where
  | input (i : Instr)
  | device (n : Nat)
  /-- The next word of an access of 64 bytes is the one of this number among those that it has not read (R296). -/
  | word (n : Nat)
  | retry (c : Nat)
  | turn
  deriving DecidableEq, Repr

/-- The package. -/
structure State where
  ctxs : Map Ctx
  cores : Map Core
  barns : Map Barn
  /-- Register-file entries, keyed by 2048 × core + entry (R7). -/
  regs : Map Word
  /-- Accumulator elements, keyed by ((8 × barn + tile) × 32 + row) × 256 + column (R211). -/
  tiles : Map (BitVec 32)
  /-- Memory by home location; an unlisted location reads as zero (log 5). -/
  mem : List Host.Cell
  /-- Block tags, keyed by location / 64 (R67). -/
  tags : Map (BitVec 16)
  /-- Stashed capabilities, keyed by location / 16; presence is the capability bit (R164). -/
  slots : Map Cap
  /-- Poisoned blocks, keyed by location / 64 (R333, R336); while `stale` is set, the blocks of HBM that are not poisoned. -/
  poison : Map Bool
  /-- The power was lost since HBM was written (R422, R429): every block of HBM is poisoned but for the listed ones. -/
  stale : Bool
  /-- The seals of blocks that have been written, keyed by location / 64 (R335, R336). -/
  seals : Map (Option Seal)
  /-- Blocks retired by a wipe or a scrub (R268, R427). -/
  dead : Map Bool
  posted : List Posted
  rings : Map Ring
  msgs : List Msg
  regions : Map Region
  stations : Map Station
  /-- The second-level cache of each yard (R342). -/
  yards : Map (List Leaf)
  /-- POISON records posted to the management cores (R346). -/
  reports : List PoisonReport
  /-- Barns reported to the management core for their replays (R440). -/
  slow : List Nat
  engines : Map Engine
  ports : Map Port
  row : Nat
  col : Nat
  /-- Packets sent to the fabric, latest last, and the windows transactions that wait for replies: number, context, member. -/
  sent : List Packet
  txs : List (Nat × Source × Nat)
  hitches : List Hitch
  /-- Generations that hitch identifiers used last on this package (R402). -/
  hitchGen : Map Nat
  launches : Map Launch
  queues : Map Queue
  tdis : Map Tdi
  sessions : List Session
  epochs : Map (BitVec 32)
  /-- Alarm bits by cause (R426). -/
  alarms : List Alarm
  debugged : Bool
  /-- The test access is enabled (R426). -/
  testing : Bool
  keys : Bool
  /-- The keys of the IDE streams by function (R410). -/
  ideKeys : Map (BitVec 256)
  receipts : List Receipt
  boot : Boot
  power : Power
  throttle : Bool
  /-- Extents withdrawn or in withdrawal (R421): first location, length, complete. -/
  extents : List (Nat × Nat × Bool)
  cycle : Nat
  /-- Context images that CTX_SAVE has written (R290), by physical address: what the bytes of the image do not show (log 17). -/
  images : Map Ctx
  /-- The model's own fields (log 2): the choices of the next steps, the steps of the device that are due, the contexts whose
  waits are tried before the turn in focus, whether a due step is passed over, the instruction at issue, a counter for arrival
  orders, the core in focus, and the word that an access of 64 bytes reads next (log 9); what the device has sent to hosts and to the board (log 3); the counter behind free values
  (log 4). -/
  agenda : List Choice
  work : List Instr
  todo : List Nat
  passed : Bool
  cur : Issue
  stamp : Nat
  focus : Nat
  pick : Nat
  answers : List Answer
  free : Nat
  deriving DecidableEq, Repr

/-- Faults of the model itself. A fault of the GX9 is no fault here: it parks its context (R271, R272). -/
inductive Fault where
  /-- An instruction was executed with no resident context at issue. Raised by every instruction's meaning when
  `State.cur` names an absent context; `step` never issues so. Safe: the machine stops where the hardware has no such case. -/
  | noContext
  deriving DecidableEq, Repr

/-- Refusals of the model. -/
inductive Refusal where
  /-- The instruction has no meaning in the model yet. Raised by its arm of `exec` only. Safe: the model stops. -/
  | notModelled (mnemonic : String)
  /-- A register access at an address at which the spec gives no register. Raised by `execRegisterWrite`. Safe. -/
  | noRegister
  deriving DecidableEq, Repr

/-- No instruction at issue. -/
def Issue.none : Issue :=
  { ctx := 0, codept := 0, word := 0, paired := false, latched := false, ops := [], pos := 0, spent := false }

/-- The package at power-good, before the security controller starts (R431, R432, R435; log 1). Every context is absent,
every memory as log 5 says, and nothing is configured. -/
def State.reset : State :=
  { ctxs := [], cores := [], barns := [], regs := [], tiles := [], mem := [], tags := [], slots := [], poison := [], stale := false,
    seals := [], dead := [], posted := [], rings := [], msgs := [], regions := [], stations := [], yards := [], reports := [], slow := [], engines := [],
    ports := [], row := 0, col := 0, sent := [], txs := [], hitches := [], hitchGen := [], launches := [], queues := [],
    tdis := [], sessions := [], epochs := [], alarms := [], debugged := false, testing := false, keys := false, ideKeys := [], receipts := [],
    boot := { mode := .starting, stage := 0, fails := 0, reason := 0, barnsOk := 0, minBarns := Config.minBarns, under := true },
    power := .run, throttle := false, extents := [], cycle := 0, images := [], agenda := [], work := [], todo := [], passed := false, cur := Issue.none,
    stamp := 0, focus := 0, pick := 0, answers := [], free := 0 }

end Sys2Proof.Machine
end

