-- ==== Sys2Proof/Machine/Block.lean ====
section
/-! DEFINITION. Lanes of a 512-bit group, block formats and tags, quantisation, exact block sums and the fixed summation
orders (R67 to R86). Reductions keep an absent value as `none` (R84). -/

namespace Sys2Proof.Machine

/-- Lane `i` of a group at width `e` (R25, R192). -/
def lane (e : Nat) (v : Block) (i : Nat) : Nat := v.toNat / 2 ^ (e * i) % 2 ^ e

/-- A number from lanes of width `e`, the first lane lowest. -/
def packLanes (e : Nat) : List Nat → Nat
  | [] => 0
  | x :: xs => x % 2 ^ e + 2 ^ e * packLanes e xs

/-- The group whose lane `i` is `f i` (R192). -/
def ofLanes (e : Nat) (f : Nat → Nat) : Block := BitVec.ofNat 512 (packLanes e ((List.range (512 / e)).map f))

/-! Block tags (R67, R68). -/

/-- The format byte and the scale of a tag. -/
def tagFormat (t : BitVec 16) : BitVec 8 := t.extractLsb' 8 8
def tagScale (t : BitVec 16) : Nat := (t.extractLsb' 0 8).toNat

/-- A tag from a format byte and a scale. -/
def mkTag (f : BitVec 8) (scale : Nat) : BitVec 16 := f ++ BitVec.ofNat 8 scale

/-- Whether a format byte is reserved (R68). -/
def fmtReserved (f : BitVec 8) : Bool := !(f == 0 || blockFmt f)

/-- Whether a format byte is dense (R68). -/
def denseFmt (f : BitVec 8) : Bool := 0x12 ≤ f.toNat && f.toNat ≤ 0x18

/-- Element width of a format byte (R68). -/
def fmtWidth (f : BitVec 8) : Nat := if denseFmt f || sparseFmt f then f.toNat % 16 else 8

/-- The element type of a scaled format byte (R68). -/
def scaledTy (f : BitVec 8) : Ty := if f == 0x30 then .e4m3 else .e5m2

/-- The position mask of a sparse block (R71). -/
def sparseMask (v : Block) : Nat := v.toNat % 2 ^ 128

/-- The number of set bits of the low `n` bits. -/
def popcount : Nat → Nat → Nat
  | 0, _ => 0
  | n + 1, v => v % 2 + popcount n (v / 2)

/-- An ill-formed block (R74). -/
def illFormed (tag : BitVec 16) (v : Block) : Bool :=
  let f := tagFormat tag
  let w := fmtWidth f
  if tagScale tag == 0 || tagScale tag == 255 then false
  else if denseFmt f then v.toNat / 2 ^ (blockVals f * w) != 0
  else if sparseFmt f then
    let n := popcount 128 (sparseMask v)
    384 / w < n || v.toNat / 2 ^ 128 / 2 ^ (n * w) != 0
  else false

/-- The mantissas of a dense or sparse block, by element or position; absent positions contribute 0 (R70, R71). -/
def mantissas (tag : BitVec 16) (v : Block) : List Int :=
  let f := tagFormat tag
  let w := fmtWidth f
  if sparseFmt f then
    let mask := sparseMask v
    ((List.range 128).foldl (fun (a : List Int × Nat) j =>
      if mask / 2 ^ j % 2 == 1 then (signed w (v.toNat / 2 ^ (128 + w * a.2)) :: a.1, a.2 + 1) else (0 :: a.1, a.2))
      ([], 0)).1.reverse
  else (List.range (blockVals f)).map fun i => signed w (v.toNat / 2 ^ (w * i))

/-- The values of a well-formed block (R70 to R72). -/
def blockValues (tag : BitVec 16) (v : Block) : List Val :=
  let f := tagFormat tag
  let e := tagScale tag
  let w := fmtWidth f
  if e == 255 then List.replicate (blockVals f) .nan
  else if e == 0 then List.replicate (blockVals f) (.fin false 0 0)
  else if denseFmt f || sparseFmt f then
    (mantissas tag v).map fun m => .fin (decide (m < 0)) m.natAbs ((e : Int) - 127 - (w - 1))
  else (List.range 64).map fun i =>
    match Val.decode (scaledTy f) (lane 8 v i) with
    | .fin n m x => .fin n m (x + e - 127)
    | x => x

/-- The check of a tag and its block: FMT_RESERVED, then FMT_CLASH, then FMT_ILL (R75, R204, R205). -/
def checkTag (accept : BitVec 8 → Bool) (tag : BitVec 16) (v : Block) : Option FaultCode :=
  let f := tagFormat tag
  if fmtReserved f then some .fmtReserved
  else if !accept f then some .fmtClash
  else if illFormed tag v then some .fmtIll
  else none

/-! Quantisation (R77 to R79). -/

/-- Whether a value is a NaN or an infinity. -/
def notFinite : Val → Bool
  | .fin .. => false
  | .nan | .inf _ => true

/-- The greatest magnitude of a list of finite values. -/
def greatest (xs : List Val) : Val := xs.foldl (fun m x => if Val.below m x.abs then x.abs else m) (.fin false 0 0)

/-- The automatic scale of a dense or sparse block: floor(log2 M) + 128, from 1 to 254 (R77). -/
def autoScale (m : Val) : Nat :=
  match m with
  | .fin _ n e => (clampInt 1 254 (Nat.log2 n + e + 128)).toNat
  | .nan | .inf _ => 254

/-- The automatic scale of a scaled FP8 block (R79). -/
def autoScale8 (f : BitVec 8) (m : Val) : Nat :=
  let top : Val := .ofInt (if f == 0x30 then 448 else 57344)
  (((List.range 254).map (· + 1)).find? fun (e : Nat) =>
    match m with
    | .fin _ n x => !Val.below top (.fin false n (x + 127 - (e : Int)))
    | .nan | .inf _ => false).getD 254

/-- A value times 2^k. -/
def timesPow (x : Val) (k : Int) : Val :=
  match x with
  | .fin n m e => .fin n m (e + k)
  | v => v

/-- The mantissas of values at width `w` and scale `e` (R77). -/
def quantMantissas (w e : Nat) (xs : List Val) : List Int :=
  xs.map fun x => clampInt (-(2 ^ (w - 1))) (2 ^ (w - 1) - 1) (((timesPow x ((w : Int) - 1 + 127 - e)).toInt .rne).getD 0)

/-- One block from its source values, with an automatic scale or a given one; `mask` is the position mask of a sparse target
(R77 to R79, R203). -/
def quantise (f : BitVec 8) (given : Option Nat) (mask : Nat) (xs : List Val) : BitVec 16 × Block :=
  let w := fmtWidth f
  let kept := if sparseFmt f then (xs.zip (List.range 128)).filterMap fun p =>
      if mask / 2 ^ p.2 % 2 == 1 then some p.1 else none
    else xs
  let zero := (mkTag f 0, 0)
  let invalid := (mkTag f 255, 0)
  let m := greatest kept
  let isZero := match m with | .fin _ 0 _ => true | _ => false
  if kept.any notFinite then invalid
  else if given == some 0 || (given == none && isZero) then zero
  else if given == some 255 then invalid
  else if denseFmt f || sparseFmt f then
    let e := given.getD (autoScale m)
    let q := quantMantissas w e kept
    if q.all (· == 0) then zero
    else
      let body := packLanes w (q.map (wrap w))
      (mkTag f e, BitVec.ofNat 512 (if sparseFmt f then mask % 2 ^ 128 + 2 ^ 128 * body else body))
  else
    let e := given.getD (autoScale8 f m)
    let q := kept.map fun x => (timesPow x (127 - (e : Int))).encode (scaledTy f) .rne
    if q.all (fun b => b % 128 == 0) then zero else (mkTag f e, BitVec.ofNat 512 (packLanes 8 q))

/-! Exact block sums (R80, R81). -/

/-- The exact sum of products of two lists of mantissas (R80). -/
def dotSum (a b : List Int) : Int := ((a.zip b).map fun p => p.1 * p.2).sum

/-- A block pair's contribution added to an FP32 accumulator (R81). -/
def addPair (acc : Nat) (tagA tagB : BitVec 16) (s : Int) : Nat :=
  if tagScale tagA == 255 || tagScale tagB == 255 || (Val.decode .f32 acc).isNan then (fmtOf .f32).nan
  else if tagScale tagA == 0 || tagScale tagB == 0 || s == 0 then acc
  else
    let wA := fmtWidth (tagFormat tagA)
    let wB := fmtWidth (tagFormat tagB)
    let v : Val := .fin (decide (s < 0)) s.natAbs
      ((tagScale tagA : Int) - 127 - (wA - 1) + ((tagScale tagB : Int) - 127 - (wB - 1)))
    (Val.add .rne (Val.decode .f32 acc) v).encode .f32 .rne

/-! Fixed orders of reduction (R83 to R85). -/

/-- The operations of a reduction. -/
inductive RedOp where
  | sum | max | min
  deriving DecidableEq, Repr

/-- The computing type of a reduction (R83). -/
def compTy (t : Ty) : Ty :=
  if t.isFp then (if t == .f64 then .f64 else .f32) else if t.isSigned then .s64 else .n64

/-- One combination in the computing type (R83, R66). -/
def combine (o : RedOp) (t : Ty) (a b : Nat) : Nat :=
  if t.isFp then
    fop2 t .rne (match o with | .sum => Val.add .rne | .max => Val.max | .min => Val.min) a b
  else
    match o with
    | .sum => (a + b) % 2 ^ 64
    | .max => if t.int a < t.int b then b else a
    | .min => if t.int b < t.int a then b else a

/-- A combination in which either side may be absent (R84). DESIGN CHOICE (log 30): a value that stands alone is the result unchanged, as R84 words
it, also a NaN with a payload, which R62 would make canonical if it were the result of an operation; unsafe. -/
def combineOpt (o : RedOp) (t : Ty) : Option Nat → Option Nat → Option Nat
  | none, y => y
  | x, none => x
  | some a, some b => some (combine o t a b)

/-- One level of the tree (R83). -/
def pairUp (o : RedOp) (t : Ty) : List (Option Nat) → List (Option Nat)
  | a :: b :: r => combineOpt o t a b :: pairUp o t r
  | r => r

/-- `n` levels of the tree. -/
def levelsUp (o : RedOp) (t : Ty) : Nat → List (Option Nat) → List (Option Nat)
  | 0, xs => xs
  | n + 1, xs => levelsUp o t n (pairUp o t xs)

/-- The identity of a reduction in its computing type (R84). -/
def identity (o : RedOp) (t : Ty) : Nat :=
  match o with
  | .sum => 0
  | .max => if t.isFp then (Val.inf true).encode t .rne else wrap 64 t.lo
  | .min => if t.isFp then (Val.inf false).encode t .rne else wrap 64 t.hi

/-- The reduction of a group under a mask, absent when every lane is (R83, R84). -/
def reduceLanes (o : RedOp) (t : Ty) (mask : Word) (v : Block) : Option Nat :=
  let c := compTy t
  let xs := (List.range t.lanes).map fun i =>
    if mask.getLsbD i then some (if c == t then lane t.width v i else convert c t .rne false (lane t.width v i)) else none
  ((levelsUp o c 6 xs).head?).join

end Sys2Proof.Machine
end

