-- ==== Sys2Proof/Machine/Ops.lean ====
section
/-! DEFINITION. The named operations over maps, memory, registers and contexts; taking a fault (R272, R277), the return from an
event (R263); and the frame in which every instruction's meaning runs (R108). -/

namespace Sys2Proof.Machine

/-! Maps. -/

/-- The value of a key, `d` where the map lists none. -/
def mget {α : Type} (d : α) : Map α → Nat → α
  | [], _ => d
  | (k, v) :: r, a => if k = a then v else mget d r a

/-- The map with a key listed with a value. -/
def mset {α : Type} : Map α → Nat → α → Map α
  | [], a, v => [(a, v)]
  | (k, x) :: r, a, v => if a < k then (a, v) :: (k, x) :: r else if a = k then (a, v) :: r else (k, x) :: mset r a v

/-- The map with a key set to a value; a key set to `d` is not listed. -/
def mput {α : Type} [DecidableEq α] (d : α) (m : Map α) (a : Nat) (v : α) : Map α :=
  if v = d then m.filter fun p => decide (p.1 ≠ a) else mset m a v

/-- Whether every key of a map is above a bound. -/
def Map.above {α : Type} (b : Nat) (m : Map α) : Bool := m.all fun p => b < p.1

/-- The canonical form: keys strictly rising, and no value equal to what an unlisted key reads as. -/
def Map.wf {α : Type} [DecidableEq α] (d : α) : Map α → Bool
  | [] => true
  | (k, v) :: r => v ≠ d && Map.above k r && Map.wf d r

/-- The canonical form of memory (log 5): locations strictly rising, and no byte of zero listed. -/
def Memory.wf (m : List Host.Cell) : Bool := Map.wf 0 m

/-- Element `i` of a vector, `d` outside it. -/
def vat {α : Type} {n : Nat} (d : α) (xs : Vector α n) (i : Nat) : α := if h : i < n then xs[i] else d

/-- The vector with element `i` set. -/
def vset {α : Type} {n : Nat} (xs : Vector α n) (i : Nat) (v : α) : Vector α n := xs.setIfInBounds i v

/-- A list sorted by insertion; equal elements keep their order. -/
def insertBy {α : Type} (le : α → α → Bool) (x : α) : List α → List α
  | [] => [x]
  | y :: ys => if le y x then y :: insertBy le x ys else x :: y :: ys
def sortBy {α : Type} (le : α → α → Bool) (xs : List α) : List α := xs.foldl (fun acc x => insertBy le x acc) []

/-! Keys. -/

def coreOf (c : Nat) : Nat := c / 64
def numOf (c : Nat) : Nat := c % 64
def barnOf (c : Nat) : Nat := c / 256
/-- The context key in a name: that of an evicted context carries the address of its image too (log 17). -/
def homeOf (k : Nat) : Nat := k % 2 ^ 40
def barnOfCore (i : Nat) : Nat := i / 4
def barnX (b : Nat) : Nat := b % 32
def barnY (b : Nat) : Nat := b / 32
def barnAt (x y : Nat) : Nat := 32 * y + x
/-- The yard of a barn (R44). -/
def yardOf (b : Nat) : Nat := 2 * (barnY b / 16) + barnX b / 16
/-- The 64 contexts of a core and the 4 cores of a barn. -/
def ctxsOfCore (i : Nat) : List Nat := (List.range 64).map (64 * i + ·)
def coresOfBarn (b : Nat) : List Nat := (List.range 4).map (4 * b + ·)

/-! Components of the state. -/

namespace State

def ctx (s : State) (c : Nat) : Ctx := mget Ctx.reset s.ctxs c
def setCtx (s : State) (c : Nat) (x : Ctx) : State := { s with ctxs := mput Ctx.reset s.ctxs c x }
def modCtx (s : State) (c : Nat) (f : Ctx → Ctx) : State := s.setCtx c (f (s.ctx c))
def core (s : State) (i : Nat) : Core := mget Core.reset s.cores i
def setCore (s : State) (i : Nat) (x : Core) : State := { s with cores := mput Core.reset s.cores i x }
def modCore (s : State) (i : Nat) (f : Core → Core) : State := s.setCore i (f (s.core i))
def barn (s : State) (b : Nat) : Barn := mget Barn.reset s.barns b
def setBarn (s : State) (b : Nat) (x : Barn) : State := { s with barns := mput Barn.reset s.barns b x }
def modBarn (s : State) (b : Nat) (f : Barn → Barn) : State := s.setBarn b (f (s.barn b))
def ring (s : State) (p : Nat) : Ring := mget Ring.reset s.rings p
def setRing (s : State) (p : Nat) (x : Ring) : State := { s with rings := mput Ring.reset s.rings p x }
def region (s : State) (k : Nat) : Region := mget Region.reset s.regions k
def setRegion (s : State) (k : Nat) (x : Region) : State := { s with regions := mput Region.reset s.regions k x }
def station (s : State) (n : Nat) : Station := mget Station.reset s.stations n
def setStation (s : State) (n : Nat) (x : Station) : State := { s with stations := mput Station.reset s.stations n x }
def engine (s : State) (n : Nat) : Engine := mget Engine.reset s.engines n
def setEngine (s : State) (n : Nat) (x : Engine) : State := { s with engines := mput Engine.reset s.engines n x }
def port (s : State) (n : Nat) : Port := mget Port.reset s.ports n
def setPort (s : State) (n : Nat) (x : Port) : State := { s with ports := mput Port.reset s.ports n x }
def queue (s : State) (q : Nat) : Queue := mget Queue.reset s.queues q
def setQueue (s : State) (q : Nat) (x : Queue) : State := { s with queues := mput Queue.reset s.queues q x }
def tdi (s : State) (w : Nat) : Tdi := mget Tdi.reset s.tdis w
def setTdi (s : State) (w : Nat) (x : Tdi) : State := { s with tdis := mput Tdi.reset s.tdis w x }

/-- The context at issue. -/
def me (s : State) : Ctx := s.ctx s.cur.ctx
def setMe (s : State) (x : Ctx) : State := s.setCtx s.cur.ctx x
def modMe (s : State) (f : Ctx → Ctx) : State := s.modCtx s.cur.ctx f
/-- The core and the barn of the context at issue. -/
def myCore (s : State) : Nat := coreOf s.cur.ctx
def myBarn (s : State) : Nat := barnOf s.cur.ctx

/-- A step of the device becomes due. -/
def push (s : State) (i : Instr) : State := { s with work := s.work ++ [i] }
/-- A step of the device becomes due unless it is due already. -/
def pushOnce (s : State) (i : Instr) : State := if s.work.contains i then s else s.push i
/-- A step of the device is done. -/
def did (s : State) (i : Instr) : State := { s with work := s.work.erase i }

/-! Registers. A window lies in the register file of its core (R7). -/

/-- The register-file key of register `n` of a context. -/
def regKey (s : State) (c n : Nat) : Nat := Config.fileRegs * coreOf c + (s.ctx c).wbase + n
def regOf (s : State) (c n : Nat) : Word := mget 0 s.regs (s.regKey c n)
def setRegOf (s : State) (c n : Nat) (v : Word) : State := { s with regs := mput 0 s.regs (s.regKey c n) v }
/-- Register `n` of the context at issue. -/
def wn (s : State) (n : Nat) : Word := s.regOf s.cur.ctx n
def setWn (s : State) (n : Nat) (v : Word) : State := s.setRegOf s.cur.ctx n v
def w (s : State) (r : WReg) : Word := s.wn r.toNat
def setW (s : State) (r : WReg) (v : Word) : State := s.setWn r.toNat v

/-- The eight registers of a group of a context, as one number: w(8n) lowest (R19). -/
def groupOf (s : State) (c n : Nat) : Block :=
  s.regOf c (8 * n + 7) ++ s.regOf c (8 * n + 6) ++ s.regOf c (8 * n + 5) ++ s.regOf c (8 * n + 4)
    ++ s.regOf c (8 * n + 3) ++ s.regOf c (8 * n + 2) ++ s.regOf c (8 * n + 1) ++ s.regOf c (8 * n)
/-- Writes words to consecutive registers of a context. -/
def setRegsOf (s : State) (c n : Nat) : List Word → State
  | [] => s
  | v :: vs => setRegsOf (s.setRegOf c n v) c (n + 1) vs
/-- The eight words of a group's value. -/
def groupWords (v : Block) : List Word := (List.range 8).map fun i => v.extractLsb' (64 * i) 64
def setGroupOf (s : State) (c n : Nat) (v : Block) : State := s.setRegsOf c (8 * n) (groupWords v)
def v (s : State) (r : VReg) : Block := s.groupOf s.cur.ctx r.toNat
def setV (s : State) (r : VReg) (x : Block) : State := s.setGroupOf s.cur.ctx r.toNat x

/-- Masks; m0 reads as all ones and a write to it is discarded (R19). -/
def maskOf (s : State) (c : Nat) (m : MReg) : Word :=
  if m = 0 then BitVec.allOnes 64 else vat 0 (s.ctx c).m m.toNat
def setMaskOf (s : State) (c : Nat) (m : MReg) (v : Word) : State :=
  if m = 0 then s else s.modCtx c fun x => { x with m := vset x.m m.toNat v }
def mask (s : State) (m : MReg) : Word := s.maskOf s.cur.ctx m
def setMask (s : State) (m : MReg) (v : Word) : State := s.setMaskOf s.cur.ctx m v

def capOf (s : State) (c : Nat) (k : KReg) : Cap := vat Cap.null (s.ctx c).k k.toNat
def setCapOf (s : State) (c : Nat) (k : KReg) (v : Cap) : State := s.modCtx c fun x => { x with k := vset x.k k.toNat v }
def k (s : State) (r : KReg) : Cap := s.capOf s.cur.ctx r
def setK (s : State) (r : KReg) (v : Cap) : State := s.setCapOf s.cur.ctx r v

/-! Memory by home location (R294). -/

/-- A byte as memory holds it. -/
def rawByte (s : State) (loc : Nat) : Byte := mget 0 s.mem loc
/-- A byte as a load sees it: a slot whose capability bit is set reads as zero (R164). -/
def readByte (s : State) (loc : Nat) : Byte := if mget Cap.null s.slots (loc / 16) = Cap.null then s.rawByte loc else 0
def writeByte (s : State) (loc : Nat) (b : Byte) : State := { s with mem := mput 0 s.mem loc b }
/-- `n` bytes from a location. -/
def readBytes (s : State) (loc n : Nat) : List Byte := (List.range n).map fun i => s.readByte (loc + i)
/-- `n` bytes as a little-endian number (R58). -/
def readLe (s : State) (loc n : Nat) : Nat := bytesLe (s.readBytes loc n)
def writeBytes (s : State) (loc : Nat) : List Byte → State
  | [] => s
  | b :: bs => writeBytes (s.writeByte loc b) (loc + 1) bs
/-- Writes the low `n` bytes of a number, little-endian (R58). -/
def writeLe (s : State) (loc n v : Nat) : State := s.writeBytes loc ((List.range n).map (byteOf v))
def tag (s : State) (loc : Nat) : BitVec 16 := mget 0 s.tags (loc / 64)
def setTag (s : State) (loc : Nat) (t : BitVec 16) : State := { s with tags := mput 0 s.tags (loc / 64) t }
/-- The stashed capability of a slot; null when its capability bit is clear (R164). -/
def slot (s : State) (loc : Nat) : Cap := mget Cap.null s.slots (loc / 16)
def setSlot (s : State) (loc : Nat) (v : Cap) : State := { s with slots := mput Cap.null s.slots (loc / 16) v }
/-- Whether a location lies in HBM whose contents were lost with the power (R422, R429). -/
def lost (s : State) (loc : Nat) : Bool := s.stale && decide (2 ^ 64 ≤ loc) && decide (loc < 2 ^ 64 + Config.hbmTop)
def poisoned (s : State) (loc : Nat) : Bool := xor (s.lost loc) (mget false s.poison (loc / 64))
def setPoison (s : State) (loc : Nat) (b : Bool) : State := { s with poison := mput false s.poison (loc / 64) (xor (s.lost loc) b) }
/-- Whether one of the four slots of the block at a location holds a stashed capability. -/
def blockStashed (s : State) (loc : Nat) : Bool :=
  (List.range 4).any fun i => mget Cap.null s.slots (4 * (loc / 64) + i) ≠ Cap.null

end State

/-! Locations (R43, R44, R294). -/

/-- The mesh-SRAM address of a byte: column, row, unit and offset (R44). -/
def sramLoc (x y unit off : Nat) : Nat := 2 ^ 40 + x * 2 ^ 35 + y * 2 ^ 30 + unit * 2 ^ 27 + off
/-- A byte of core memory, and of barn memory. -/
def coreLoc (i off : Nat) : Nat := sramLoc (barnX (barnOfCore i)) (barnY (barnOfCore i)) (i % 4) off
def barnLoc (b off : Nat) : Nat := sramLoc (barnX b) (barnY b) 4 off
/-- A byte of HBM or of the pool. -/
def physLoc (pa : Nat) : Nat := 2 ^ 64 + pa
/-- A byte of a version of a region: the key of the region, the number of the version and the offset (R186). -/
def versionLoc (key num off : Nat) : Nat := 2 ^ 100 + (key * 2 ^ 32 + num % 2 ^ 32) * 2 ^ 32 + off
/-- Parts of a location in SRAM. -/
def isSram (loc : Nat) : Bool := 2 ^ 40 ≤ loc && loc < 2 ^ 41
def locBarn (loc : Nat) : Nat := barnAt (loc / 2 ^ 35 % 32) (loc / 2 ^ 30 % 32)
def locUnit (loc : Nat) : Nat := loc / 2 ^ 27 % 8
def locOff (loc : Nat) : Nat := loc % 2 ^ 27
def locCore (loc : Nat) : Nat := 4 * locBarn loc + locUnit loc
/-- Whether a location lies in core memory. -/
def isCoreMem (loc : Nat) : Bool := isSram loc && locUnit loc < 4

/-- What a device address names for a core (R43 to R46). -/
inductive Place where
  | sram (loc : Nat)
  | xlat (va : Nat)
  | window (member off : Nat)
  | hole
  deriving DecidableEq, Repr

/-- The device address map (R43, R44). -/
def place (i addr : Nat) : Place :=
  if addr < Config.coreBytes then .sram (coreLoc i addr)
  else if 0x1000000 ≤ addr && addr < 0x1200000 then .sram (barnLoc (barnOfCore i) (addr - 0x1000000))
  else if 0x1200000 ≤ addr && addr < 0x1300000 then
    .sram (coreLoc (4 * barnOfCore i + (addr - 0x1200000) / 0x40000) (0x40000 + (addr - 0x1200000) % 0x40000))
  else if isSram addr then
    if (locUnit addr < 4 && locOff addr < Config.coreBytes) || (locUnit addr == 4 && locOff addr < Config.barnBytes)
    then .sram addr else .hole
  else if 2 ^ 46 ≤ addr && addr < 2 ^ 47 then .xlat (addr - 2 ^ 46)
  else if 2 ^ 47 ≤ addr && addr < 2 ^ 48 then .window ((addr - 2 ^ 47) / 2 ^ 40) (addr % 2 ^ 40)
  else .hole

/-- Whether an address lies in the first three rows of R43. -/
def lowRow (addr : Nat) : Bool := addr < 0x1300000

/-- The mesh-SRAM form of an address in the first three rows of R43, any other address unchanged (R44, R180). -/
def meshForm (i addr : Nat) : Nat :=
  if lowRow addr then (match place i addr with | .sram loc => loc | _ => addr) else addr

/-- The row of R43 in which an address lies, none for a hole (R32). -/
def mapRow (addr : Nat) : Option Nat :=
  if addr < Config.coreBytes then some 0
  else if 0x1000000 ≤ addr && addr < 0x1200000 then some 1
  else if 0x1200000 ≤ addr && addr < 0x1300000 then some 2
  else if isSram addr then some 3
  else if 2 ^ 46 ≤ addr && addr < 2 ^ 47 then some 4
  else if 2 ^ 47 ≤ addr && addr < 2 ^ 48 then some 5
  else none

/-! Capabilities (R26 to R32). -/

namespace Cap

def isNull (k : Cap) : Bool := k.kind == 0
def read (k : Cap) : Bool := k.rights.getLsbD 0
def write (k : Cap) : Bool := k.rights.getLsbD 1
def execute (k : Cap) : Bool := k.rights.getLsbD 2
def atomic (k : Cap) : Bool := k.rights.getLsbD 3
def send (k : Cap) : Bool := k.rights.getLsbD 4
def fractionable (k : Cap) : Bool := k.rights.getLsbD 5
def logged (k : Cap) : Bool := k.rights.getLsbD 6
def versioned (k : Cap) : Bool := k.rights.getLsbD 7
def full (k : Cap) : Bool := k.count.toNat == 32768
/-- A whole owned capability without the versioned right. -/
def plainOwned (k : Cap) : Bool := k.kind == 1 && k.full && !k.versioned
/-- The 128 bits of R26. -/
def bits (k : Cap) : BitVec 128 := k.world ++ k.gen ++ k.count ++ k.kind ++ k.rights ++ k.length ++ k.base
/-- The capability of 128 bits and a sender tag. -/
def ofBits (b : BitVec 128) (t : BitVec 16) : Cap :=
  { world := b.extractLsb' 120 8, gen := b.extractLsb' 108 12, count := b.extractLsb' 92 16, kind := b.extractLsb' 88 4,
    rights := b.extractLsb' 80 8, length := b.extractLsb' 48 32, base := b.extractLsb' 0 48, stag := t }

end Cap

/-- The key of a region (R186). -/
def regionKey (k : Cap) : Nat := k.world.toNat * 2 ^ 48 + k.base.toNat

/-! Faults. -/

namespace FaultCode

/-- The codes of R270. -/
def code : FaultCode → BitVec 8
  | .zeroWord => 0x01 | .illegal => 0x02 | .priv => 0x03 | .repro => 0x04 | .window => 0x05 | .badTarget => 0x06
  | .capNull => 0x07 | .capKind => 0x08 | .capRights => 0x09 | .capBounds => 0x0A | .align => 0x0B
  | .xltFault => 0x0C | .poison => 0x0D | .fmtReserved => 0x0E | .fmtIll => 0x0F | .fmtClash => 0x10
  | .hitchAbsent => 0x11 | .hitchGone => 0x12 | .vrtDup => 0x13 | .ringFull => 0x14 | .recallOverflow => 0x15

end FaultCode

/-- An immediate fault with neither address nor qualifier. -/
def flt (c : FaultCode) : FaultInfo := { code := c, detail := 0, addr := 0, late := false, preDecode := false }
/-- An immediate fault with a qualifier and an address or an offending value (R277, R278). -/
def fltAt (c : FaultCode) (detail addr : Nat) : FaultInfo :=
  { code := c, detail := detail, addr := addr, late := false, preDecode := false }
/-- An immediate fault whose record gives an offending value (R277). -/
def fltVal (c : FaultCode) (detail v : Nat) : FaultInfo := { fltAt c detail v with value := true }
/-- The same fault found late (R271). -/
def FaultInfo.lateOf (f : FaultInfo) : FaultInfo := { f with late := true }

/-- A requirement. -/
def need (b : Bool) (f : FaultInfo) : Except FaultInfo Unit := if b then .ok () else .error f

/-- The latch that holds the instruction at issue (R11). -/
def heldLatch (s : State) (replay noWord : Bool) : Latch :=
  { word := if noWord then 0 else s.cur.word, codept := s.cur.codept, paired := s.cur.paired, replay := replay,
    noWord := noWord, entry := none, ops := s.cur.ops }

/-- The record of a fault of the context at issue (R277). -/
def recordOf (s : State) (f : FaultInfo) : Record :=
  { addr := BitVec.ofNat 64 f.addr, progress := s.me.progress, codept := BitVec.ofNat 64 s.cur.codept, insn := s.cur.word,
    detail := BitVec.ofNat 8 f.detail, code := f.code.code, paired := s.cur.paired, inEvent := s.me.inEvent, entry := false,
    late := f.late, value := f.value }

/-- The loss of a launch's results (R5). -/
def loseResults (s : State) (l : Nat) : State :=
  { s with launches := s.launches.map fun p => if p.1 = l then (p.1, { p.2 with results := false }) else p }

/-- A context that reads poisoned data loses its launch's results (R5). -/
def losePoison (s : State) (f : FaultInfo) : State := if f.code == .poison then loseResults s s.me.launch else s

/-- TAKING A FAULT (R11, R271, R272, R276, R277): the context at issue enters Parked with the instruction in its latch and its
program counter at it; its record waits to be posted on its core's fault ring. -/
def raise (s : State) (f : FaultInfo) : State :=
  ((losePoison s f).modMe fun x => { x with
    state := .parked, wait := .none, acc := none, pc := s.cur.codept, latch := some (heldLatch s false f.preDecode),
    fault := some f, record := some (recordOf s f), since := s.stamp }).push (.faultRecordPost s.cur.ctx)
  |> fun t => { t with stamp := s.stamp + 1 }

/-- A fault on entry to the vector of event `e` (R277, R279, R284): no instruction is latched, and CODEPT is the point that
EVT_RET would have held. -/
def raiseEntry (s : State) (e ret : Nat) (f : FaultInfo) : State :=
  ((losePoison s f).modMe fun x => { x with
    state := .parked, wait := .none, pc := ret, fault := some f, since := s.stamp,
    latch := some { word := 0, codept := ret, paired := false, replay := false, noWord := false, entry := some e, ops := [] },
    record := some { recordOf s f with codept := BitVec.ofNat 64 ret, insn := 0, paired := false, entry := true } }).push
      (.faultRecordPost s.cur.ctx)
  |> fun t => { t with stamp := s.stamp + 1 }

/-! Code points (R91, R146). -/

/-- The slot after a code point in sequential order. -/
def nextPoint (p : Nat) : Nat := if p % 64 < 4 then p + 1 else (p / 64 + 1) * 64
/-- The point `n` slots further on (R101). -/
def skipPoint : Nat → Nat → Nat
  | 0, p => p
  | n + 1, p => skipPoint n (nextPoint p)

/-- The context at issue has finished its instruction and goes on at a code point. -/
def finishAt (s : State) (p : Nat) : State :=
  s.modMe fun x => { x with state := .ready, wait := .none, acc := none, latch := none, pc := p }
/-- The same at the next slot. -/
def finish (s : State) : State := finishAt s (nextPoint s.cur.codept)

/-- RETURNING FROM AN EVENT (R263): the program counter becomes EVT_RET and IN_EVENT becomes 0. -/
def eventReturn (s : State) : State := finishAt (s.modMe fun x => { x with inEvent := false }) s.me.evtRet.toNat

/-- The context at issue waits (R10); the order in which it began to wait is kept (R21). -/
def waitFor (s : State) (w : Wait) (held : Option Latch) : State :=
  if s.me.state = .waiting then s.modMe fun x => { x with wait := w, latch := held }
  else
    { s.modMe fun x => { x with state := .waiting, wait := w, latch := held, since := s.stamp, pc := s.cur.codept } with
      stamp := s.stamp + 1 }
/-- A wait for a condition: the instruction stands in the latch and is tried again (R10, R11, R286). -/
def waitCond (s : State) : State := waitFor s .cond (some (heldLatch s true false))

/-- The turn is spent without issuing (R190). -/
def spendTurn (s : State) : State := { s with cur := { s.cur with spent := true } }

/-! The frame of an instruction (R108). -/

/-- What an instruction needs before its operands are checked: whether it is refused to its context as ILLEGAL, the privilege
that it needs, whether it is refused in reproducible mode, and one more than the highest register it names. -/
structure Req where
  illegal : Bool := false
  /-- 0 none, 1 SUP or SYS, 2 SYS (R118). -/
  priv : Nat := 0
  /-- Whether PRIV is raised whatever the privilege (R255, R33). -/
  deny : Bool := false
  repro : Bool := false
  top : Nat := 0

/-- One more than the highest of some registers. -/
def topOf : List WReg → Nat
  | [] => 0
  | r :: rs => max (r.toNat + 1) (topOf rs)
/-- One more than the highest register of a group. -/
def topV (v : VReg) : Nat := 8 * v.toNat + 8

/-- The checks of R108 from ILLEGAL to WINDOW (R8, R42, R130). -/
def Req.check (q : Req) (x : Ctx) : Option FaultInfo :=
  if q.illegal then some (flt .illegal)
  else if q.deny || (q.priv == 1 && !x.sup && !x.sys) || (q.priv == 2 && !x.sys) then some (flt .priv)
  else if q.repro && x.repro then some (flt .repro)
  else if 8 * x.wsize < q.top then some (flt .window)
  else none

/-- The outcomes of a meaning. -/
abbrev Out := Host.Outcome State Fault Refusal

/-- The result of an instruction's body: a fault parks the context, with the state as it was at issue (R30). -/
def settle (s : State) : Except FaultInfo State → Out
  | .ok t => .next t
  | .error f => .next (raise s f)

/-- An instruction: its checks in the order of R108, and then its body. -/
def issue (q : Req) (body : State → Except FaultInfo State) (s : State) : Out :=
  if s.me.state = .absent then .fault .noContext
  else
    match q.check s.me with
    | some f => .next (raise s f)
    | none => settle s (body s)

/-- An instruction that computes one register from the state and goes on (R131). -/
def compute (d : WReg) (regs : List WReg) (f : State → Word) (s : State) : Out :=
  issue { top := topOf (d :: regs) } (fun s => .ok (finish (s.setW d (f s)))) s

/-! Small helpers of events. -/

/-- An event acts on behalf of a context, on the instruction that its latch or its access holds. -/
def actFor (s : State) (c : Nat) (l : Latch) : State :=
  { s with cur := { ctx := c, codept := l.codept, word := l.word, paired := l.paired, latched := true, ops := l.ops, pos := 0, spent := false } }

/-- The lowest pending event (R284). -/
def lowestEvent (x : Ctx) : Option Nat := [1, 2, 3, 4, 5].find? fun e => x.events.getLsbD e
/-- The event that may be delivered between two instructions of a context, or in an interruptible wait (R284). -/
def Ctx.deliverable (x : Ctx) : Option Nat := if x.evtEn && !x.inEvent then lowestEvent x else none

/-- A context with event `e` pending (R283). PREEMPT and HITCH_NOTICE never are in reproducible mode. A sleep ends at once, whatever EVT_EN
holds (R155). DESIGN CHOICE (log 28): an occurrence that merges with one that is pending already ends a sleep too; safe or unsafe as that entry
says. -/
def Ctx.pend (x : Ctx) (e : Nat) : Ctx :=
  if x.repro && (e == 1 || e == 4) then x
  else
    let y := { x with events := x.events ||| (1#6 <<< e) }
    match x.state, x.wait with
    | .waiting, .sleep _ => { y with state := .ready, wait := .none, pc := nextPoint y.pc }
    | .transfer, .sleep _ => { y with wait := .none, pc := nextPoint y.pc }
    | _, _ => y

/-- Event `e` becomes pending for a resident context (R283); one whose image is in transfer is Ready once it is in place (R155). -/
def pend (s : State) (c e : Nat) : State :=
  let x := s.ctx c
  let t := s.setCtx c (x.pend e)
  if x.state == .transfer && x.wait ≠ (x.pend e).wait then
    t.modCore (coreOf c) fun k => { k with moving := k.moving.map fun m => if m.ctx = c then { m with state := .ready } else m }
  else t

/-- A launch by its number. -/
def State.launch? (s : State) (l : Nat) : Option Launch := (s.launches.find? (·.1 == l)).map (·.2)
def State.modLaunch (s : State) (l : Nat) (f : Launch → Launch) : State :=
  { s with launches := s.launches.map fun p => if p.1 = l then (p.1, f p.2) else p }
/-- TIMER_CMP is compared (R37): once CYCLE is at or above it, it is cleared and TIMER becomes pending. -/
def fireTimer (s : State) (c : Nat) : State :=
  let x := s.ctx c
  if x.state ≠ .absent && x.timerCmp ≠ 0 && decide (x.timerCmp.toNat ≤ s.cycle) then pend (s.modCtx c fun y => { y with timerCmp := 0 }) c 5
  else s

/-- Whether a context is Halted or Ended, or a supervisor, whose end does not count (R293). -/
def Ctx.over (x : Ctx) : Bool := x.sup || x.state == .halted || x.state == .ended
/-- Whether every launch context of a launch, resident or evicted, is Halted or Ended (R293). -/
def State.launchOver (s : State) (l : Nat) : Bool :=
  (s.ctxs.all fun p => p.2.launch ≠ l || p.2.state == .absent || p.2.over) && s.images.all fun p => p.2.launch ≠ l || p.2.over
/-- The resident contexts of a launch. -/
def State.launchCtxs (s : State) (l : Nat) : List Nat :=
  (s.ctxs.filter fun p => p.2.launch == l && p.2.state ≠ .absent).map (·.1)

end Sys2Proof.Machine
end

