-- ==== Sys2Proof/Machine/Operands.lean ====
section
/-! DEFINITION. Operand forms: memory operands (R96), second operands of the vector and compare-skip forms (R97, R143), the
checks of an access through a capability (R30, R31, R40, R159, R160), and hitch members (R249). -/

namespace Sys2Proof.Machine

/-- The exact offset of a memory operand (R96). -/
def offsetOf (s : State) (m : MemOp) : Int :=
  m.disp.toInt + (if m.xen then (s.w m.x).toInt * 2 ^ m.sh.toNat else 0)

/-- One more than the highest register that a memory operand names. -/
def topM (m : MemOp) : Nat := if m.xen then m.x.toNat + 1 else 0

/-- One more than the highest register that a second vector operand names. -/
def topB : BOp → Nat
  | .group v => topV v
  | .reg r => r.toNat + 1
  | .imm _ => 0

/-- The second operand of a compare-skip, as a pattern of the type (R143). -/
def skipOperand (s : State) (t : Ty) : SkipOp → Nat
  | .reg b => (s.w b).toNat % 2 ^ t.width
  | .imm i => if t.isFp then convert t .f32 .rne false (i.toNat % 2 ^ 32) else wrap t.width i.toInt

/-- One more than the highest register that a second operand of a compare-skip names. -/
def topQ : SkipOp → Nat
  | .reg b => b.toNat + 1
  | .imm _ => 0

/-- Lane `i` of the second operand of a vector form (R97, R192). -/
def bLane (s : State) (t : Ty) (rm : Rm) (b : BOp) (i : Nat) : Nat :=
  match b with
  | .group v => lane t.width (s.v v) i
  | .reg r => (s.w r).toNat % 2 ^ t.width
  | .imm k => if t.isFp then convert t .f32 rm false (k.toNat % 2 ^ 32) else wrap t.width k.toInt

/-! Accesses. -/

/-- A class of R159: the kinds that it accepts, the rights that it needs, and whether a timed actor needs the logged right
for it (R163). -/
structure Class where
  kinds : List Nat
  rights : BitVec 8
  logged : Bool

def Class.load : Class := { kinds := [1, 2, 3, 5, 6, 7], rights := 0x01, logged := false }
def Class.store : Class := { kinds := [1, 6, 7], rights := 0x02, logged := true }
def Class.flagStore : Class := { kinds := [1, 6], rights := 0x0A, logged := true }
def Class.replicate : Class := { kinds := [6], rights := 0x0A, logged := true }
def Class.atomic : Class := { kinds := [1, 3, 6], rights := 0x08, logged := true }
def Class.slot : Class := { kinds := [1], rights := 0x03, logged := true }
/-- The class of lscale: the store row with read (R210). -/
def Class.rescale : Class := { kinds := [1, 6, 7], rights := 0x03, logged := true }

/-- The hitch of the launch of a context. -/
def hitchOf (s : State) (launch : Nat) : Option Hitch := s.hitches.find? fun h => h.launch == launch && h.stage ≠ .prepared

/-- The port that a ring capability names: that of a receive end lies 64 bytes below its base (R226); a hitch form names an offset
in mesh SRAM (R396). -/
def portOf (k : Cap) : Nat :=
  let b := if k.full then k.base.toNat - 64 else k.base.toNat
  if b < 2 ^ 47 then b else 2 ^ 40 + b % 2 ^ 40

/-- The member of another package whose ring a send end names (R396). -/
def farEnd (s : State) (k : Cap) : Option Nat :=
  if k.base.toNat < 2 ^ 47 then none
  else
    let j := (k.base.toNat - 2 ^ 47) / 2 ^ 40
    match hitchOf s s.me.launch with
    | some h => if h.me == j then none else some j
    | none => some j

/-- The ring at a port of a launch that is pre-empted with its paddock (R231, R291). -/
def savedRing (s : State) (port : Nat) : Option Ring :=
  (s.launches.find? fun l => l.2.stage == .saved && l.2.savedRings.any (·.1 == port)).map fun l => mget Ring.reset l.2.savedRings port
/-- The ring that a send end names, be it away with its launch. -/
def State.heldRing (s : State) (port : Nat) : Ring := if (s.ring port).live then s.ring port else (savedRing s port).getD (s.ring port)

/-- Whether the generation of a capability is the current one of its object (R31); a window's is checked with its member. -/
def genOk (s : State) (k : Cap) : Bool :=
  if k.kind == 4 then
    let r := s.heldRing (portOf k)
    (farEnd s k).isSome || (r.live && r.gen == k.gen)
  else if k.kind == 7 then
    let r := s.region (regionKey k)
    r.live && (r.versions.any (fun v => v.num % 4096 == k.gen.toNat) || (r.priv.map (· % 4096)) == some k.gen.toNat)
  else true

/-- Steps 1 to 3 of R30 with R31, for the context at issue: CAP_NULL, CAP_KIND, CAP_RIGHTS. An owned capability that carries
the versioned right, and a capability whose base is in hitch form, are not for accesses (R159, R396). -/
def capSteps (s : State) (k : Cap) (c : Class) : Except FaultInfo Unit := do
  need (!k.isNull) (flt .capNull)
  need (c.kinds.contains k.kind.toNat && !(k.kind == 1 && k.versioned)) (flt .capKind)
  need (k.kind == 6 || k.base.toNat < 2 ^ 47) (flt .capKind)
  need (genOk s k) (flt .capKind)
  let rights := if c.logged && s.me.actor then c.rights ||| 0x40 else c.rights
  need (k.world == s.me.world && (k.rights &&& rights) == rights) (flt .capRights)

/-- Whether a location is outside a world's part of core memory (R40). World 0 has offsets below 16 KiB, and all of core
memory while the barn is assigned to no tenant; a tenant has the rest. -/
def outsidePart (s : State) (world : BitVec 8) (loc : Nat) : Bool :=
  isCoreMem loc &&
    (if world == 0 then (s.barn (locBarn loc)).world ≠ 0 && Config.worldZeroPart ≤ locOff loc
     else locOff loc < Config.worldZeroPart)

/-- Offsets within a range of addresses at which the answer of R40 and R47 can change, ascending, the start first. -/
def cutPoints (addr n : Nat) : List Nat :=
  let cuts := if isSram addr then ([Config.worldZeroPart, Config.coreBytes, Config.barnBytes].filter (locOff addr < ·)).map (· - locOff addr)
    else ([Config.worldZeroPart, Config.coreBytes, 0x1200000, 0x1300000, 2 ^ 47].filter (addr < ·)).map (· - addr)
  (0 :: cuts).filter (· < n)

/-- The first byte of a range that lies in a hole (DETAIL 1) or outside a world's part (DETAIL 14). -/
def firstBad (s : State) (core : Nat) (world : BitVec 8) (addr n : Nat) : Option FaultInfo :=
  (cutPoints addr n).findSome? fun i =>
    match place core (addr + i) with
    | .hole => some (fltAt .capBounds 1 (addr + i))
    | .sram loc => if outsidePart s world loc then some (fltAt .capBounds 14 (addr + i)) else none
    | .xlat _ | .window .. => none

/-- Step 4 of R30 for `n` bytes at an offset: the length, the holes and the world's part (R40, R47, R96, R249). The result is the device
address. -/
def boundsStep (s : State) (core : Nat) (world : BitVec 8) (k : Cap) (off : Int) (n : Nat) : Except FaultInfo Nat := do
  let addr48 : Nat := wrap 48 (k.base.toNat + off)
  need (0 ≤ off) (fltAt .capBounds 0 addr48)
  let o := off.toNat
  let lo := if k.kind == 6 then o % 2 ^ 40 else o
  need (k.kind ≠ 6 || o < 2 ^ 47) (fltAt .capBounds 0 addr48)
  need (lo + n ≤ k.length.toNat) (fltAt .capBounds 0 (wrap 48 (k.base.toNat + o - lo + max lo k.length.toNat : Nat)))
  let addr := k.base.toNat + o
  match firstBad s core world addr n with
  | some f => .error f
  | none => .ok addr

/-- Step 5 of R30: the offset is a multiple of the width (R160). -/
def alignStep (k : Cap) (off : Int) (align : Nat) : Except FaultInfo Unit :=
  need (off % align = 0) (fltAt .align 0 (wrap 48 (k.base.toNat + off)))

/-- The attachment and the state of a member (R405). -/
def Hitch.attachOf (h : Hitch) (j : Nat) : Attach := mget .detached h.attach j
def Hitch.memberOf (h : Hitch) (j : Nat) : MemberState := mget .resident h.member j

/-- The member checks of R249: an access to a member that has left, or through a stale window, raises HITCH_GONE as a late fault
(R31, R407); one from which the group is not attached, or that the hitch does not have, raises HITCH_ABSENT. -/
def memberStep (s : State) (k : Cap) (addr : Nat) : Except FaultInfo Unit :=
  match hitchOf s s.me.launch with
  | none => .error (fltAt .hitchGone 0 addr)
  | some h =>
    let j := (addr - 2 ^ 47) / 2 ^ 40
    if h.gen ≠ k.gen || h.memberOf j == .gone then .error { fltAt .hitchGone 0 addr with late := true }
    else if h.count ≤ j || !(h.attachOf j == .attached || (h.attachOf j == .detaching && s.me.acc.isSome)) then .error (fltAt .hitchAbsent 0 addr)
    else .ok ()

/-- The checks of R30 for `n` bytes at an offset through a capability, with the member checks of a window in place of
translation. The result is the device address. -/
def accessSteps (s : State) (k : Cap) (c : Class) (off : Int) (n align : Nat) : Except FaultInfo Nat := do
  capSteps s k c
  let addr ← boundsStep s s.myCore s.me.world k off n
  alignStep k off align
  if k.kind == 6 then memberStep s k addr
  .ok addr

/-- The home of a byte of a hitched window's member that sits on this package (R403): the slice is spread over the barns of the
paddock in units of 4,096 bytes. -/
def sliceLoc (l : Launch) (off : Nat) : Nat :=
  let nb := l.pw * l.ph
  let u := off / 4096
  let b := u % nb
  barnLoc (barnAt (l.px + b % l.pw) (l.py + b / l.pw)) (0x100000 + u / nb * 4096 + off % 4096)

/-- Where a device address leads a context: a location of this package, a translated address, or a member of another package. -/
inductive Route where
  | here (loc : Nat)
  | xlat (va : Nat)
  | member (j off : Nat)
  deriving DecidableEq, Repr

/-- The route of a device address for a context, through a capability (R43, R186, R249, R403). -/
def routeOf (s : State) (c : Nat) (k : Cap) (addr : Nat) : Route :=
  match place (coreOf c) addr with
  | .xlat va => .xlat va
  | .sram loc => .here (if k.kind == 7 then versionLoc (regionKey k) (versionNum s k) (addr - k.base.toNat) else loc)
  | .window j off =>
    match hitchOf s (s.ctx c).launch, s.launch? (s.ctx c).launch with
    | some h, some l => if h.me == j then .here (sliceLoc l off) else .member j off
    | _, _ => .member j off
  | .hole => .here addr
where
  /-- The number of the version that a handle names (R31, R186). DESIGN CHOICE (log 30): a handle holds the low 12 bits of the number only, so of held
  versions that are 4,096 apart the handle with the right to write names the private one, and any other the first published one; unsafe. -/
  versionNum (s : State) (k : Cap) : Nat :=
    let r := s.region (regionKey k)
    let named (n : Nat) : Bool := n % 4096 == k.gen.toNat
    let priv := r.priv.filter named
    let pub := (r.versions.find? fun v => named v.num).map (·.num)
    ((if k.write then priv <|> pub else pub <|> priv)).getD 0

/-- Whether a context performs an access to a location in its own pipeline: its own core's memory (R46, R161). -/
def ownCore (c loc : Nat) : Bool := isCoreMem loc && locCore loc == coreOf c

end Sys2Proof.Machine
end

