-- ==== Sys2Proof/Machine/Translate.lean ====
section
/-! DEFINITION. Translation: the two levels of cached leaves (R342), table walks (R339 to R341), and the locations that a range of
device addresses names (R294). -/

namespace Sys2Proof.Machine

/-! Translation caches. -/

/-- Whether a cached leaf covers an address (R342). -/
def leafHits (asid va : Nat) (l : Leaf) : Bool := l.asid == asid && l.va ≤ va && va < l.va + l.size

/-- The station of a barn's yard for a virtual address (R342). -/
def stationOf (barn va : Nat) : Nat := 8 * yardOf barn + va / 2 ^ 16 % 8

/-- The leaf that the two levels hold for a request; a write that hits a leaf with W = 0 is a miss (R341). -/
def cachedLeaf (s : State) (barn asid va : Nat) (write : Bool) : Option Leaf :=
  match (s.station (stationOf barn va)).cache.find? (leafHits asid va) <|>
      (mget [] s.yards (yardOf barn)).find? (leafHits asid va) with
  | some l => if write && !l.w then none else some l
  | none => none

/-! Readable blocks. -/

/-- Whether a location lies in a withdrawn extent of the pool (R421). -/
def withdrawn (s : State) (loc : Nat) : Bool := decide (2 ^ 64 ≤ loc) && s.extents.any fun e => e.1 ≤ loc && loc < e.1 + e.2.1

/-- Whether a read of the block of a location raises POISON (R333, R336, R338, R421). -/
def unreadable (s : State) (loc : Nat) : Bool := s.poisoned loc || withdrawn s loc

/-! Seals (R335, R336). -/

/-- The seal of a world's keys. -/
def sealOf (s : State) (world : BitVec 8) : Seal := { world := world, epoch := mget 0 s.epochs world.toNat }

/-- Whether a block of HBM or of the pool is sealed under other keys than those of a world, or under keys that are lost (R336, R422). A block that
nothing has written has no seal. -/
def badSeal (s : State) (world : BitVec 8) (loc : Nat) : Bool :=
  decide (2 ^ 64 ≤ loc) && decide (loc < 2 ^ 90)
    && (match mget none s.seals (loc / 64) with | some x => !s.keys || x ≠ sealOf s world | none => false)

/-! Table walks (R339 to R341). -/

/-- Whether a physical address lies in HBM, or in HBM or the pool (R334, R338). -/
def inHbm (pa : Nat) : Bool := pa < Config.hbmTop
def inMemory (pa : Nat) : Bool := inHbm pa || Config.cxlBase ≤ pa

/-- Reads an entry of a table, which is sealed under the keys of world 0 (R336): the cause and the level, or the entry (R341). -/
def readEntry (s : State) (pa level : Nat) : Except (Nat × Nat) Word :=
  if unreadable s (physLoc pa) || badSeal s 0 (physLoc pa) then .error (6, level) else .ok (BitVec.ofNat 64 (s.readLe (physLoc pa) 8))

/-- A check of a walk. -/
def check (b : Bool) (cause level : Nat) : Except (Nat × Nat) Unit := if b then .ok () else .error (cause, level)

def entryValid (e : Word) : Bool := e.getLsbD 0
def entryLeaf (e : Word) : Bool := e.getLsbD 1
def entryDemand (e : Word) : Bool := e.getLsbD 2

/-- The size of the page that a leaf at a level maps (R339). -/
def pageSize (level : Nat) : Nat := if level = 1 then 2 ^ 30 else if level = 2 then 2 ^ 21 else 2 ^ 16

/-- A leaf entry (R340, R341). -/
def leafEntry (e : Word) (level asid va : Nat) (world : BitVec 8) (write : Bool) : Except (Nat × Nat) Leaf := do
  check (entryValid e) 1 level
  check (!write || e.getLsbD 3) 2 level
  let pa := (e.extractLsb' 16 44).toNat * 2 ^ 16
  let size := pageSize level
  check (e.extractLsb' 60 4 == 0 && !e.getLsbD 7 && e.extractLsb' 4 2 == 0 && decide (pa % size = 0) && inMemory pa
    && !(e.getLsbD 6 && inHbm pa)) 3 level
  check (e.extractLsb' 8 8 == world) 4 level
  .ok { asid := asid, va := va / size * size, size := size, pa := pa, world := world, w := e.getLsbD 3, shared := e.getLsbD 6 }

/-- A pointer entry (R340, R341): the address of the next table. -/
def pointerEntry (e : Word) (level : Nat) : Except (Nat × Nat) Nat := do
  let next := (e.extractLsb' 8 52).toNat * 2 ^ 8
  check (entryValid e && level < 3 && e.extractLsb' 60 4 == 0 && e.extractLsb' 2 6 == 0 && inMemory next
    && decide (next % (if level = 1 then 4096 else 256) = 0)) 3 level
  .ok next

/-- The index of a level (R339). -/
def levelIndex (va level : Nat) : Nat :=
  if level = 1 then va / 2 ^ 30 % 65536 else if level = 2 then va / 2 ^ 21 % 512 else va / 2 ^ 16 % 32

/-- The levels from `level` on, at the table at `pa`. -/
def walkFrom (s : State) (asid va : Nat) (world : BitVec 8) (write : Bool) : Nat → Nat → Nat → Except (Nat × Nat) Leaf
  | 0, _, level => .error (3, level)
  | n + 1, pa, level => do
    let e ← readEntry s (pa + 8 * levelIndex va level) level
    check (entryValid e || entryDemand e) 0 level
    if entryLeaf e then leafEntry e level asid va world write
    else do
      let next ← pointerEntry e level
      walkFrom s asid va world write n next (level + 1)

/-- A walk (R339 to R341): the leaf, or the cause and the level that stop it. DESIGN CHOICE (log 30): R341 orders the checks of no entry; of a
root entry VALID is checked first (cause 5), then its form (3), then its world (4), and of a leaf VALID (0, 1), W (2), form (3), world (4); unsafe. -/
def walk (s : State) (root : Word) (asid va : Nat) (world : BitVec 8) (write : Bool) : Except (Nat × Nat) Leaf := do
  let base := (root.extractLsb' 19 41).toNat * 2 ^ 19
  check (inMemory base) 3 0
  let e ← readEntry s (base + 8 * asid) 0
  check (entryValid e) 5 0
  let l1 := (e.extractLsb' 19 41).toNat * 2 ^ 19
  check (e.extractLsb' 60 4 == 0 && e.extractLsb' 16 3 == 0 && e.extractLsb' 1 7 == 0 && inMemory l1) 3 0
  check (e.extractLsb' 8 8 == world) 4 0
  walkFrom s asid va world write 3 l1 1

/-- The location of the entry at which a walk stopped with cause 6, found by walking again down to its level. -/
def walkPoison (s : State) (root : Word) (asid va level : Nat) : Nat :=
  let word (pa : Nat) : Word := BitVec.ofNat 64 (s.readLe (physLoc pa) 8)
  let root1 := (root.extractLsb' 19 41).toNat * 2 ^ 19 + 8 * asid
  let l1 := ((word root1).extractLsb' 19 41).toNat * 2 ^ 19 + 8 * levelIndex va 1
  let next (pa level : Nat) : Nat := ((word pa).extractLsb' 8 52).toNat * 2 ^ 8 + 8 * levelIndex va level
  physLoc (if level = 0 then root1 else if level = 1 then l1 else if level = 2 then next l1 2 else next (next l1 2) 3)

/-! The locations of a range (R294). -/

/-- A range cut at the multiples of a unit: start and length of each piece. -/
def cutAt (unit lo n : Nat) : List (Nat × Nat) :=
  (List.range ((lo % unit + n + unit - 1) / unit)).map fun i =>
    let a := max lo (lo / unit * unit + unit * i)
    (a, min (lo + n) (lo / unit * unit + unit * (i + 1)) - a)

/-- The location of a translated byte: by a cached leaf, or by the tables as they stand. A byte that nothing maps has a name of its own. -/
def xlatLoc (s : State) (barn asid : Nat) (world : BitVec 8) (va : Nat) : Nat :=
  match cachedLeaf s barn asid va false with
  | some l => physLoc (l.pa + (va - l.va))
  | none =>
    match walk s (s.station (stationOf barn va)).root asid va world false with
    | .ok l => physLoc (l.pa + (va - l.va))
    | .error _ => 2 ^ 90 + asid * 2 ^ 50 + va

/-- The location by which accesses to a member are ordered. -/
def farLoc (j off : Nat) : Nat := 2 ^ 160 + j * 2 ^ 40 + off

/-- The locations of `n` bytes at a device address of a core, through a capability (R44, R46, R186, R294, R403). -/
def spanOf (s : State) (core asid : Nat) (world : BitVec 8) (k : Cap) (addr n : Nat) : List (Nat × Nat) :=
  if k.kind == 7 then [(versionLoc (regionKey k) (routeOf.versionNum s k) (addr - k.base.toNat), n)]
  else
    match place core addr with
    | .sram loc =>
      if 0x1200000 ≤ addr && addr < 0x1300000 then
        (cutAt 0x40000 addr n).map fun p => ((match place core p.1 with | .sram l => l | _ => p.1), p.2)
      else [(loc, n)]
    | .xlat va => (cutAt (2 ^ 16) va n).map fun p => (xlatLoc s (barnOfCore core) asid world p.1, p.2)
    | .window j off =>
      let l := (s.barn (barnOfCore core)).launch
      (match hitchOf s l, s.launch? l with
       | some h, some x => if h.me == j then (cutAt 4096 off n).map fun p => (sliceLoc x p.1, p.2) else [(farLoc j off, n)]
       | _, _ => [(farLoc j off, n)])
    | .hole => [(addr, n)]

/-- Whether two ranges of locations meet. -/
def meets (a n b m : Nat) : Bool := a < b + m && b < a + n

/-- Whether two lists of ranges meet. -/
def touches (a b : List (Nat × Nat)) : Bool := a.any fun x => b.any fun y => meets x.1 x.2 y.1 y.2

end Sys2Proof.Machine
end

