-- ==== Sys2Proof/Machine/Access.lean ====
section
/-! DEFINITION. Performing accesses: translation caches (R342), writes and poison (R333), undo records (R163), posted writes
(R161, R297), accesses that leave the core, and window packets (R390, R398). -/

namespace Sys2Proof.Machine

/-- Where a request stands: at a location, in need of a walk, or at a member of another package. -/
inductive Reach where
  | here (loc : Nat) (shared : Bool)
  | miss (stn asid va : Nat)
  | far (j off : Nat)
  deriving DecidableEq, Repr

/-- The location of a translated byte: in the page of its leaf, or in the version that a handle names (R186, R342). -/
def leafLoc (s : State) (k : Cap) (addr : Nat) (l : Leaf) (va : Nat) : Nat :=
  if k.kind == 7 then versionLoc (regionKey k) (routeOf.versionNum s k) (addr - k.base.toNat) else physLoc (l.pa + (va - l.va))

/-- The reach of a device address for a context. -/
def reach (s : State) (c : Nat) (k : Cap) (addr : Nat) (write : Bool) : Reach :=
  match routeOf s c k addr with
  | .here loc => .here loc false
  | .member j off => .far j off
  | .xlat va =>
    let asid := (s.ctx c).asid.toNat
    match cachedLeaf s (barnOf c) asid va write with
    | some l => .here (leafLoc s k addr l va) l.shared
    | none => .miss (stationOf (barnOf c) va) asid va

/-- Whether the mesh routers deliver a context's access to a location (R41): its own barn, or a barn of its world. -/
def routerOk (s : State) (c loc : Nat) : Bool :=
  !isSram loc || locBarn loc == barnOf c || (s.barn (locBarn loc)).world == (s.ctx c).world

/-! Bytes, tags and poison. -/

/-- A write to a poisoned block is discarded, and counted in a poison log (R333, R336, R441): that of its barn in SRAM. DESIGN CHOICE (log 30): a
block of HBM or of the pool has no barn, and its discards are counted in the log of the barn that issued the write; unsafe. -/
def discard (s : State) (by_ loc : Nat) : State :=
  s.modBarn (if isSram loc then locBarn loc else by_) fun b => { b with pdiscard := min (b.pdiscard + 1) 4095 }

/-- A write of `n` bytes within a block by a barn, other than a write of the whole block and its tag. -/
def storeBy (s : State) (by_ loc n v : Nat) : State := if s.poisoned loc then discard s by_ loc else s.writeLe loc n v

/-- Such a write by the context at issue. -/
def storeAt (s : State) (loc n v : Nat) : State := storeBy s s.myBarn loc n v

/-- A write of a block's tag. -/
def tagBy (s : State) (by_ loc : Nat) (t : BitVec 16) : State := if s.poisoned loc then discard s by_ loc else s.setTag loc t
def tagAt (s : State) (loc : Nat) (t : BitVec 16) : State := tagBy s s.myBarn loc t

/-- A write of all 64 bytes and the tag of a block, which clears the poison bit (R333). -/
def blockAt (s : State) (loc : Nat) (v : Nat) (t : BitVec 16) : State :=
  ((s.writeLe loc 64 v).setTag loc t).setPoison loc false

/-! Seals in use (R336). -/

/-- An access that reads a block, or merges a partial write with it, verifies its ICODE (R336, R337): a block whose code does not verify is
poisoned. The pages shared with hosts are not sealed (R338). -/
def verify (s : State) (world : BitVec 8) (loc : Nat) (shared : Bool) : State :=
  if !shared && badSeal s world loc then s.setPoison loc true else s

/-- A block that has been written is sealed under the keys of a world, unless it stays poisoned (R336). -/
def reseal (s : State) (world : BitVec 8) (loc : Nat) : State :=
  if decide (2 ^ 64 ≤ loc) && decide (loc < 2 ^ 90) && !s.poisoned loc then { s with seals := mput none s.seals (loc / 64) (some (sealOf s world)) } else s

/-! Undo records (R163, R317, R318). -/

/-- Bytes that the records of a loft take (R317). -/
def Loft.used (l : Loft) : Nat :=
  (l.checkpoints.map fun c => 384 + 64 * c.groups.length).sum + 96 * l.undos.length + 32 * l.sends.length
    + 80 * l.defers.length

/-- Whether every record of a loft belongs to one message or to its checkpoint (R318). -/
def Loft.only (l : Loft) (v : Nat) : Bool :=
  l.checkpoints.all (·.vrt == v) && l.undos.all (·.vrt == v) && l.sends.all (·.during == v) && l.defers.all (·.stamp == v)

/-- Room for a record of `n` bytes in a context's loft: a fault when no commitment can free any (R318). -/
def loftRoom (x : Ctx) (n : Nat) : Except FaultInfo Bool :=
  if x.loft.used + n ≤ x.loft.length then .ok true
  else if x.handling && x.loft.only x.lvt.toNat then .error (fltAt .capBounds 10 0)
  else .ok false

/-- The undo record of a block that a context is about to change (R163). None: the context waits for room. -/
def logBlock (s : State) (c loc : Nat) : Except FaultInfo (Option State) :=
  let x := s.ctx c
  if !(x.actor && x.began) then .ok (some s)
  else if x.loft.undos.any fun u => u.vrt == x.lvt.toNat && u.block == loc / 64 then .ok (some s)
  else do
    if ← loftRoom x 96 then
      let u : Undo :=
        { vrt := x.lvt.toNat, block := loc / 64, bytes := (List.range 64).map fun i => s.rawByte (64 * (loc / 64) + i),
          tag := s.tag loc, slots := (List.range 4).map fun i => mget Cap.null s.slots (4 * (loc / 64) + i) }
      .ok (some (s.modCtx c fun x => { x with loft := { x.loft with undos := x.loft.undos ++ [u] } }))
    else .ok none

/-- What a write by a context needs: no stashed capability in the block (R164), and an undo record. -/
def guardWrite (s : State) (c loc : Nat) : Except FaultInfo (Option State) := do
  need (!s.blockStashed loc) (flt .capKind)
  logBlock s c loc

/-! Locks, channels and posted writes. -/

/-- Whether a region that another context holds covers a byte of a range (R171). -/
def lockedOut (s : State) (c loc n : Nat) : Bool :=
  isCoreMem loc && (s.core (locCore loc)).locks.any fun l => l.holder ≠ c && meets l.start l.len loc n

/-- Whether a region lock covers a byte of a range: an engine's beat waits for every holder (R171). -/
def lockedAny (s : State) (loc n : Nat) : Bool := isCoreMem loc && (s.core (locCore loc)).locks.any fun l => meets l.start l.len loc n

/-- The capabilities through which a channel reads and writes (R256). -/
def Channel.srcCap (x : Channel) : Cap := x.pins.getD 0 Cap.null
def Channel.dstCap (x : Channel) : Cap := if x.mcast then Cap.null else x.pins.getD 1 Cap.null

/-- The part of a channel's destinations at or above its watermark: that of a multicast stays at the start (R23, R258). -/
def Channel.held (s : State) (core : Nat) (x : Channel) : List (Nat × Nat) :=
  if x.mcast then (x.dsts.map fun d => spanOf s core x.asid x.world Cap.null d x.len).flatten
  else spanOf s core x.asid x.world x.dstCap (x.dst + x.mark) (x.len - x.mark)

/-- Whether some locations lie in the source of a multicast, which is pinned read-only (R258). -/
def pinnedSource (s : State) (a : List (Nat × Nat)) : Bool :=
  s.cores.any fun p => p.2.chans.toList.any fun x =>
    x.mcast && x.state ≠ 0 && touches (spanOf s p.1 x.asid x.world x.srcCap x.src x.len) a

/-- Whether a slot is in the table of a multicast that runs, on whichever core (R258). -/
def tableSlot (s : State) (k : Cap) (addr : Nat) : Bool :=
  let slot := spanOf s s.myCore s.me.asid.toNat s.me.world k addr 16
  s.cores.any fun p => p.2.chans.toList.any fun x =>
    x.mcast && x.state ≠ 0 && touches (spanOf s p.1 x.asid x.world (x.pins.getD 1 Cap.null) x.table (16 * x.dsts.length)) slot

/-- Whether an accepted write waits for a multicast that has its location pinned (R258): not one that the multicast itself follows (R298). -/
def pinnedFrom (s : State) (src id : Nat) (a : List (Nat × Nat)) : Bool :=
  s.cores.any fun p => p.2.chans.toList.any fun x =>
    x.mcast && x.state ≠ 0 && !(x.after.any fun w => w.1 == src && id ≤ w.2) && touches (spanOf s p.1 x.asid x.world x.srcCap x.src x.len) a

/-- Whether an access of the context at issue waits for a copy channel: one of its core, at or above the watermark of the destination range
(R23), or for a write one that has its source pinned (R258). Locations are compared (R294). -/
def heldByChannel (s : State) (core : Nat) (k : Cap) (addr n : Nat) (write : Bool) : Bool :=
  let a := spanOf s core s.me.asid.toNat s.me.world k addr n
  ((s.core core).chans.toList.any fun x => x.state ≠ 0 && touches (x.held s core) a) || (write && pinnedSource s a)

/-- The location that stands for the tag of a block; a block tag is a location of its own (R294). -/
def tagLoc (loc : Nat) : Nat := 2 ^ 200 + loc

/-- The bytes of a location that a posted operation names, or its tag. -/
def AccOp.extent : AccOp → Nat → Nat × Nat
  | .store n _, loc => (loc, n)
  | .storeMask _ _, loc => (loc, 8)
  | .storeTag _, loc => (tagLoc loc, 64)
  | .atomic _ t _ _ _ _, loc => (loc, t.ty.width / 8)
  | _, loc => (loc, 64)

/-- All the locations that a posted operation names: the write of a whole block names its bytes and its tag. -/
def AccOp.extents (op : AccOp) (loc : Nat) : List (Nat × Nat) :=
  match op with
  | .storeVT _ _ => [(loc, 64), (tagLoc loc, 64)]
  | _ => [op.extent loc]

/-- The bytes of the block or of the words that a posted operation lies in. -/
def AccOp.size (op : AccOp) : Nat := (op.extent 0).2

/-- Whether a context has a posted write that is not performed. -/
def hasPosted (s : State) (c : Nat) : Bool := s.posted.any (·.src == c)

/-- Whether a context has a posted write to some locations. -/
def postedAt (s : State) (c : Nat) (rs : List (Nat × Nat)) : Bool := s.posted.any fun p => p.src == c && touches (p.op.extents p.loc) rs

/-- Whether a context has a posted write to a byte of a range (R162, R297). -/
def postedTo (s : State) (c loc n : Nat) : Bool := postedAt s c [(loc, n)]

/-- Accepts a posted write (R343): it will be performed by the step WRITE_PERFORMED of its number. -/
def post (s : State) (c loc : Nat) (op : AccOp) (k : Cap) (prev : Option Nat) (shared : Bool) (whole : Option (Nat × Block × BitVec 16)) :
    State :=
  State.push
    { s with posted := s.posted ++
               [{ id := s.stamp, src := c, loc := loc, op := op, cap := k, txid := none, prev := prev, shared := shared, whole := whole }],
             stamp := s.stamp + 1 }
    (.writePerformed s.stamp)

/-- Accepts a write of `n` bytes in aligned 8-byte words (R162, R296). -/
def postWords (s : State) (c loc n v : Nat) (k : Cap) (prev : Option Nat) (shared : Bool) (whole : Option (Nat × Block × BitVec 16)) : State :=
  if n ≤ 8 then post s c loc (.store n (BitVec.ofNat 512 v)) k prev shared whole
  else (List.range (n / 8)).foldl
    (fun s i => post s c (loc + 8 * i) (.store 8 (BitVec.ofNat 512 (v / 2 ^ (64 * i) % 2 ^ 64))) k prev shared whole) s

/-- Whether an access was made through a capability, or through one from which it was narrowed, split, joined or converted since: buffers are
compared by the bytes that they share, and rings and version handles by their whole names. -/
def sameObject (x k : Cap) : Bool :=
  !x.isNull && x.world == k.world
    && (if x.kind == 4 || k.kind == 4 then x.kind == k.kind && x.base == k.base && x.length == k.length && x.gen == k.gen
        else (x.kind == 7) == (k.kind == 7) && (x.kind ≠ 7 || x.gen == k.gen) && meets x.base.toNat x.length.toNat k.base.toNat k.length.toNat)

/-- Whether a capability counts as having a posted access of a context: a posted write (R173), a channel or a mailbox request
(R254, R257), or a deferred action (R241). -/
def pinned (s : State) (c : Nat) (k : Cap) : Bool :=
  let same (x : Cap) : Bool := sameObject x k
  (s.posted.any fun p => p.src == c && same p.cap)
    || (s.core (coreOf c)).chans.toList.any (fun ch => ch.state ≠ 0 && ch.pins.any same)
    || (s.core (coreOf c)).boxes.toList.any (fun b => match b with | some m => same m.kb || same m.kc | none => false)
    || (s.core (coreOf c)).served.any (fun b => same b.2.kb || same b.2.kc)
    || (s.ctx c).loft.defers.any (fun d => same d.cap)
    || (match s.launch? (s.ctx c).launch with
        | some l => l.releases.any fun r => r.1 == c && same r.2.cap
        | none => false)

/-- The name of a line of translated space in the fetch buffers, which hold what was translated when it was filled (R91, R303). -/
def lineName (asid va : Nat) : Nat := 2 ^ 64 + asid * 2 ^ 50 + va

/-- Whether a line of a fetch buffer is one of a code buffer: by location in SRAM, and for a buffer in translated space every line of translated
memory (log 14). -/
def lineOfBuffer (core : Nat) (k : Cap) (name : Nat) : Bool :=
  match place core k.base.toNat with
  | .sram loc => meets loc k.length.toNat name 64
  | _ => decide (2 ^ 64 ≤ name)

/-- The fetch-buffer lines of a code buffer are discarded (R173), with the fills of such lines that are under way. -/
def purgeLines (s : State) (core : Nat) (k : Cap) : State :=
  { s.modCore core fun x => { x with lines := x.lines.filter fun p => !lineOfBuffer core k p.1 } with
    work := s.work.filter fun w => match w with | .lineFill c l _ _ => !(c == core && lineOfBuffer core k l) | _ => true }

/-- A code capability leaves a core (R173). -/
def leavesCore (s : State) (core : Nat) (k : Cap) : State := if k.kind == 5 then purgeLines s core k else s

/-- A capability of a reserved kind is of no use (R28). -/
def knownKind (k : Cap) : Except FaultInfo Unit := need (k.kind.toNat < 8) (flt .capKind)

/-- A timed receive end (R312). -/
def timedReceive (s : State) (k : Cap) : Bool := k.kind == 4 && k.full && (s.ring (portOf k)).timed

/-- A receive end that arrives has a new holder, whose launch the ring's becomes (R55, R227, R231). -/
def ownRing (s : State) (k : Cap) (c : Nat) : State :=
  if k.kind == 4 && k.full then
    let r := s.ring (portOf k)
    s.setRing (portOf k) { r with owner := c, launch := (s.ctx c).launch }
  else s

/-- A region capability of which a private version exists (R189). -/
def regionBusy (s : State) (k : Cap) : Bool := k.kind == 1 && k.versioned && ((s.region (regionKey k)).priv).isSome

/-! Atomics (R181). -/

/-- The new value of an atomic (R181): integers wrap, floating point by RNE and by R66. -/
def AtomOp.apply (o : AtomOp) (t : ATy) (old src : Nat) : Nat :=
  let ty := t.ty
  let w := ty.width
  match o with
  | .swap | .cas => src % 2 ^ w
  | .add => if ty.isFp then fop2 ty .rne (Val.add .rne) old src else (old + src) % 2 ^ w
  | .and => (old % 2 ^ w) &&& (src % 2 ^ w)
  | .or => (old % 2 ^ w) ||| (src % 2 ^ w)
  | .xor => (old % 2 ^ w) ^^^ (src % 2 ^ w)
  | .max => if ty.isFp then fop2 ty .rne Val.max old src else if ty.int old < ty.int src then src % 2 ^ w else old % 2 ^ w
  | .min => if ty.isFp then fop2 ty .rne Val.min old src else if ty.int src < ty.int old then src % 2 ^ w else old % 2 ^ w

/-- Whether an atomic writes: acas compares bit patterns (R182). -/
def AtomOp.writes (o : AtomOp) (t : ATy) (old cmp : Nat) : Bool := o ≠ .cas || old == cmp % 2 ^ t.ty.width

/-! What one performance does at memory. -/

/-- The parts of an access that are performed together. -/
inductive Prim where
  | read (n : Nat)
  | readTag
  | readBoth
  | write (n v : Nat)
  | writeTag (t : BitVec 16)
  | writeBoth (v : Nat) (t : BitVec 16)
  | incr
  | rmw (o : AtomOp) (t : ATy) (src cmp : Nat)
  | put (k : Cap)
  | take (room : Bool)
  deriving DecidableEq, Repr

/-- Bytes that a part touches. -/
def Prim.bytes : Prim → Nat
  | .read n | .write n _ => n
  | .incr => 8
  | .rmw _ t _ _ => t.ty.width / 8
  | .put _ | .take _ => 16
  | .readTag | .readBoth | .writeTag _ | .writeBoth _ _ => 64

/-- The locations that a part names: bytes, a block's tag, or both. -/
def Prim.ranges (p : Prim) (loc : Nat) : List (Nat × Nat) :=
  match p with
  | .readTag | .writeTag _ => [(tagLoc loc, 64)]
  | .readBoth | .writeBoth _ _ => [(loc, 64), (tagLoc loc, 64)]
  | _ => [(loc, p.bytes)]

/-- Whether a part writes. -/
def Prim.writes : Prim → Bool
  | .read _ | .readTag | .readBoth => false
  | _ => true

/-- Whether a part would change a byte or the tag of its block (R164): an acas whose comparison fails does not (R182). -/
def Prim.changes (s : State) (loc : Nat) (p : Prim) : Bool :=
  match p with
  | .rmw o t _ cmp => o.writes t (s.readLe loc (t.ty.width / 8)) cmp
  | _ => p.writes

/-- What a part of an access by a context needs before it is performed: no stashed capability in a block that it changes (R164), and an undo
record of a block that it touches (R163); a capability slot is put and taken beside other slots of its block (R180). -/
def guardPrim (s : State) (c loc : Nat) (p : Prim) : Except FaultInfo (Option State) :=
  match p with
  | .put _ | .take _ => logBlock s c loc
  | _ =>
    if p.writes then do
      need (!(p.changes s loc && s.blockStashed loc)) (flt .capKind)
      logBlock s c loc
    else .ok (some s)

/-- What a part gives back: a number, a tag and a capability. -/
structure Got where
  data : Nat
  tag : BitVec 16
  cap : Cap

/-- Nothing comes back. -/
def Got.none : Got := { data := 0, tag := 0, cap := Cap.null }

/-- Performs a part at a location (R295). -/
def doPrim (s : State) (loc addr : Nat) (shared : Bool) (p : Prim) : Except FaultInfo (State × Got) :=
  match p with
  | .read n => do
    need (!unreadable s loc) (fltAt .poison 0 addr)
    .ok (s, { Got.none with data := s.readLe loc n })
  | .readTag => do
    need (!unreadable s loc) (fltAt .poison 0 addr)
    .ok (s, { Got.none with tag := if shared then 0 else s.tag loc })
  | .readBoth => do
    need (!unreadable s loc) (fltAt .poison 0 addr)
    .ok (s, { Got.none with data := s.readLe loc 64, tag := if shared then 0 else s.tag loc })
  | .write n v => do
    need (!withdrawn s loc) (fltAt .poison 0 addr)
    .ok (storeAt s loc n v, Got.none)
  | .writeTag t => do
    need (!withdrawn s loc) (fltAt .poison 0 addr)
    need (!shared || t == 0) (fltAt .capKind 0 addr)
    .ok (if shared then s else tagAt s loc t, Got.none)
  | .writeBoth v t => do
    need (!withdrawn s loc) (fltAt .poison 0 addr)
    need (!shared || t == 0) (fltAt .capKind 0 addr)
    .ok (blockAt s loc v (if shared then 0 else t), Got.none)
  | .incr => do
    need (!unreadable s loc) (fltAt .poison 0 addr)
    .ok (storeAt s loc 8 ((s.readLe loc 8 + 1) % 2 ^ 64), Got.none)
  | .rmw o t src cmp => do
    need (!unreadable s loc) (fltAt .poison 0 addr)
    let n := t.ty.width / 8
    let old := s.readLe loc n
    .ok (if o.writes t old cmp then storeAt s loc n (o.apply t old src) else s, { Got.none with data := old })
  | .put k => do
    need (!unreadable s loc) (fltAt .poison 0 addr)
    need (s.slot loc).isNull (flt .capKind)
    .ok (s.setSlot loc k, Got.none)
  | .take room => do
    need (!unreadable s loc) (fltAt .poison 0 addr)
    need (!(s.slot loc).isNull) (flt .capNull)
    need room (flt .capKind)
    .ok ((s.setSlot loc Cap.null).writeLe loc 16 0, { Got.none with cap := s.slot loc })

/-! Window packets (R390, R391, R398). -/

/-- The SRC field of a context or a channel (R390). -/
def srcField (core n : Nat) : BitVec 18 :=
  BitVec.ofNat 18 (barnX (barnOfCore core) * 2 ^ 13 + barnY (barnOfCore core) * 2 ^ 8 + core % 4 * 64 + n)

/-- A packet with every field zero. -/
def Packet.blank : Packet :=
  { type := 0, world := 0, drow := 0, dcol := 0, srow := 0, scol := 0, det := false, via := 0, vc := 0, cls := 0,
    col := false, capv := false, txid := 0, status := 0, hitch := 0, gen := 0, smem := 0, dmem := 0, src := 0, off := 0,
    foff := 0, btag := 0, cap := 0, vrt := 0, data := 0, flits := [], capTag := 0, width := 0, aop := 0, flagged := false,
    tagged := false, cmp := 0 }

/-- A request of a hitch's member to member `j`. -/
def packetTo (s : State) (h : Hitch) (j : Nat) (src : BitVec 18) : Packet :=
  let d := mget (0, 0) h.place j
  { Packet.blank with
    world := h.world, drow := BitVec.ofNat 5 d.1, dcol := BitVec.ofNat 5 d.2, srow := BitVec.ofNat 5 s.row,
    scol := BitVec.ofNat 5 s.col, hitch := BitVec.ofNat 32 h.id, gen := h.gen, smem := BitVec.ofNat 7 h.me,
    dmem := BitVec.ofNat 7 j, src := src, txid := BitVec.ofNat 14 s.stamp }

/-- The header flit of a packet (R390): NFLIT counts its data flits, and the reserved bits are zero. -/
def Packet.header (p : Packet) : BitVec 512 :=
  BitVec.ofNat 512
    (p.type.toNat * 2 ^ 504 + p.world.toNat * 2 ^ 496 + p.drow.toNat * 2 ^ 491 + p.dcol.toNat * 2 ^ 486 + p.srow.toNat * 2 ^ 481
      + p.scol.toNat * 2 ^ 476 + p.det.toNat * 2 ^ 475 + p.via.toNat * 2 ^ 470 + p.vc.toNat * 2 ^ 468 + p.cls.toNat * 2 ^ 466
      + p.flits.length % 4 * 2 ^ 464 + p.col.toNat * 2 ^ 463 + p.capv.toNat * 2 ^ 462 + p.txid.toNat * 2 ^ 448 + p.status.toNat * 2 ^ 440
      + p.hitch.toNat * 2 ^ 408 + p.gen.toNat * 2 ^ 396 + p.smem.toNat * 2 ^ 389 + p.dmem.toNat * 2 ^ 382 + p.src.toNat * 2 ^ 364
      + p.off.toNat * 2 ^ 320 + p.foff.toNat * 2 ^ 280 + p.btag.toNat * 2 ^ 264 + p.cap.toNat * 2 ^ 128 + p.vrt.toNat * 2 ^ 64 + p.data.toNat)

/-! Routes (R387, R392, R395). -/

/-- The port that links to a package of the same row or of the same column (R387). -/
def portTo (s : State) (row col : Nat) : Nat :=
  if row = s.row then (col + Config.fabricCols - s.col - 1) % Config.fabricCols
  else 23 + (row + Config.fabricRows - s.row - 1) % Config.fabricRows
def portUp (s : State) (n : Nat) : Bool := (s.port n).state == 2

/-- The port of the first hop of the minimal route: along the row to the column, and then along the column (R392). -/
def firstHop (s : State) (row col : Nat) : Nat := if col = s.col then portTo s row s.col else portTo s s.row col

/-- Whether a route reaches a package (R392, R395): the first hop of the minimal route, or a detour by a row peer. -/
def reachable (s : State) (row col : Nat) : Bool :=
  (row == s.row && col == s.col) || portUp s (firstHop s row col) || (List.range 23).any fun r => portUp s r && r ≠ portTo s s.row col

/-- The column of the peer of a row port (R387), and the flits that wait at a port when the package sends its next packet (log 4). -/
def peerCol (s : State) (r : Nat) : Nat := (s.col + 1 + r) % Config.fabricCols
def flitsAt (s : State) (n : Nat) : Nat := Config.queuedFlits n s.sent.length

/-- The row port by which a packet detours: that of fewest queued flits, the lowest column on a tie (R392). -/
def detourPort (s : State) (rows : List Nat) : Option Nat :=
  rows.find? fun r => rows.all fun q => flitsAt s r < flitsAt s q || (flitsAt s r == flitsAt s q && decide (peerCol s r ≤ peerCol s q))

/-- A packet as its source sends it (R392, R395): a request takes a detour where the first hop holds more than 48 flits and a row port fewer than 16,
and any packet does where the first hop is down. -/
def routed (s : State) (p : Packet) : Packet :=
  let first := firstHop s p.drow.toNat p.dcol.toNat
  let rows := (List.range 23).filter fun r => portUp s r && r ≠ first
  let light := rows.filter fun r => flitsAt s r < 16
  let via := if p.drow.toNat = s.row && p.dcol.toNat = s.col then none
    else if !portUp s first then detourPort s rows
    else if p.cls = 0 && decide (48 < flitsAt s first) && !light.isEmpty then detourPort s rows
    else none
  match via with
  | some r => { p with det := true, via := BitVec.ofNat 5 (peerCol s r) }
  | none => p

/-- A reply to a packet (R391). -/
def replyTo (p : Packet) (type : BitVec 8) (status : BitVec 8) : Packet :=
  { Packet.blank with
    type := type, world := p.world, drow := p.srow, dcol := p.scol, srow := p.drow, scol := p.dcol, cls := 1, txid := p.txid,
    status := status, hitch := p.hitch, gen := p.gen, smem := p.dmem, dmem := p.smem, src := p.src }

/-- A packet leaves the package (R393); one that no route takes to its package is returned with HITCH_GONE (R395). -/
def sendPacket (s : State) (p : Packet) : State :=
  let t := { s with sent := s.sent ++ [routed s p] }
  if !reachable s p.drow.toNat p.dcol.toNat then t.push (.replyStatus (replyTo p 0x06 FaultCode.hitchGone.code)) else t

/-- The port by which a packet has come (R392): a column port from the row of its source; in that row the port of the source, or of the peer by which
it detoured. -/
def arrivalPort (s : State) (p : Packet) : Nat :=
  if p.srow.toNat ≠ s.row then portTo s p.srow.toNat s.col
  else portTo s s.row (if p.det && p.via.toNat ≠ s.col then p.via.toNat else p.scol.toNat)

/-- A flit has come in by a port: the run of failed replays there is broken (R388). -/
def State.calm (s : State) (n : Nat) : State := if (s.port n).streak = 0 then s else s.setPort n { s.port n with streak := 0 }

/-- A packet that arrives is taken from its port. -/
def State.gets (s : State) (ev : Instr) (p : Packet) : State := (s.did ev).calm (arrivalPort s p)

/-- The code of an atomic in func[7:4] (R181) and of its type (R25). -/
def AtomOp.code : AtomOp → Nat
  | .swap => 0 | .add => 1 | .and => 2 | .or => 3 | .xor => 4 | .max => 5 | .min => 6 | .cas => 7

/-- The request of a part to a window offset (R391, R398). `flag` names a flag word to increment after the data. -/
def primPacket (p : Packet) (off : Nat) (flag : Option Nat) : Prim → Packet
  | .read n => { p with type := 0x01, off := BitVec.ofNat 40 off, width := n }
  | .readTag => { p with type := 0x01, off := BitVec.ofNat 40 off, tagged := true }
  | .readBoth => { p with type := 0x01, off := BitVec.ofNat 40 off, width := 64, tagged := true }
  | .write n v =>
    let q := { p with off := BitVec.ofNat 40 off, width := n, flagged := flag.isSome, foff := BitVec.ofNat 40 (flag.getD 0) }
    if n ≤ 8 then { q with type := 0x02, data := BitVec.ofNat 64 v } else { q with type := 0x03, flits := [BitVec.ofNat 512 v] }
  | .writeTag t => { p with type := 0x02, off := BitVec.ofNat 40 off, btag := t, tagged := true }
  | .writeBoth v t =>
    { p with type := 0x03, off := BitVec.ofNat 40 off, width := 64, btag := t, tagged := true, flits := [BitVec.ofNat 512 v] }
  | .rmw o t src cmp =>
    { p with type := 0x04, off := BitVec.ofNat 40 off, width := t.ty.width / 8, data := BitVec.ofNat 64 src,
             aop := BitVec.ofNat 8 (16 * o.code + t.ty.code.toNat), cmp := BitVec.ofNat 64 cmp }
  | .incr => { p with type := 0x02, off := BitVec.ofNat 40 off, foff := BitVec.ofNat 40 off, flagged := true }
  | .put _ | .take _ => p

/-- Sends a request to a member and notes the transaction (R398). -/
def request (s : State) (c j off : Nat) (flag : Option Nat) (p : Prim) : State :=
  match hitchOf s (s.ctx c).launch with
  | none => s
  | some h =>
    let q := primPacket (packetTo s h j (srcField (coreOf c) (numOf c))) off flag p
    { sendPacket s q with txs := s.txs ++ [(s.stamp % 2 ^ 14, .ctx c, j)], stamp := s.stamp + 1 }

/-- Accepts a posted write to a member: its packet leaves, and it is performed when the reply comes (R393, R398). -/
def postFar (s : State) (c j off : Nat) (op : AccOp) (k : Cap) (p : Prim) : State :=
  let t := request s c j off none p
  { t with posted := t.posted ++
      [{ id := t.stamp, src := c, loc := farLoc j off, op := op, cap := k, txid := some (s.stamp % 2 ^ 14), prev := none }],
           stamp := t.stamp + 1 }

/-- A context's request needs a translation that the two levels do not hold (R344). -/
def missAt (s : State) (c va : Nat) (write : Bool) : State := (s.modCtx c fun x => { x with miss := some (va, write) }).pushOnce (.translationMiss c)

/-- Whether a transaction of a context waits for its reply. -/
def hasTx (s : State) (c : Nat) : Bool := s.txs.any fun t => t.2.1 == .ctx c

end Sys2Proof.Machine
end

