-- ==== Sys2Proof/Machine/Serve.lean ====
section
/-! DEFINITION. How an access begins at issue, is served when its request reaches its memory, and ends (R161, R297, R298); and the
points of the long memory forms (R207 to R210, R214). `s.cur` names the context throughout. -/

namespace Sys2Proof.Machine

/-- A loaded value in a register (R165). -/
def loaded (n : Nat) (sext : Bool) (v : Nat) : Word :=
  if sext then BitVec.ofInt 64 (signed (8 * n) v) else BitVec.ofNat 64 (v % 2 ^ (8 * n))

/-- The part that a single access performs. -/
def primOf (s : State) (op : AccOp) : Prim :=
  match op with
  | .load _ n _ => .read n
  | .loadV _ | .line => .read 64
  | .loadTag _ => .readTag
  | .loadVT _ _ => .readBoth
  | .store n v | .flagStore n v _ => .write n v.toNat
  | .storeMask v _ => .write 8 v.toNat
  | .storeTag t => .writeTag t
  | .storeVT v t => .writeBoth v.toNat t
  | .flagInc => .incr
  | .atomic o t _ src cmp _ => .rmw o t src.toNat cmp.toNat
  | .stash kd => .put { s.k kd with base := BitVec.ofNat 48 (meshForm s.myCore (s.k kd).base.toNat) }
  | .fetchCap kd => .take (s.k kd).isNull
  | .replicate .. | .gather .. | .scatter .. | .stream .. | .tileCopy .. | .tileZero _ | .matrix .. => .read 64

/-- Accesses that take effect only after every earlier access of the context has been performed (R298). -/
def AccOp.drains : AccOp → Bool
  | .flagInc | .stash _ | .replicate .. => true
  | .atomic _ _ _ _ _ rel => rel
  | _ => false

/-- Whether an access goes on point by point (R207). -/
def AccOp.isLong : AccOp → Bool
  | .gather .. | .scatter .. | .stream .. | .tileCopy .. => true
  | _ => false

/-- The device address of an access. -/
def Access.addr (a : Access) : Nat := (a.k.base.toNat + a.off).toNat

/-- The context waits for an answer to its access (R10, R161). -/
def leave (s : State) (a : Access) (w : Wait) (ev : Instr) : State :=
  ((waitFor s w none).modMe fun x => { x with acc := some a }).push ev

/-- The increment of a flag word (R168): at once when the word lies in the core's own memory and nothing earlier is outstanding,
and otherwise as a step of its own. -/
def awaitFlag (s : State) (a : Access) (flag : Nat) : State :=
  let b : Access := { a with op := .flagInc, off := flag - a.k.base.toNat }
  let later := leave s b .flag (.flagIncrement s.cur.ctx)
  match routeOf s s.cur.ctx a.k flag with
  | .here loc =>
    if ownCore s.cur.ctx loc && !hasPosted s s.cur.ctx && !lockedOut s s.cur.ctx loc 8 && !heldByChannel s s.myCore a.k flag 8 true then
      match guardWrite s s.cur.ctx loc with
      | .error f => raise s f
      | .ok none => later
      | .ok (some t) =>
        match doPrim t loc flag false .incr with
        | .error f => raise s f.lateOf
        | .ok (t, _) => finish t
    else later
  | _ => later

/-- What a single access leaves when its part has been performed. -/
def absorb (s : State) (a : Access) (g : Got) : State :=
  match a.op with
  | .load d n sext => finish (s.setW d (loaded n sext g.data))
  | .loadV vd => finish (s.setV vd (BitVec.ofNat 512 g.data))
  | .loadTag d => finish (s.setW d (g.tag.setWidth 64))
  | .loadVT vd r => finish ((s.setV vd (BitVec.ofNat 512 g.data)).setW r (g.tag.setWidth 64))
  | .flagStore _ _ flag => awaitFlag s a flag
  | .atomic _ t (some d) _ _ _ => finish (s.setW d (extend t.ty g.data))
  | .stash kd => finish ((leavesCore s s.myCore (s.k kd)).setK kd Cap.null)
  | .fetchCap kd => finish (ownRing (s.setK kd g.cap) g.cap s.cur.ctx)
  | _ => finish s

/-- The fault of a part performed late: POISON always is (R333); the others when the access has left the core (R271). -/
def servedFault (late : Bool) (f : FaultInfo) : FaultInfo := if late || f.code == .poison then f.lateOf else f

/-- What a write needs at its flag word too (R164, R168): a flag store whose flag word lies in a block that holds a stashed capability, or in one
for which the loft has no room, writes nothing. -/
def guardFlag (s : State) (a : Access) : Except FaultInfo (Option State) :=
  match a.op with
  | .flagStore _ _ flag =>
    (match routeOf s s.cur.ctx a.k flag with
     | .here loc => guardWrite s s.cur.ctx loc
     | _ => .ok (some s))
  | _ => .ok (some s)

/-- Performs an access at a location: the write's guards, the part, and what it leaves. None: the context goes on waiting. -/
def performAt (s : State) (a : Access) (loc : Nat) (shared late : Bool) : Option State :=
  let p := primOf s a.op
  let guards : Except FaultInfo (Option State) := do
    match ← guardPrim s s.cur.ctx loc p with
    | none => .ok none
    | some t => guardFlag t a
  match guards with
  | .error f => some (raise s (servedFault late f))
  | .ok none => none
  | .ok (some t) =>
    match doPrim t loc a.addr shared p with
    | .error f => some (raise s (servedFault late f))
    | .ok (t, g) => some (absorb (if p.writes && !shared then reseal t t.me.world loc else t) a g)

/-- An access to the issuing core's own memory, performed in its pipeline, in issue order (R46, R161, R297): no write to that memory is ever
posted, so none of the context's own is outstanding there. A flag word that lies there too is incremented at once when nothing earlier is
outstanding. -/
def serveOwn (s : State) (a : Access) (loc n : Nat) : State :=
  if lockedOut s s.cur.ctx loc n || (a.op.drains && hasPosted s s.cur.ctx) then waitCond s
  else (performAt s a loc false false).getD (waitCond s)

/-- A request to a member of another package (R398). A flag word of the same member travels with its data. -/
def serveFar (s : State) (a : Access) (j off : Nat) (w : Wait) : State :=
  if (a.op.drains && hasPosted s s.cur.ctx) || postedAt s s.cur.ctx ((primOf s a.op).ranges (farLoc j off)) then waitCond s
  else
    let p := primOf s a.op
    match a.op with
    | .flagStore _ _ flag =>
      if hasPosted s s.cur.ctx then waitCond s
      else if (flag - 2 ^ 47) / 2 ^ 40 = j then
        request ((waitFor s w none).modMe fun x => { x with acc := some { a with op := .flagInc } }) s.cur.ctx j off
          (some (flag % 2 ^ 40)) p
      else request ((waitFor s w none).modMe fun x => { x with acc := some a }) s.cur.ctx j off none p
    | _ => request ((waitFor s w none).modMe fun x => { x with acc := some a }) s.cur.ctx j off none p

/-- An access begins, after its checks at issue: it waits for a channel (R23) or a lock (R171), is performed in the core, or
leaves it. -/
def beginAccess (s : State) (op : AccOp) (k : Cap) (off : Int) (n : Nat) (posted : Bool) : State :=
  let a : Access := { op := op, k := k, off := off, ins := heldLatch s true false }
  let away (s : State) : State :=
    if posted then leave s a .accept (.postedWriteAccept s.cur.ctx) else leave s a .reply (.memoryReply s.cur.ctx)
  if heldByChannel s s.myCore k a.addr n (primOf s op).writes then waitCond s
  else
    match routeOf s s.cur.ctx k a.addr with
    | .here loc => if ownCore s.cur.ctx loc then serveOwn s a loc n else away s
    | .xlat _ => away s
    | .member j o => if posted then away s else serveFar s a j o .reply

/-- A late router refusal (R41). -/
def routerFault (addr : Nat) : FaultInfo := (fltAt .capRights 13 addr).lateOf

/-- Whether a context has a request parked or refused at a station (R344, R345). -/
def requestParked (s : State) (src : Source) : Bool :=
  s.stations.any fun p => p.2.parked.any (·.src == src) || p.2.refused.any (·.src == src)

/-- The access goes into the retry latch until a lock clears (R11, R171). -/
def intoLatch (s : State) (l : Latch) : State := waitFor (s.modMe fun x => { x with acc := none }) .cond (some { l with replay := true })

/-- A late fault of a fetch from translated space (R91, R456); on entry to an event vector it is a fault of the entry (R284). -/
def lineFault (s : State) (a : Access) (f : FaultInfo) : State :=
  match a.ins.entry with
  | some e => raiseEntry (s.modMe fun x => { x with acc := none }) e a.ins.codept f
  | none => raise s { f with preDecode := a.ins.noWord }

/-- The name of the line of a code buffer in the fetch buffer of the context at issue (R303). -/
def lineKey (s : State) (k : Cap) (addr : Nat) : Nat :=
  match routeOf s s.cur.ctx k addr with
  | .here loc => loc
  | .xlat va => lineName s.me.asid.toNat va
  | .member j off => farLoc j off

/-- The line of a fetch from translated space: the fill becomes due, and the context issues at its next turn (R91). -/
def serveLine (s : State) (a : Access) : Option State :=
  match reach s s.cur.ctx a.k a.addr false with
  | .miss _ _ va => some (missAt s s.cur.ctx va false)
  | .far .. => none
  | .here loc shared =>
    let s := verify s s.me.world loc shared
    if unreadable s loc then some (lineFault s a (fltAt .poison 0 a.addr).lateOf)
    else some ((s.modMe fun x => { x with
        state := .ready, wait := .none, acc := none,
        latch := if a.ins.noWord then none else some { a.ins with replay := true } }).push
      (.lineFill s.myCore (lineKey s a.k a.addr) 0 0))

/-- The units of an access of 64 bytes that are performed one by one: the eight words, and the tag of ldvt (R162, R296). -/
def AccOp.units : AccOp → List Nat
  | .loadVT _ _ => List.range 9
  | _ => List.range 8

/-- The number of the unit that is performed next: `pick` names it among those that are not performed, since their order is not fixed (R296). -/
def nextUnit (s : State) (a : Access) : Nat :=
  let left := a.op.units.filter fun i => !a.part.any (·.1 == i)
  left.getD (s.pick % left.length) 0

/-- The words that an access has read, as 64 bytes, and the tag. -/
def unit (ps : List (Nat × Nat)) (i : Nat) : Nat := ((ps.find? (·.1 == i)).map (·.2)).getD 0
def unitBytes (ps : List (Nat × Nat)) : Nat := packLanes 64 ((List.range 8).map (unit ps))

/-- The next unit of a read of 64 bytes, each of which is performed by itself (R162, R296): the units when they are complete, or the access
with one more. A request that has arrived before a withdrawal of its extent ends normally (R421). -/
def nextWord (s : State) (a : Access) (loc addr : Nat) (shared : Bool) : Except FaultInfo (List (Nat × Nat) ⊕ State) := do
  need (!s.poisoned loc && !(a.part.isEmpty && withdrawn s loc)) (fltAt .poison 0 addr)
  let i := nextUnit s a
  let ps := a.part ++ [(i, if i = 8 then (if shared then 0 else (s.tag loc).toNat) else s.readLe (loc + 8 * i) 8)]
  if ps.length < a.op.units.length then
    .ok (.inr ((s.modMe fun x => { x with acc := some { a with part := ps, at_ := some (loc, shared) } }).push (.memoryReply s.cur.ctx)))
  else .ok (.inl ps)

/-- A vector load at its memory (R162, R202): its words, and the tag of ldvt, one by one. -/
def serveWords (s : State) (a : Access) (loc : Nat) (shared : Bool) : State :=
  match nextWord s a loc a.addr shared with
  | .error f => raise s f.lateOf
  | .ok (.inr t) => t
  | .ok (.inl ps) => absorb s a { Got.none with data := unitBytes ps, tag := BitVec.ofNat 16 (unit ps 8) }

/-- Where an access stands: at the location to which it was translated when its first word was read, or where it is reached now. -/
def reachOf (s : State) (a : Access) (addr : Nat) (write : Bool) : Reach :=
  match a.at_ with
  | some (loc, shared) => .here loc shared
  | none => reach s s.cur.ctx a.k addr write

/-- Whether an access is a cfetch, which waits while its slot is in the table of a multicast that runs (R258). -/
def AccOp.fetchesCap : AccOp → Bool
  | .fetchCap _ => true
  | _ => false

/-- Whether a single access reads a block word by word. -/
def AccOp.byWords : AccOp → Bool
  | .loadV _ | .loadVT _ _ => true
  | _ => false

/-- A flag-carrying store of 64 bytes at its memory (R168, R296): its words are written one by one, and then the flag is incremented. -/
def serveFlagStore (s : State) (a : Access) (loc n : Nat) (shared : Bool) (v : Block) (flag : Nat) : Option State :=
  let guards : Except FaultInfo (Option State) := do
    need (!withdrawn s loc) (fltAt .poison 0 a.addr)
    match ← guardWrite s s.cur.ctx loc with
    | none => .ok none
    | some t => guardFlag t a
  match guards with
  | .error f => some (raise s f.lateOf)
  | .ok none => none
  | .ok (some t) => some (awaitFlag (postWords t s.cur.ctx loc n v.toNat a.k none shared none) a flag)

/-- A single access reaches its memory (R161). None: it goes on waiting. -/
def serveOne (s : State) (a : Access) : Option State :=
  let c := s.cur.ctx
  let p := primOf s a.op
  match reachOf s a a.addr p.writes with
  | .miss _ _ va => some (missAt s c va p.writes)
  | .far j off => if a.op == .flagInc && !hasPosted s c then some (serveFar s a j off .reply) else none
  | .here loc shared =>
    let s := verify s s.me.world loc shared
    if postedAt s c (p.ranges loc) || (a.op.drains && hasPosted s c) || (p.writes && pinnedSource s (p.ranges loc))
        || (a.op.fetchesCap && tableSlot s a.k a.addr) then none
    else if lockedOut s c loc p.bytes then some (intoLatch s a.ins)
    else if !routerOk s c loc then some (raise s (routerFault a.addr))
    else if a.op.byWords then some (serveWords s a loc shared)
    else
      match a.op with
      | .flagStore n v flag => if n ≤ 8 then performAt s a loc shared true else serveFlagStore s a loc n shared v flag
      | _ => performAt s a loc shared true

/-- A posted write is accepted after every check that could refuse it (R343); one to a locked region waits in the retry latch (R171), and one
to a member goes out after the earlier writes of its context to the same location, or to any when it carries rel (R184, R297, R308). None: it
goes on waiting. -/
def acceptOne (s : State) (a : Access) : Option State :=
  let c := s.cur.ctx
  let p := primOf s a.op
  match reach s c a.k a.addr true with
  | .miss _ _ va => some (missAt s c va true)
  | .far j off =>
    match memberStep s a.k a.addr with
    | .error f => some (raise s f.lateOf)
    | .ok _ =>
      if postedAt s c (p.ranges (farLoc j off)) || (a.op.drains && hasPosted s c) then none
      else some (finish (postFar s c j off a.op a.k p))
  | .here loc shared =>
    if lockedOut s c loc p.bytes then some (intoLatch s a.ins)
    else if !routerOk s c loc then some (raise s (routerFault a.addr))
    else if withdrawn s loc then some (raise s (fltAt .poison 0 a.addr).lateOf)
    else
      match guardWrite s c loc with
      | .error f => some (raise s f.lateOf)
      | .ok none => none
      | .ok (some t) =>
        match a.op with
        | .store n v => some (finish (postWords t c loc n v.toNat a.k none shared none))
        | .storeTag tag =>
          if shared && tag ≠ 0 then some (raise s (fltAt .capKind 0 a.addr).lateOf)
          else some (finish (if shared then t else post t c loc a.op a.k none false none))
        | .storeVT v tag =>
          let whole := some (t.stamp, v, tag)
          if shared && tag ≠ 0 then some (raise s (fltAt .capKind 0 a.addr).lateOf)
          else
            let u := postWords t c loc 64 v.toNat a.k none shared whole
            some (finish (if shared then u else post u c loc (.storeTag tag) a.k none shared whole))
        | _ => some (finish (post t c loc a.op a.k none shared none))

/-- The writes of which one was made together with another that they belong to. -/
def samePart (g : Nat) (p : Posted) : Bool := match p.whole with | some w => w.1 == g | none => false

/-- Whether a write replaces its block and the tag as one unit, since the block is poisoned or its code does not verify (R333, R336), and an earlier write
of its context to any part of them is not performed yet (R297). -/
def unitWaits (s : State) (p : Posted) : Bool :=
  match p.whole with
  | some (g, _, _) =>
    let b := 64 * (p.loc / 64)
    (s.poisoned p.loc || (!p.shared && badSeal s (s.ctx p.src).world p.loc))
      && s.posted.any fun q => q.src == p.src && decide (q.id < p.id) && !samePart g q && touches (q.op.extents q.loc) [(b, 64), (tagLoc b, 64)]
  | none => false

/-- Whether an accepted write may be performed now (R162, R184, R209, R297): after the earlier writes of its context to the same
bytes, after the write that it follows, after everything earlier when it carries rel, and not in a region that another context
holds. -/
def performable (s : State) (p : Posted) : Bool :=
  p.txid.isNone && !unitWaits s p
    && !(s.posted.any fun q => q.src == p.src && decide (q.id < p.id) && (p.op.drains || touches (q.op.extents q.loc) (p.op.extents p.loc)))
    && !(match p.prev with | some i => s.posted.any (·.id == i) | none => false)
    && !lockedOut s p.src p.loc p.op.size && !pinnedFrom s p.src p.id (p.op.extents p.loc)

/-- The bytes of an aligned word that a mask names are replaced. -/
def mergeBytes (old v : Nat) (mask : BitVec 8) : Nat :=
  packLanes 8 ((List.range 8).map fun i => (if mask.getLsbD i then v else old) / 2 ^ (8 * i) % 2 ^ 8)

/-- A write that is merged with its block (R337). -/
def mergePosted (t : State) (p : Posted) : State :=
  match p.op with
  | .store n v => storeBy t (barnOf p.src) p.loc n v.toNat
  | .storeMask v mask => storeBy t (barnOf p.src) p.loc 8 (mergeBytes (t.readLe p.loc 8) v.toNat mask)
  | .storeTag tag => tagBy t (barnOf p.src) p.loc tag
  | .atomic o ty _ src cmp _ =>
    if t.poisoned p.loc then discard t (barnOf p.src) p.loc
    else
      let n := ty.ty.width / 8
      let old := t.readLe p.loc n
      if o.writes ty old cmp.toNat then storeBy t (barnOf p.src) p.loc n (o.apply ty old src.toNat) else t
  | _ => t

/-- Performs an accepted write (R295, R333): it is merged with its block, whose code has to verify (R337); but at a block that is poisoned, or whose
code does not verify, the parts of a write of the whole block and its tag replace it as one unit. The block is sealed afresh, unless its page is
shared (R336, R338). A withdrawal that began after the write was accepted does not touch it (R421). -/
def performPosted (s : State) (p : Posted) : State :=
  let w := (s.ctx p.src).world
  let t := verify { s with posted := s.posted.filter (·.id ≠ p.id) } w p.loc p.shared
  let u := match p.whole with
    | some (g, v, tag) =>
      if t.poisoned p.loc then
        blockAt { t with posted := t.posted.filter fun q => !samePart g q } (64 * (p.loc / 64)) v.toNat (if p.shared then 0 else tag)
      else mergePosted t p
    | none => mergePosted t p
  if p.shared then u else reseal u w p.loc

/-! Long memory forms (R207 to R210, R214). The point in progress is PROGRESS - 1, without the bit that says that a running
value is present. -/

/-- Elements of vgath and vscat (R209). -/
def gatherLanes (b : Nat) : Nat := if b = 8 then 8 else 16

/-- The least lane at or above a point whose mask bit is 1. -/
def nextLane (mask : Word) (i n : Nat) : Option Nat := (List.range n).find? fun j => i ≤ j && mask.getLsbD j

/-- The point at which a long form stands. -/
def pointOf (x : Ctx) : Nat := x.progress.toNat % 2 ^ 63 - 1

/-- What a long form does at its point: the point, the offset, the bytes, the row of R159, and whether it reads. -/
structure Point where
  at_ : Nat
  off : Int
  n : Nat
  cls : Class
  reads : Bool

/-- The next point of a long form; none when it is done. -/
def nextPointOf (a : Access) (i : Nat) : Option Point :=
  match a.op with
  | .gather _ b idx mask =>
    (nextLane mask i (gatherLanes b)).map fun j => ⟨j, a.off + (lane 32 idx j * b : Nat), b, Class.load, true⟩
  | .scatter b idx _ mask =>
    (nextLane mask i (gatherLanes b)).map fun j => ⟨j, a.off + (lane 32 idx j * b : Nat), b, Class.store, false⟩
  | .stream o _ _ _ count _ =>
    if i < count then some ⟨i, a.off + (64 * i : Nat), 64, if o = .scale then Class.rescale else Class.load, true⟩ else none
  | .tileCopy _ toTile _ rows =>
    if i < 16 * rows then some ⟨i, a.off + (64 * i : Nat), 64, if toTile then Class.load else Class.store, toTile⟩ else none
  | _ => none

/-- The reduction of a streaming form. -/
def StreamOp.red : StreamOp → RedOp
  | .max => .max
  | .min => .min
  | _ => .sum

/-- Key of an accumulator element (R211). -/
def tileKey (barn tile row col : Nat) : Nat := ((8 * barn + tile) * 32 + row) * 256 + col

/-- The 16 elements of a chunk of tile rows, as 64 bytes (R214). -/
def tileChunk (s : State) (barn tile first i : Nat) : Nat :=
  packLanes 32 ((List.range 16).map fun j => (mget 0 s.tiles (tileKey barn tile (first + i / 16) (16 * (i % 16) + j))).toNat)

/-- Writes a chunk of tile rows. -/
def setTileChunk (s : State) (barn tile first i v : Nat) : State :=
  (List.range 16).foldl (fun s j =>
    { s with tiles := mput 0 s.tiles (tileKey barn tile (first + i / 16) (16 * (i % 16) + j)) (BitVec.ofNat 32 (v / 2 ^ (32 * j))) }) s

/-- Sets the point of a long form, keeping the bit that says that a running value is present (R208). -/
def setPoint (s : State) (i : Nat) : State :=
  s.modMe fun x => { x with progress := (if x.progress.getLsbD 63 then BitVec.ofNat 64 (2 ^ 63) else 0) + BitVec.ofNat 64 (i + 1) }

/-- The lanes of a chunk scaled by a factor (R210, R194). -/
def scaleLane (t : Ty) (x f : Nat) : Nat := if t.isFp then fop2 t .rne Val.mul x f else wrap t.width (t.int x * t.int f)

/-- A chunk after lscale (R210). -/
def scaledChunk (t : Ty) (f v : Nat) : Block := ofLanes t.width fun i => scaleLane t (v / 2 ^ (t.width * i) % 2 ^ t.width) f

/-- The bytes of word `w` of a chunk whose lanes are on. -/
def laneBytes (t : Ty) (mask : Word) (w : Nat) : BitVec 8 :=
  BitVec.ofNat 8 (((List.range 8).filter fun b => mask.getLsbD ((64 * w + 8 * b) / t.width)).map fun b => 2 ^ b).sum

/-- The writes of one chunk of lscale, as offset, value and byte mask: one for each aligned word of which a lane is on (R162, R210, R296). -/
def scaledParts (t : Ty) (mask : Word) (f v : Nat) : List (Nat × Nat × BitVec 8) :=
  (List.range 8).filterMap fun w =>
    if laneBytes t mask w = 0 then none else some (8 * w, lane 64 (scaledChunk t f v) w, laneBytes t mask w)

/-- What a read at a point of a long form leaves (R208). -/
def absorbLong (s : State) (a : Access) (i v : Nat) : State :=
  match a.op with
  | .gather vd b _ _ =>
    let old := s.v vd
    s.setV vd (ofLanes (8 * b) fun j => if j = i then v % 2 ^ (8 * b) else lane (8 * b) old j)
  | .stream o t d mask _ _ =>
    let run := if s.me.progress.getLsbD 63 then some (s.w d).toNat else none
    match combineOpt o.red (compTy t) run (reduceLanes o.red t mask (BitVec.ofNat 512 v)) with
    | some r => (s.setW d (BitVec.ofNat 64 r)).modMe fun x => { x with progress := x.progress ||| BitVec.ofNat 64 (2 ^ 63) }
    | none => s
  | .tileCopy t _ first _ => setTileChunk s s.myBarn t.toNat first i v
  | _ => s

/-- A long form is complete: PROGRESS becomes 0 (R207); a tile form unlocks its tile at its own step (R212). -/
def finishLong (s : State) (a : Access) : State :=
  let t := s.modMe fun x => { x with progress := 0 }
  match a.op with
  | .stream o ty d _ _ _ =>
    if o = .scale || s.me.progress.getLsbD 63 then finish t
    else finish (t.setW d (BitVec.ofNat 64 (identity o.red (compTy ty))))
  | .tileCopy .. => (t.modMe fun x => { x with wait := .tile }).push (.tileOpComplete s.cur.ctx)
  | _ => finish t

/-- A long form has performed the points below `i`: it is complete, or its next point is due. It never stands after its last point (R208). -/
def goOn (s : State) (a : Access) (i : Nat) : State :=
  if (nextPointOf a i).isSome then (setPoint s i).push (.memoryReply s.cur.ctx) else finishLong s a

/-- The latest write that a context has accepted, after which the next element of vscat is performed (R209). -/
def latestPosted (s : State) (c : Nat) : Option Nat := ((s.posted.filter (·.src == c)).getLast?).map (·.id)

/-- The write of a point of a long form: it is accepted (R161), or performed at once in the core's own memory (R46). -/
def acceptPoint (s : State) (a : Access) (i loc : Nat) (shared : Bool) (v : Nat) : State :=
  let c := s.cur.ctx
  if ownCore c loc then
    match a.op with
    | .scatter b _ _ _ => storeAt s loc b v
    | .stream _ t _ mask _ f =>
      (scaledParts t mask (f.toNat % 2 ^ t.width) v).foldl (fun s p =>
        storeAt s (loc + p.1) 8 (mergeBytes (s.readLe (loc + p.1) 8) p.2.1 p.2.2)) s
    | _ => storeAt s loc 64 v
  else
    match a.op with
    | .scatter b _ _ mask =>
      postWords s c loc b v a.k (if nextLane mask 0 (gatherLanes b) == some i then none else latestPosted s c) shared none
    | .stream _ t _ mask _ f =>
      (scaledParts t mask (f.toNat % 2 ^ t.width) v).foldl (fun s p =>
        post s c (loc + p.1) (.storeMask (BitVec.ofNat 512 p.2.1) p.2.2) a.k none shared none) s
    | _ => postWords s c loc 64 v a.k none shared none

/-- The data that a point of a long form writes. -/
def pointData (s : State) (a : Access) (i : Nat) : Nat :=
  match a.op with
  | .scatter b _ data _ => lane (8 * b) data i
  | .tileCopy t _ first _ => tileChunk s s.myBarn t.toNat first i
  | _ => 0

/-- The tile entry of the context at issue leaves its queue (R363). -/
def leaveTile (s : State) : State := s.modCore s.myCore fun x => { x with tents := x.tents.erase s.cur.ctx }

/-- A late fault of a long form; a tile form gives up its entry and keeps its lock (R219). -/
def longFault (s : State) (a : Access) (f : FaultInfo) : State :=
  match a.op with
  | .tileCopy .. | .matrix .. => raise (leaveTile s) f.lateOf
  | _ => raise s f.lateOf

/-- Whether a tile form is at the head of its core's tile entries (R363); the other forms hold none. -/
def tileHead (s : State) (a : Access) : Bool :=
  match a.op with
  | .tileCopy .. | .tileZero _ | .matrix .. => (s.core s.myCore).tents.head? == some s.cur.ctx
  | _ => true

/-- What a point of a long form does at its location, after its guards (R163, R164): the access is performed or accepted, and what it read is
taken; a chunk of 64 bytes is read word by word outside the core's own memory (R162, R296). The second part says whether the point is done.
None: the context goes on waiting. -/
def doPoint (s : State) (a : Access) (q : Point) (loc addr : Nat) (shared writes : Bool) : Except FaultInfo (Option (State × Bool)) := do
  let i := q.at_
  match ← (if writes then guardWrite s s.cur.ctx loc else .ok (some s)) with
  | none => .ok none
  | some t =>
    let done (v : Nat) : State := if writes then acceptPoint t a i loc shared v else absorbLong t a i v
    if !q.reads then .ok (some (acceptPoint t a i loc shared (pointData t a i), true))
    else if q.n < 64 || ownCore s.cur.ctx loc then do
      let (_, g) ← doPrim t loc addr shared (.read q.n)
      .ok (some (done g.data, true))
    else
      match ← nextWord t a loc addr shared with
      | .inr u => .ok (some (u, false))
      | .inl ps => .ok (some ((done (unitBytes ps)).modMe fun x => { x with acc := some { a with part := [], at_ := none } }, true))

/-- One point of a long form (R207). None: it goes on waiting. A point of lscale reads and then writes (R210). -/
def serveLong (s : State) (a : Access) : Option State :=
  let c := s.cur.ctx
  if !tileHead s a then none else
  match nextPointOf a (pointOf s.me) with
  | none => some (finishLong s a)
  | some q =>
    let s := setPoint s q.at_
    let writes := !q.reads || q.cls.rights.getLsbD 1
    match accessSteps s a.k q.cls q.off q.n q.n with
    | .error f => some (longFault s a f)
    | .ok addr =>
      if heldByChannel s s.myCore a.k addr q.n writes then none
      else
        match reachOf s a addr writes with
        | .miss _ _ va => some (missAt s c va writes)
        | .far j off =>
          if postedTo s c (farLoc j off) q.n then none
          else if q.reads then some (request s c j off none (.read q.n))
          else
            let v := pointData s a q.at_
            some (goOn (postFar s c j off (.store q.n (BitVec.ofNat 512 v)) a.k (.write q.n v)) a (q.at_ + 1))
        | .here loc shared =>
          let s := verify s s.me.world loc shared
          if lockedOut s c loc q.n || (q.reads && postedTo s c loc q.n) then none
          else if !routerOk s c loc then some (longFault s a (routerFault addr))
          else if writes && a.part.isEmpty && withdrawn s loc then some (longFault s a (fltAt .poison 0 addr))
          else
            match doPoint s a q loc addr shared writes with
            | .error f => some (longFault s a f)
            | .ok none => none
            | .ok (some (t, done)) => some (if done then goOn t a (q.at_ + 1) else t)

/-- Whether a form is a tile copy, which waits with its tile locked (R212). -/
def AccOp.isTileCopy : AccOp → Bool
  | .tileCopy .. => true
  | _ => false

/-- A long form in the core's own memory that a channel or a lock holds up: it waits in the retry latch (R11, R23, R171); a tile copy keeps its
entry and its tile (R212). -/
def holdLong (s : State) (a : Access) : State := if a.op.isTileCopy then leave s a .reply (.memoryReply s.cur.ctx) else waitCond s

/-- A long form whose last point has been performed in the pipeline: a tile copy still waits for its completion (R212). -/
def endOwn (s : State) (a : Access) : State :=
  if a.op.isTileCopy then leave (s.modMe fun x => { x with progress := 0 }) a .tile (.tileOpComplete s.cur.ctx) else finishLong s a

/-- A fault of a form in the pipeline: a tile form gives up its entry (R219). -/
def ownFault (s : State) (a : Access) (f : FaultInfo) : State := raise (if a.op.isTileCopy then leaveTile s else s) f

/-- The points of a long form in the core's own memory, performed in its pipeline in issue order (R46, R161, R297); a point elsewhere leaves the
core. -/
def runOwn : Nat → State → Access → State
  | 0, s, a => leave s a .reply (.memoryReply s.cur.ctx)
  | n + 1, s, a =>
    match nextPointOf a (pointOf s.me) with
    | none => endOwn s a
    | some q =>
      let t := setPoint s q.at_
      let writes := !q.reads || q.cls.rights.getLsbD 1
      match accessSteps t a.k q.cls q.off q.n q.n with
      | .error f => ownFault t a f
      | .ok addr =>
        match routeOf t t.cur.ctx a.k addr with
        | .here loc =>
          if !ownCore t.cur.ctx loc then leave t a .reply (.memoryReply t.cur.ctx)
          else if heldByChannel t t.myCore a.k addr q.n writes || lockedOut t t.cur.ctx loc q.n then holdLong t a
          else
            match doPoint t a q loc addr false writes with
            | .error f => ownFault t a (servedFault false f)
            | .ok none => holdLong t a
            | .ok (some (u, _)) => runOwn n (setPoint u (q.at_ + 1)) a
        | _ => leave t a .reply (.memoryReply t.cur.ctx)

/-- An access of a waiting context reaches its memory. -/
def serve (s : State) (a : Access) : Option State :=
  if a.op == .line then serveLine s a else if a.op.isLong then serveLong s a else serveOne s a

end Sys2Proof.Machine
end

