-- ==== Sys2Proof/Machine/Atomic.lean ====
section
/-! DEFINITION. The returning atomics and the no-return reductions (R181 to R185). -/

namespace Sys2Proof.Machine

/-- The width of an atomic in bytes (R160). -/
def atomicBytes (t : ATy) : Nat := t.ty.width / 8

/-- A returning atomic (R182): refused in reproducible mode through an atomic fraction (R185). -/
def atomicForm (o : AtomOp) (t : ATy) (d : WReg) (m : MemOp) (sr : WReg) (rel : Bool) (s : State) : Out :=
  issue { repro := (s.k m.k).kind == 3, top := max (topOf [d, sr]) (topM m) } (fun s => do
    let off := offsetOf s m
    let _ ← accessSteps s (s.k m.k) Class.atomic off (atomicBytes t) (atomicBytes t)
    .ok (beginAccess s (.atomic o t (some d) (s.w sr) (s.w d) rel) (s.k m.k) off (atomicBytes t) false)) s

/-- A reduction (R182, R183): posted unless it carries acq; a floating-point sum is refused in reproducible mode through an atomic
fraction (R185). -/
def reduceForm (o : AtomOp) (t : ATy) (m : MemOp) (sr : WReg) (acq rel : Bool) (s : State) : Out :=
  issue { repro := (s.k m.k).kind == 3 && o == .add && t.isFp, top := max (topOf [sr]) (topM m) } (fun s => do
    let off := offsetOf s m
    let _ ← accessSteps s (s.k m.k) Class.atomic off (atomicBytes t) (atomicBytes t)
    .ok (beginAccess s (.atomic o t none (s.w sr) 0 rel) (s.k m.k) off (atomicBytes t) (!acq))) s

/-- aswap (R181). Its waiting orders it as acq does (R183, R299). -/
def execAswap (t : ATy) (d : WReg) (m : MemOp) (sr : WReg) (_acq rel : Bool) (s : State) : Out :=
  atomicForm .swap t d m sr rel s

/-- aadd (R181). Its waiting orders it as acq does (R183, R299). -/
def execAadd (t : ATy) (d : WReg) (m : MemOp) (sr : WReg) (_acq rel : Bool) (s : State) : Out :=
  atomicForm .add t d m sr rel s

/-- aand (R181). Its waiting orders it as acq does (R183, R299). -/
def execAand (t : ATy) (d : WReg) (m : MemOp) (sr : WReg) (_acq rel : Bool) (s : State) : Out :=
  atomicForm .and t d m sr rel s

/-- aor (R181). Its waiting orders it as acq does (R183, R299). -/
def execAor (t : ATy) (d : WReg) (m : MemOp) (sr : WReg) (_acq rel : Bool) (s : State) : Out :=
  atomicForm .or t d m sr rel s

/-- axor (R181). Its waiting orders it as acq does (R183, R299). -/
def execAxor (t : ATy) (d : WReg) (m : MemOp) (sr : WReg) (_acq rel : Bool) (s : State) : Out :=
  atomicForm .xor t d m sr rel s

/-- amax (R181). Its waiting orders it as acq does (R183, R299). -/
def execAmax (t : ATy) (d : WReg) (m : MemOp) (sr : WReg) (_acq rel : Bool) (s : State) : Out :=
  atomicForm .max t d m sr rel s

/-- amin (R181). Its waiting orders it as acq does (R183, R299). -/
def execAmin (t : ATy) (d : WReg) (m : MemOp) (sr : WReg) (_acq rel : Bool) (s : State) : Out :=
  atomicForm .min t d m sr rel s

/-- acas (R181). Its waiting orders it as acq does (R183, R299). -/
def execAcas (t : ATy) (d : WReg) (m : MemOp) (sr : WReg) (_acq rel : Bool) (s : State) : Out :=
  atomicForm .cas t d m sr rel s

/-- redadd (R181, R183). -/
def execRedadd (t : ATy) (m : MemOp) (sr : WReg) (acq rel : Bool) (s : State) : Out :=
  reduceForm .add t m sr acq rel s

/-- redand (R181, R183). -/
def execRedand (t : ATy) (m : MemOp) (sr : WReg) (acq rel : Bool) (s : State) : Out :=
  reduceForm .and t m sr acq rel s

/-- redor (R181, R183). -/
def execRedor (t : ATy) (m : MemOp) (sr : WReg) (acq rel : Bool) (s : State) : Out :=
  reduceForm .or t m sr acq rel s

/-- redxor (R181, R183). -/
def execRedxor (t : ATy) (m : MemOp) (sr : WReg) (acq rel : Bool) (s : State) : Out :=
  reduceForm .xor t m sr acq rel s

/-- redmax (R181, R183). -/
def execRedmax (t : ATy) (m : MemOp) (sr : WReg) (acq rel : Bool) (s : State) : Out :=
  reduceForm .max t m sr acq rel s

/-- redmin (R181, R183). -/
def execRedmin (t : ATy) (m : MemOp) (sr : WReg) (acq rel : Bool) (s : State) : Out :=
  reduceForm .min t m sr acq rel s

end Sys2Proof.Machine
end

