-- ==== Sys2Proof/Machine/Capability.lean ====
section
/-! DEFINITION. The capability instructions (R173 to R180). -/

namespace Sys2Proof.Machine

/-- k15 is no operand of the capability instructions (R20, R173). -/
def notCode (ks : List KReg) : Except FaultInfo Unit := need (!ks.contains 15) (flt .capRights)

/-- cmov (R174). -/
def execCmov (d a : KReg) (s : State) : Out :=
  issue {} (fun s => do
    notCode [d, a]
    knownKind (s.k a)
    if d = a then .ok (finish s)
    else do
      need (s.k d).isNull (flt .capKind)
      .ok (finish ((s.setK d (s.k a)).setK a Cap.null))) s

/-- cswap (R174). -/
def execCswap (d a : KReg) (s : State) : Out :=
  issue {} (fun s => do
    notCode [d, a]
    knownKind (s.k d)
    knownKind (s.k a)
    .ok (finish ((s.setK d (s.k a)).setK a (s.k d)))) s

/-- cdrop (R174): it waits for the posted accesses made through the capability (R173). -/
def execCdrop (a : KReg) (s : State) : Out :=
  issue {} (fun s => do
    notCode [a]
    let k := s.k a
    if k.isNull then .ok (finish s)
    else do
      need ((k.kind == 1 || k.kind == 5) && k.full && !regionBusy s k) (flt .capKind)
      if pinned s s.cur.ctx k then .ok (waitCond s)
      else .ok (finish ((leavesCore s s.myCore k).setK a Cap.null))) s

/-- The kind of the pieces that csplit makes (R175). -/
def splitKind (k : Cap) (atomicMode : Bool) : Option (BitVec 4) :=
  match k.kind.toNat, atomicMode with
  | 1, false => some 2
  | 1, true => some 3
  | 2, false => some 2
  | 3, true => some 3
  | 5, false => some 5
  | 6, false => some 6
  | _, _ => none

/-- The rights that a kind keeps (R28). -/
def keptRights (kind : BitVec 4) (r : BitVec 8) : BitVec 8 :=
  match kind.toNat with
  | 2 => r &&& 0xF1
  | 3 => r &&& 0xF9
  | 5 => r &&& 0xF5
  | 6 => r &&& 0xFB
  | _ => r

/-- csplit (R175). -/
def execCsplit (d a : KReg) (b : WReg) (mode : Bool) (s : State) : Out :=
  issue { top := topOf [b] } (fun s => do
    notCode [d, a]
    let c := s.k a
    let n := (s.w b).toNat
    need (!c.isNull) (flt .capNull)
    need (s.k d).isNull (flt .capKind)
    match splitKind c mode with
    | none => .error (flt .capKind)
    | some new => do
      need (c.fractionable && (new ≠ 3 || c.atomic)) (flt .capRights)
      need (n ≠ 0 && n < c.count.toNat) (fltVal .capBounds 4 n)
      let piece := { c with kind := new, rights := keptRights new c.rights }
      .ok (finish ((s.setK a { piece with count := c.count - BitVec.ofNat 16 n }).setK d { piece with count := BitVec.ofNat 16 n }))) s

/-- The counted join of two pieces (R176). -/
def countedJoin (x y : Cap) : Cap :=
  let n := x.count + y.count
  let r := x.rights &&& y.rights
  if n.toNat = 32768 then
    if x.kind == 2 || x.kind == 3 then { x with count := n, kind := 1, rights := r ||| 0x0A }
    else if x.kind == 6 then { x with count := n, rights := r ||| 0x0A }
    else { x with count := n, rights := r }
  else { x with count := n, rights := r }

/-- Whether two capabilities join by count (R176). -/
def countable (x y : Cap) : Bool :=
  x.base == y.base && x.length == y.length && x.kind == y.kind && x.gen == y.gen && x.world == y.world
    && (x.kind == 2 || x.kind == 3 || x.kind == 5 || x.kind == 6)

/-- Whether two capabilities join by adjacency (R176, R32). -/
def adjacent (x y : Cap) : Bool :=
  x.plainOwned && y.plainOwned && x.world == y.world && x.gen == y.gen && x.rights == y.rights
    && x.base.toNat + x.length.toNat == y.base.toNat && x.length.toNat + y.length.toNat < 2 ^ 32
    && mapRow x.base.toNat == mapRow (y.base.toNat + y.length.toNat - 1)

/-- cjoin (R176). -/
def execCjoin (d a : KReg) (s : State) : Out :=
  issue {} (fun s => do
    notCode [d, a]
    let x := s.k d
    let y := s.k a
    need (!x.isNull && !y.isNull) (flt .capNull)
    if countable x y then .ok (finish ((s.setK d (countedJoin x y)).setK a Cap.null))
    else do
      need (adjacent x y) (flt .capKind)
      .ok (finish ((s.setK d { x with length := x.length + y.length }).setK a Cap.null))) s

/-- cnarrow (R177). -/
def execCnarrow (d a : KReg) (b : WReg) (s : State) : Out :=
  issue { top := topOf [b] } (fun s => do
    notCode [d, a]
    let k := s.k a
    let n := (s.w b).toNat
    need (!k.isNull) (flt .capNull)
    need k.plainOwned (flt .capKind)
    need (s.k d).isNull (flt .capKind)
    need (1 ≤ n && n < k.length.toNat) (flt .capBounds)
    .ok (finish ((s.setK a { k with length := BitVec.ofNat 32 n }).setK d
      { k with base := k.base + BitVec.ofNat 48 n, length := k.length - BitVec.ofNat 32 n }))) s

/-- crights (R178). A conversion of an owned capability to code waits for the accesses made through it (R303); one of code to an
owned capability purges its lines (R173). -/
def execCrights (a : KReg) (mask : BitVec 8) (conv : Bool) (s : State) : Out :=
  issue {} (fun s => do
    notCode [a]
    let k := s.k a
    need (!k.isNull) (flt .capNull)
    knownKind k
    if !conv then .ok (finish (s.setK a { k with rights := k.rights &&& mask }))
    else if k.plainOwned then
      if pinned s s.cur.ctx k then .ok (waitCond s)
      else .ok (finish (s.setK a { k with kind := 5, rights := ((k.rights &&& 0xF5) ||| 0x04) &&& mask }))
    else if k.kind == 5 && k.full then
      .ok (finish ((purgeLines s s.myCore k).setK a { k with kind := 1, rights := ((k.rights &&& 0xFB) ||| 0x02) &&& mask }))
    else .error (flt .capKind)) s

/-- A field of a capability (R179). -/
def capField (k : Cap) (f : BitVec 3) : Word :=
  match f.toNat with
  | 0 => k.base.setWidth 64
  | 1 => k.length.setWidth 64
  | 2 => k.rights.setWidth 64
  | 3 => k.kind.setWidth 64
  | 4 => k.count.setWidth 64
  | 5 => k.gen.setWidth 64
  | _ => k.world.setWidth 64

/-- cinsp (R179). -/
def execCinsp (d : WReg) (a : KReg) (field : BitVec 3) (s : State) : Out :=
  let k := s.k a
  issue { top := topOf [d],
          repro := field == 0 && !k.isNull && (decide (k.base.toNat < 2 ^ 46) || k.kind == 5) }
    (fun s => do
      knownKind (s.k a)
      .ok (finish (s.setW d (capField (s.k a) field)))) s

/-- The slot of cstash and cfetch: its checks and its place in core or barn memory (R180). DESIGN CHOICE (log 24): R180 does not say where the CAP_KIND
of a slot elsewhere stands among the checks of R30; it comes after them; unsafe. -/
def slotSteps (s : State) (m : MemOp) : Except FaultInfo Nat := do
  let addr ← accessSteps s (s.k m.k) Class.slot (offsetOf s m) 16 16
  match place s.myCore addr with
  | .sram _ => .ok addr
  | _ => .error (flt .capKind)

/-- cstash (R180, R173, R189, R298, R312). DESIGN CHOICE (log 24): R180 does not say where the CAP_RIGHTS of another world stands; it comes after the
checks of the capability and before that of the slot's bit, which its memory makes; unsafe. -/
def execCstash (kd : KReg) (m : MemOp) (s : State) : Out :=
  issue { top := topM m } (fun s => do
    notCode [kd]
    let _ ← slotSteps s m
    let c := s.k kd
    need (!c.isNull) (flt .capNull)
    knownKind c
    need (!timedReceive s c && !regionBusy s c) (flt .capKind)
    need (c.world == (s.k m.k).world) (flt .capRights)
    if pinned s s.cur.ctx c || hasPosted s s.cur.ctx then .ok (waitCond s)
    else .ok (beginAccess s (.stash kd) (s.k m.k) (offsetOf s m) 16 false)) s

/-- cfetch (R180). -/
def execCfetch (kd : KReg) (m : MemOp) (s : State) : Out :=
  issue { top := topM m } (fun s => do
    notCode [kd]
    let addr ← slotSteps s m
    if tableSlot s (s.k m.k) addr then .ok (waitCond s)
    else .ok (beginAccess s (.fetchCap kd) (s.k m.k) (offsetOf s m) 16 false)) s

end Sys2Proof.Machine
end

