-- ==== Sys2Proof/Machine/Memory.lean ====
section
/-! DEFINITION. Loads, stores, tags, flag-carrying stores and region locks (R159 to R172). -/

namespace Sys2Proof.Machine

/-- A load through a memory operand (R165 to R167). -/
def loadForm (op : AccOp) (n top : Nat) (m : MemOp) (s : State) : Out :=
  issue { repro := (s.k m.k).kind == 3, top := max top (topM m) } (fun s => do
    let off := offsetOf s m
    let _ ← accessSteps s (s.k m.k) Class.load off n n
    .ok (beginAccess s op (s.k m.k) off n false)) s

/-- A store through a memory operand (R165, R167). -/
def storeForm (op : State → AccOp) (n top : Nat) (m : MemOp) (s : State) : Out :=
  issue { top := max top (topM m) } (fun s => do
    let off := offsetOf s m
    let _ ← accessSteps s (s.k m.k) Class.store off n n
    .ok (beginAccess s (op s) (s.k m.k) off n true)) s

/-- The low bytes of a register as store data. -/
def storeReg (d : WReg) (n : Nat) (s : State) : AccOp := .store n ((s.w d).setWidth 512)

/-- ldb (R165). -/
def execLdb (d : WReg) (m : MemOp) (s : State) : Out :=
  loadForm (.load d 1 false) 1 (topOf [d]) m s

/-- ldh (R165). -/
def execLdh (d : WReg) (m : MemOp) (s : State) : Out :=
  loadForm (.load d 2 false) 2 (topOf [d]) m s

/-- ldw (R165). -/
def execLdw (d : WReg) (m : MemOp) (s : State) : Out :=
  loadForm (.load d 4 false) 4 (topOf [d]) m s

/-- ldd (R165). -/
def execLdd (d : WReg) (m : MemOp) (s : State) : Out :=
  loadForm (.load d 8 false) 8 (topOf [d]) m s

/-- ldbs (R165). -/
def execLdbs (d : WReg) (m : MemOp) (s : State) : Out :=
  loadForm (.load d 1 true) 1 (topOf [d]) m s

/-- ldhs (R165). -/
def execLdhs (d : WReg) (m : MemOp) (s : State) : Out :=
  loadForm (.load d 2 true) 2 (topOf [d]) m s

/-- ldws (R165). -/
def execLdws (d : WReg) (m : MemOp) (s : State) : Out :=
  loadForm (.load d 4 true) 4 (topOf [d]) m s

/-- stb (R165). -/
def execStb (d : WReg) (m : MemOp) (s : State) : Out :=
  storeForm (storeReg d 1) 1 (topOf [d]) m s

/-- sth (R165). -/
def execSth (d : WReg) (m : MemOp) (s : State) : Out :=
  storeForm (storeReg d 2) 2 (topOf [d]) m s

/-- stw (R165). -/
def execStw (d : WReg) (m : MemOp) (s : State) : Out :=
  storeForm (storeReg d 4) 4 (topOf [d]) m s

/-- std (R165). -/
def execStd (d : WReg) (m : MemOp) (s : State) : Out :=
  storeForm (storeReg d 8) 8 (topOf [d]) m s

/-- ldv (R165). -/
def execLdv (vd : VReg) (m : MemOp) (s : State) : Out :=
  loadForm (.loadV vd) 64 (topV vd) m s

/-- stv (R165). -/
def execStv (vd : VReg) (m : MemOp) (s : State) : Out :=
  storeForm (fun s => .store 64 (s.v vd)) 64 (topV vd) m s

/-- The checks of a flag-carrying store (R168): the data bytes, the flag word, their alignment, and that they do not overlap. The
result is the device address of the flag word. -/
def flagSteps (s : State) (k : Cap) (off foff : Int) (n : Nat) : Except FaultInfo Nat := do
  let addr ← boundsStep s s.myCore s.me.world k off n
  let flag ← boundsStep s s.myCore s.me.world k foff 8
  alignStep k off n
  alignStep k foff 8
  need (!(decide (off < foff + 8) && decide (foff < off + n))) (fltAt .align 0 flag)
  let _ := addr
  .ok flag

/-- A flag-carrying store (R168). -/
def flagForm (data : State → Block) (n top : Nat) (m : MemOp) (f : WReg) (s : State) : Out :=
  issue { top := max (max top (f.toNat + 1)) (topM m) } (fun s => do
    let k := s.k m.k
    let off := offsetOf s m
    capSteps s k Class.flagStore
    let flag ← flagSteps s k off (s.w f).toNat n
    if k.kind == 6 then
      memberStep s k (k.base.toNat + off).toNat
      memberStep s k flag
    if heldByChannel s s.myCore k flag 8 true then .ok (waitCond s)
    else .ok (beginAccess s (.flagStore n (data s) flag) k off n false)) s

/-- stdf (R168). -/
def execStdf (d : WReg) (m : MemOp) (f : WReg) (s : State) : Out :=
  flagForm (fun s => (s.w d).setWidth 512) 8 (topOf [d]) m f s

/-- stvf (R168). -/
def execStvf (vd : VReg) (m : MemOp) (f : WReg) (s : State) : Out :=
  flagForm (fun s => s.v vd) 64 (topV vd) m f s

/-- The members of a set (R169). -/
def memberSet (lo hi : Word) : List Nat :=
  (List.range 128).filter fun j => if j < 64 then lo.getLsbD j else hi.getLsbD (j - 64)

/-- The checks of wrep for one member (R169). -/
def replicaSteps (s : State) (k : Cap) (off foff : Int) (j : Nat) (present : Bool) : Except FaultInfo Unit := do
  let flag ← flagSteps s k (off + j * 2 ^ 40) (foff + j * 2 ^ 40) 64
  if present then
    memberStep s k (k.base.toNat + off + j * 2 ^ 40).toNat
    memberStep s k flag

/-- The registers of wrep after some members' flags were incremented (R169). -/
def clearMembers (s : State) (r : WReg) (done : List Nat) : State :=
  let clear (base : Nat) (v : Word) : Word :=
    BitVec.ofNat 64 (((List.range 64).map fun i => if v.getLsbD i && !done.contains (base + i) then 2 ^ i else 0).sum)
  (s.setWn r.toNat (clear 0 (s.wn r.toNat))).setWn (r.toNat + 1) (clear 64 (s.wn (r.toNat + 1)))

/-- wrep has heard from every member: it completes, or raises its first refusal after clearing the members that have it (R169). -/
def endReplicate (s : State) (r : WReg) (done : List Nat) (bad : Option FaultInfo) : State :=
  match bad with
  | none => finish s
  | some f => raise (clearMembers s r done) f.lateOf

/-- The data and the flag of wrep at the member that this package holds (R403). -/
def replicateHere (s : State) (loc floc : Nat) (v : Block) (addr flag : Nat) : Except FaultInfo State := do
  need (!s.blockStashed loc && !s.blockStashed floc) (flt .capKind)
  let (s, _) ← doPrim s loc addr false (.write 64 v.toNat)
  let (s, _) ← doPrim s floc flag false .incr
  .ok s

/-- The member of a window address, and its offset there. -/
def memberOff (addr : Nat) : Nat × Nat := ((addr - 2 ^ 47) / 2 ^ 40, addr % 2 ^ 40)

/-- The data of wrep for a member of the set: here, or in a packet, with its flag word when both lie at one member (R169, R398). -/
def replicaData (s : State) (a : Access) (v : Block) (addr flag j : Nat) (acc : List Replica × List Nat × Option FaultInfo) :
    State × List Replica × List Nat × Option FaultInfo :=
  let (left, done, bad) := acc
  let c := s.cur.ctx
  let (m, o) := memberOff addr
  let (fm, fo) := memberOff flag
  let asked (t : State) (target : Nat) (f : Bool) : State × List Replica × List Nat × Option FaultInfo :=
    (t, left ++ [{ tx := s.stamp % 2 ^ 14, target := target, member := j, flag := f }], done, bad)
  match routeOf s c a.k addr, routeOf s c a.k flag with
  | .here loc, .here floc =>
    match replicateHere s loc floc v addr flag with
    | .ok t => (t, left, done ++ [j], bad)
    | .error f => (s, left, done, bad <|> some f)
  | .here loc, _ =>
    match replicateHere1 s loc addr (.write 64 v.toNat) with
    | .ok t => asked (request t c fm fo none .incr) fm true
    | .error f => (s, left, done, bad <|> some f)
  | _, _ => if m = fm then asked (request s c m o (some fo) (.write 64 v.toNat)) m true else asked (request s c m o none (.write 64 v.toNat)) m false
where
  /-- One part at the member that this package holds. -/
  replicateHere1 (s : State) (loc addr : Nat) (p : Prim) : Except FaultInfo State := do
    need (!s.blockStashed loc) (flt .capKind)
    let (s, _) ← doPrim s loc addr false p
    .ok s

/-- The flag of wrep for a member whose data is written at another one (R169). -/
def replicaFlag (s : State) (a : Access) (flag j : Nat) (acc : List Replica × List Nat × Option FaultInfo) :
    State × List Replica × List Nat × Option FaultInfo :=
  let (left, done, bad) := acc
  let (fm, fo) := memberOff flag
  match routeOf s s.cur.ctx a.k flag with
  | .here floc =>
    match replicaData.replicateHere1 s floc flag .incr with
    | .ok t => (t, left, done ++ [j], bad)
    | .error f => (s, left, done, bad <|> some f)
  | _ => (request s s.cur.ctx fm fo none .incr, left ++ [{ tx := s.stamp % 2 ^ 14, target := fm, member := j, flag := true }], done, bad)

/-- The requests of wrep stand in its access; it ends once every member has replied. -/
def keepReplicas (s : State) (a : Access) (r : WReg) (v : Block) (foff : Nat) (acc : List Replica × List Nat × Option FaultInfo) : State :=
  if acc.1 = [] then endReplicate s r acc.2.1 acc.2.2
  else s.modMe fun x => { x with acc := some { a with op := .replicate r v foff acc.1 acc.2.1 acc.2.2 } }

/-- The device addresses of the data and of the flag word of wrep for a member of the set (R169). -/
def replicaAddrs (a : Access) (foff j : Nat) : Nat × Nat := (a.addr + j * 2 ^ 40, a.k.base.toNat + foff + j * 2 ^ 40)

/-- Sends the data to every member of the set, in ascending order (R169, R398). -/
def replicate (s : State) (k : Cap) (off : Int) (foff : Nat) (r : WReg) (v : Block) (set : List Nat) : State :=
  let a : Access := { op := .replicate r v foff [] [] none, k := k, off := off, ins := heldLatch s true false }
  let (t, acc) := set.foldl (fun (p : State × List Replica × List Nat × Option FaultInfo) j =>
    let (addr, flag) := replicaAddrs a foff j
    replicaData p.1 a v addr flag j p.2) ((waitFor s .members none).modMe fun x => { x with acc := some a }, [], [], none)
  keepReplicas t a r v foff acc

/-- Whether the data or the flag word of wrep for a member of the set is held by a copy channel (R23, R161). -/
def replicaHeld (s : State) (k : Cap) (off foff : Int) (j : Nat) : Bool :=
  heldByChannel s s.myCore k (k.base.toNat + off + j * 2 ^ 40).toNat 64 true || heldByChannel s s.myCore k (k.base.toNat + foff + j * 2 ^ 40).toNat 8 true

/-- The undo records of the blocks of this package that wrep is about to change (R163). -/
def replicaLogs (s : State) (k : Cap) (off foff : Int) (set : List Nat) : Except FaultInfo (Option State) :=
  (set.map fun j => [(k.base.toNat + off + j * 2 ^ 40).toNat, (k.base.toNat + foff + j * 2 ^ 40).toNat]).flatten.foldlM (fun (t : Option State) addr =>
    match t with
    | none => .ok none
    | some t => match routeOf t t.cur.ctx k addr with | .here loc => logBlock t t.cur.ctx loc | _ => .ok (some t)) (some s)

/-- wrep (R169). -/
def execWrep (vd : VReg) (m : MemOp) (sr : WReg) (s : State) : Out :=
  issue { top := max (max (topV vd) (sr.toNat + 3)) (topM m) } (fun s => do
    let k := s.k m.k
    let off := offsetOf s m
    let foff : Int := (s.wn (sr.toNat + 2)).toNat
    let set := memberSet (s.wn sr.toNat) (s.wn (sr.toNat + 1))
    capSteps s k Class.replicate
    if set = [] then do
      replicaSteps s k off foff 0 false
      .ok (finish s)
    else do
      set.forM fun j => replicaSteps s k off foff j true
      if hasPosted s s.cur.ctx || set.any (replicaHeld s k off foff) then .ok (waitCond s)
      else
        match ← replicaLogs s k off foff set with
        | none => .ok (waitCond s)
        | some t => .ok (replicate t k off foff.toNat sr (t.v vd) set)) s

/-- ldtag (R167). -/
def execLdtag (d : WReg) (m : MemOp) (s : State) : Out :=
  loadForm (.loadTag d) 64 (topOf [d]) m s

/-- sttag (R167). -/
def execSttag (d : WReg) (m : MemOp) (s : State) : Out :=
  storeForm (fun s => .storeTag ((s.w d).setWidth 16)) 64 (topOf [d]) m s

/-- A context's region lock ends (R172). -/
def releaseLock (s : State) (c : Nat) : State :=
  s.modCore (coreOf c) fun x => { x with locks := x.locks.filter (·.holder ≠ c) }

/-- Whether a region lock can be granted (R170): a register is free, no region of another context overlaps, and no accepted write
to the region is outstanding. -/
def lockFree (s : State) (c start len : Nat) : Bool :=
  let ls := (s.core (coreOf c)).locks
  ls.length < Config.regionLocks && !(ls.any fun l => meets l.start l.len start len)
    && !(s.posted.any fun p => meets p.loc p.op.size start len)

/-- Whether a context has a posted write to the region that it holds (R298). -/
def regionPending (s : State) (c : Nat) : Bool :=
  (s.core (coreOf c)).locks.any fun l => l.holder == c && s.posted.any fun p => p.src == c && meets p.loc p.op.size l.start l.len

/-- Grants a region lock. -/
def grantLock (s : State) (c start len : Nat) : State :=
  s.modCore (coreOf c) fun x => { x with locks := x.locks ++ [{ holder := c, start := start, len := len }] }

/-- The checks of lock (R170). The result is the start of the region as a device address. -/
def lockSteps (s : State) (k : Cap) (off : Int) (len : Nat) : Except FaultInfo Nat := do
  need (!k.isNull) (flt .capNull)
  need (Class.load.kinds.contains k.kind.toNat && !(k.kind == 1 && k.versioned)) (flt .capKind)
  need (genOk s k) (flt .capKind)
  need (s.me.sys || k.world == s.me.world) (flt .capRights)
  let start := (k.base.toNat + off).toNat
  let addr48 := wrap 48 (k.base.toNat + off)
  need (0 ≤ off && 64 ≤ len && len ≤ Config.coreBytes && off + len ≤ k.length.toNat
    && start + len ≤ Config.coreBytes) (fltAt .capBounds 0 addr48)
  need (s.me.sys || (!outsidePart s s.me.world (coreLoc s.myCore start)
    && !outsidePart s s.me.world (coreLoc s.myCore (start + len - 1)))) (fltAt .capBounds 14 addr48)
  need (start % 64 = 0 && len % 64 = 0) (fltAt .align 0 addr48)
  .ok start

/-- lock (R170): the region that the context holds is released first; then the lock is granted, or waited for. -/
def execLock (m : MemOp) (l : WReg) (s : State) : Out :=
  issue { priv := 1, top := max (topOf [l]) (topM m) } (fun s => do
    let len := (s.w l).toNat
    let start ← lockSteps s (s.k m.k) (offsetOf s m) len
    let loc := coreLoc s.myCore start
    let t := releaseLock s s.cur.ctx
    if regionPending s s.cur.ctx then .ok (waitCond s)
    else if lockFree t s.cur.ctx loc len then .ok (finish (grantLock t s.cur.ctx loc len))
    else .ok ((waitFor t (.lock loc len) (some (heldLatch t true false))).push (.lockGrant s.cur.ctx))) s

/-- unlock (R172), after every earlier access of the context to the region (R298). -/
def execUnlock (s : State) : Out :=
  issue { priv := 1 } (fun s => .ok (if regionPending s s.cur.ctx then waitCond s else finish (releaseLock s s.cur.ctx))) s

end Sys2Proof.Machine
end

