-- ==== Sys2Proof/Machine/Message.lean ====
section
/-! DEFINITION. Rings (R226 to R234), the move engine (R369 to R374, R396), and the steps that write a slot, copy a buffer and resend a
message. -/

namespace Sys2Proof.Machine

/-! Ring ends. -/

/-- The checks of a send end (R230): kind, right and world, generation. -/
def sendEndSteps (s : State) (k : Cap) : Except FaultInfo Unit := do
  need (!k.isNull) (flt .capNull)
  need (k.kind == 4 && !k.full) (flt .capKind)
  need (k.world == s.me.world && k.send) (flt .capRights)
  need (genOk s k) (flt .capKind)

/-- The checks of a receive end (R232). -/
def recvEndSteps (s : State) (k : Cap) : Except FaultInfo Unit := do
  need (!k.isNull) (flt .capNull)
  need (k.kind == 4 && k.full) (flt .capKind)
  need (k.world == s.me.world) (flt .capRights)
  need (genOk s k) (flt .capKind)

/-- k15 is no operand of these forms (R225). -/
def notK15 (ks : List KReg) : Except FaultInfo Unit := need (!ks.contains 15) (flt .capRights)

/-- Registers that a payload of `len` bytes takes. -/
def payloadRegs (len : Nat) : Nat := (len + 7) / 8

/-- The payload of a message: `len` bytes from consecutive registers (R230). -/
def payloadOf (s : State) (b : WReg) (len : Nat) : BitVec 384 :=
  BitVec.ofNat 384 (packLanes 64 ((List.range (payloadRegs len)).map fun i => (s.wn (b.toNat + i)).toNat) % 2 ^ (8 * len))

/-! The move engine. -/

/-- Whether two launches count as one for sends (R55, R312). -/
def sameGroup (s : State) (a b : Nat) : Bool :=
  a == b || (match hitchOf s a, hitchOf s b with | some x, some y => x.id == y.id | _, _ => false)

/-- Whether a base lies in rows 1 to 3 of R43. -/
def nearBase (k : Cap) : Bool := lowRow k.base.toNat

/-- Blocks of the run that a byte copy takes (R371). -/
def runBlocks (k : Cap) : Nat := (k.base.toNat % 64 + k.length.toNat + 63) / 64

/-- The barn of a port in this package. -/
def portBarn (port : Nat) : Nat := locBarn port

/-- Whether the engine copies the bytes of a capability (R370, R396). -/
def needsCopy (from_ port : Nat) (far : Bool) (k : Cap) : Bool := nearBase k && k.plainOwned && (far || portBarn port ≠ barnOf from_)

/-- The checks at issue of a capability that a send carries (R189, R230, R312, R374, R396). -/
def carrySteps (s : State) (k : Cap) (port : Nat) (far : Bool) : Except FaultInfo Unit := do
  need (!k.isNull) (flt .capNull)
  knownKind k
  need k.send (flt .capRights)
  need (!regionBusy s k && !timedReceive s k) (flt .capKind)
  need (!far || !(k.kind == 6 || (k.kind == 4 && k.full) || (decide (2 ^ 46 ≤ k.base.toNat) && decide (k.base.toNat < 2 ^ 47)))) (flt .capKind)
  need (!needsCopy s.cur.ctx port far k || runBlocks k ≤ Config.poolBlocks) (fltVal .capBounds 0 k.length.toNat)

/-- The base that a rights-only transfer delivers (R370); the receiving context is the one that holds the ring's receive end. -/
def movedBase (s : State) (from_ port : Nat) (k : Cap) : Nat :=
  let b := k.base.toNat
  let c := coreOf from_
  let rc := coreOf (homeOf (s.ring port).owner)
  if !lowRow b then b
  else if portBarn port ≠ barnOf from_ then meshForm c b
  else if b < Config.coreBytes && rc ≠ c then
    if 0x40000 ≤ b && b + k.length.toNat ≤ Config.coreBytes then 0x1200000 + c % 4 * 0x40000 + (b - 0x40000) else meshForm c b
  else b

/-- The hitch form of a mesh-SRAM base of a member (R396). -/
def hitchForm (member b : Nat) : Nat := if isSram b then 2 ^ 47 + member * 2 ^ 40 + b % 2 ^ 40 else b

/-- Frees the runs of a barn's receive pool whose buffers lie within a range of it (R371). -/
def freeRun (s : State) (barn off len : Nat) : State :=
  s.modBarn barn fun b => { b with pool := b.pool.filter fun r => !(off ≤ r.1 && r.1 + r.2 ≤ off + len) }

/-- Where a capability's buffer lies in the receive pool of a barn: the barn, and its offset in the pool. -/
def runOf (core : Nat) (k : Cap) : Option (Nat × Nat) :=
  match place core k.base.toNat with
  | .sram loc => if !isCoreMem loc && Config.poolBase ≤ locOff loc then some (locBarn loc, locOff loc - Config.poolBase) else none
  | _ => none

/-- The blocks of the pool that a buffer takes: the first and their number. -/
def poolRun (r : Nat × Nat) : Nat × Nat := (r.1 / 64, (r.1 % 64 + r.2 + 63) / 64)

/-- The lowest free run of `n` blocks of a receive pool (R371). -/
def freeRunAt (taken : List (Nat × Nat)) (n : Nat) : Option Nat :=
  let runs := taken.map poolRun
  (((0 :: runs.map fun r => r.1 + r.2).filter fun p => p + n ≤ Config.poolBlocks && !runs.any fun r => meets r.1 r.2 p n)).min?

/-- Whether every byte of a buffer can be read (R333). -/
def rangeReadable (s : State) (loc n : Nat) : Bool :=
  !(s.poison.any fun p => meets (64 * p.1) 64 loc n) && !withdrawn s loc

/-- Zeroes the bytes of a range. -/
def zeroBytes (s : State) (loc n : Nat) : State := { s with mem := s.mem.filter fun c => !(loc ≤ c.1 && c.1 < loc + n) }
/-- Clears the capability slots of a range. -/
def zeroSlots (s : State) (loc n : Nat) : State := { s with slots := s.slots.filter fun c => !(loc ≤ 16 * c.1 && 16 * c.1 < loc + n) }
/-- Sets the tags of a range to 0. -/
def zeroTags (s : State) (loc n : Nat) : State := { s with tags := s.tags.filter fun c => !(loc ≤ 64 * c.1 && 64 * c.1 < loc + n) }

/-- Copies a buffer of `n` bytes at `src` into the run of blocks at `run` (R372): bytes and tags, and every slot that lies wholly within
the buffer. -/
def copyBuffer (s : State) (src n run : Nat) : State :=
  let o := src % 64
  let len := 64 * ((o + n + 63) / 64)
  let t := zeroSlots (zeroTags (zeroBytes s run len) run len) run len
  let t := (List.range n).foldl (fun t i => t.writeByte (run + o + i) (s.readByte (src + i))) t
  let t := (List.range (len / 64)).foldl (fun t i => (t.setTag (run + 64 * i) (s.tag (src - o + 64 * i))).setPoison (run + 64 * i) false) t
  ((s.slots.filter fun c => src ≤ 16 * c.1 && 16 * c.1 + 16 ≤ src + n)).foldl (fun t c =>
    ((t.setSlot (16 * c.1) Cap.null).setSlot (run + (16 * c.1 - (src - o))) c.2).writeLe (16 * c.1) 16 0) t

/-- Moves the slots of a withdrawn byte copy back to their source (R302, R373). -/
def uncopyBuffer (s : State) (src n run : Nat) : State :=
  let o := src % 64
  ((s.slots.filter fun c => run + o ≤ 16 * c.1 && 16 * c.1 + 16 ≤ run + o + n)).foldl (fun t c =>
    (t.setSlot (16 * c.1) Cap.null).setSlot (16 * c.1 - run + (src - o)) c.2) s

/-! Messages in transit. -/

/-- What the latch of a waiting context holds, or its program counter. -/
def heldOf (s : State) (c : Nat) : Latch :=
  (s.ctx c).latch.getD
    { word := 0, codept := (s.ctx c).pc, paired := false, replay := false, noWord := false, entry := none, ops := [] }
/-- The state in which a context's waiting instruction acts. -/
def actHeld (s : State) (c : Nat) : State := actFor s c (heldOf s c)

def msgOf (s : State) (id : Nat) : Option Msg := s.msgs.find? (·.id == id)

/-- Whether a message goes to another package. -/
def Msg.far (m : Msg) : Bool := decide (2 ^ 47 ≤ m.port)

/-- The block-transfer engine of a channel, or of the move engine (channel 0), of a core's barn: yard × 12 + engine (R375). -/
def engineOf (i n : Nat) : Nat :=
  let b := barnOfCore i
  12 * yardOf b + (barnX b + barnY b + n) % 12
/-- The number of the request of a byte copy to another package at its engine; the whole copy is one request (R375). -/
def moveReq (id : Nat) : Nat := 2 ^ 60 + id
/-- The request of a byte copy leaves its engine. -/
def moveOff (s : State) (m : Msg) : State :=
  if m.copy && m.far then
    let e := engineOf (coreOf m.from_) 0
    s.setEngine e { s.engine e with reqs := (s.engine e).reqs.filter (·.id ≠ moveReq m.id) }
  else s
def dropMsg (s : State) (id : Nat) : State :=
  let t := match msgOf s id with | some m => moveOff s m | none => s
  { t with msgs := s.msgs.filter (·.id ≠ id) }
def putMsg (s : State) (m : Msg) : State := { s with msgs := s.msgs.map fun x => if x.id == m.id then m else x }

/-- The port of a message in this package. -/
def Msg.ring (m : Msg) : Nat := if m.far then 2 ^ 40 + m.port % 2 ^ 40 else m.port

/-- The step at which a message is next acted on. -/
def arrivalOf (m : Msg) : Instr :=
  match m.kind with
  | .untimed => .ringSlotWrite (.here m.id)
  | .timed => .timedMessageArrival (.here m.id)
  | .recall => .recallArrival (.here m.id)
  | .ack => .acknowledgement (.here m.id)

/-- A message begins its way. -/
def emit (s : State) (m : Msg) : State :=
  State.push { s with msgs := s.msgs ++ [{ m with id := s.stamp, dest := if m.far then 0 else (s.heldRing m.ring).launch }], stamp := s.stamp + 1 }
    (if m.copy then .moveByteCopy s.stamp else arrivalOf { m with id := s.stamp })

/-- A message with every field plain. -/
def Msg.plain (kind : MsgKind) (from_ port : Nat) : Msg :=
  { id := 0, kind := kind, from_ := from_, port := port, vrt := 0, tag := 0, defer_ := false, len := 0, payload := 0, cap := Cap.null,
    orig := Cap.null, reg := none, copy := false, colour := none, launch := 0 }

/-- Whether the routers deliver a message of a world to a ring (R41): in its own barn, in a barn of its world, or in a barn of world 0 that
runs the ring's system context. -/
def msgRouterOk (s : State) (world : BitVec 8) (barn port : Nat) : Bool :=
  portBarn port == barn || (s.barn (portBarn port)).world == world || ((s.barn (portBarn port)).world == 0 && (s.ctx (s.ring port).owner).sys)

/-- What a refusal of a ring raises at the sender (R41, R55, R312), none where the ring accepts its launch and its world. -/
def ringRefuses (s : State) (world : BitVec 8) (barn launch port : Nat) (service : Bool) : Option FaultInfo :=
  let r := s.ring port
  if !msgRouterOk s world barn port then some (fltAt .capRights 13 0).lateOf
  else if !service && (match s.launch? r.launch with | some l => l.desc.repro | none => false) && !sameGroup s launch r.launch then
    some (flt .capRights).lateOf
  else if r.timed && !sameGroup s launch r.launch then some (flt .capRights).lateOf
  else none

/-- The world, barn and launch under which a message is sent. -/
def msgWorld (s : State) (m : Msg) : BitVec 8 := if m.launch = 0 then (s.ctx m.from_).world else ((s.launch? m.launch).map (·.world)).getD 0
def msgLaunch (s : State) (m : Msg) : Nat := if m.launch = 0 then (s.ctx m.from_).launch else m.launch

/-- The slot that a message writes (R229). -/
def slotOf (m : Msg) : Slot :=
  { state := .pending, vrt := m.vrt, tag := m.tag, defer_ := m.defer_, cap := !m.cap.isNull, len := m.len, payload := m.payload,
    side := m.cap, took := Cap.null, sender := m.from_, remote := none }

/-- Bits [127:64] of a slot's header (R229). -/
def headerHi (x : Slot) : Word :=
  BitVec.ofNat 64 (x.len + 256 * x.cap.toNat + 512 * x.defer_.toNat + 2 ^ 32 * x.tag.toNat)

/-- The byte copy of a buffer is withdrawn (R371, R373): the stashed slots that moved with it return to the sender's buffer `orig`, and the run
in which `cap` was to be delivered, or was delivered, is free again. -/
def unsend (s : State) (c ring : Nat) (far : Bool) (orig cap : Cap) : State :=
  if far || !needsCopy c ring far orig then s
  else
    match runOf (4 * portBarn ring) cap, place (coreOf c) orig.base.toNat with
    | some (b, off), .sram src =>
      freeRun (uncopyBuffer s src orig.length.toNat (barnLoc b (Config.poolBase + off / 64 * 64))) b off cap.length.toNat
    | _, _ => s

/-- Stashed slots that left with a byte copy to another package stand in their buffer again (R302, R373). -/
def restoreSlots (s : State) (cs : List (Nat × Cap)) : State := cs.foldl (fun t c => t.setSlot (16 * c.1) c.2) s

/-- A message returns to its sender: the capability comes back to its register, and the run of a byte copy is free again (R231, R236,
R373). -/
def returnCap (s : State) (m : Msg) : State :=
  let t := if m.copy then s else restoreSlots (unsend s m.from_ m.ring m.far m.orig m.cap) m.slots
  match m.reg with
  | some r => if m.orig.isNull then t else t.setCapOf m.from_ r m.orig
  | none => t

/-- Whether a region lock of another context covers the buffer to which the slots of a withdrawn byte copy go back (R171, R302). -/
def copyLocked (s : State) (c ring : Nat) (far : Bool) (orig : Cap) : Bool :=
  !far && needsCopy c ring far orig && (match place (coreOf c) orig.base.toNat with
    | .sram src => lockedOut s c src orig.length.toNat
    | _ => false)
/-- The same of a message that its ring refuses. -/
def backLocked (s : State) (m : Msg) : Bool := !m.copy && copyLocked s m.from_ m.ring m.far m.orig

/-- A failed release is counted, and its launch loses its results (R242). -/
def releaseFails (s : State) (l : Nat) : State :=
  loseResults (s.modLaunch l fun x => { x with failures := x.failures + 1 }) l

/-- The service core sends the next feed entry of a launch on its feed ring, one at a time (R416); the payload is zero from LEN on (R229). -/
def emitFeed (s : State) (l : Nat) : State :=
  match s.launch? l with
  | some x =>
    match x.feedPort, x.feeds with
    | some p, (len, payload) :: rest =>
      if s.msgs.any fun m => m.kind == .untimed && m.launch == l && !m.defer_ then s
      else
        emit (s.modLaunch l fun x => { x with feeds := rest })
          { Msg.plain .untimed (s.ring p).owner p with tag := 0xFFFE, len := len, payload := BitVec.ofNat 384 (payload.toNat % 2 ^ (8 * len)), launch := l }
    | _, _ => s
  | none => s

/-- The first released action of a launch leaves its queue (R242). -/
def releaseDone (s : State) (l : Nat) : State :=
  (s.modLaunch l fun x => { x with releases := x.releases.tail }).pushOnce (.deferredRelease l)

/-- A message that its ring refuses: the sender parks, or a released action is dropped (R231, R242). -/
def refuseMsg (s : State) (m : Msg) (f : FaultInfo) : State :=
  let t := dropMsg (returnCap s m) m.id
  if m.launch = 0 then raise (actHeld t m.from_) f.lateOf
  else if m.defer_ then (releaseDone (releaseFails t m.launch) m.launch)
  else emitFeed t m.launch

/-- The send log of an actor (R317). -/
def modLog (s : State) (c : Nat) (f : List SendLog → List SendLog) : State :=
  s.modCtx c fun x => { x with loft := { x.loft with sends := f x.loft.sends } }

/-- A timed send that is refused: SEQ, the send log and the capability return to what they were (R236). -/
def refuseTimed (s : State) (m : Msg) (f : FaultInfo) : State :=
  let t := modLog s m.from_ fun es => es.filter fun e => e.vrt ≠ m.vrt
  refuseMsg (t.modCtx m.from_ fun x => { x with seq := x.seq - 1 }) m f

/-- A send that is refused after its issue. -/
def refuseSend (s : State) (m : Msg) (f : FaultInfo) : State := if m.kind = .timed then refuseTimed s m f else refuseMsg s m f

/-- A pool buffer whose capability has left its barn by a byte copy returns to its pool; that of a timed send does once the send is committed
(R371). -/
def leavePool (s : State) (m : Msg) : State :=
  if m.kind ≠ .untimed || m.orig.isNull || !needsCopy m.from_ m.ring m.far m.orig then s
  else
    match runOf (coreOf m.from_) m.orig with
    | some (b, off) => if b = barnOf m.from_ then freeRun s b off m.orig.length.toNat else s
    | none => s

/-- A message that its ring has taken: the sender goes on, or the next action is released. -/
def msgDone (s : State) (m : Msg) : State :=
  let t := dropMsg (leavePool s m) m.id
  if m.launch = 0 then finish (actHeld t m.from_) else if m.defer_ then releaseDone t m.launch else emitFeed t m.launch

/-- The cell that the next slot of a ring takes: the lowest one that is free (log 10). -/
def Ring.freeCell (r : Ring) : Nat := ((List.range r.cells).find? fun i => !r.slots.any (·.cell == i)).getD 0
/-- The locations of a cell and of a side slot of a ring (R226). -/
def cellLoc (port i : Nat) : Nat := port + 64 + 64 * i
def sideLoc (r : Ring) (port i : Nat) : Nat := port + 64 + 64 * r.cells + 16 * i

/-- A ring takes a slot at its end. A cell in a poisoned block stays as it is, and the discarded write is counted (R333). -/
def addSlot (s : State) (port : Nat) (x : Slot) : State :=
  let r := s.ring port
  let i := r.freeCell
  let t := if rangeReadable s (cellLoc port i) 64 then s else discard s (portBarn port) (cellLoc port i)
  t.setRing port { r with slots := r.slots ++ [{ x with cell := i }] }

/-- A slot is read (R333): its cell, and the side slot that it uses. -/
def slotStep (s : State) (port : Nat) (x : Slot) : Except FaultInfo Unit := do
  need (rangeReadable s (cellLoc port x.cell) 64) (fltAt .poison 0 (cellLoc port x.cell)).lateOf
  need (!x.cap || rangeReadable s (sideLoc (s.ring port) port x.cell) 16) (fltAt .poison 0 (sideLoc (s.ring port) port x.cell)).lateOf

/-- Whether a region lock of another context covers the memory of a ring (R171, R331). -/
def ringLocked (s : State) (c port : Nat) : Bool := lockedOut s c port (s.ring port).length
/-- Whether a region lock holds up what a message does at its ring: for a context that sends it, another context's; for the service core and the
packages, any one. -/
def slotLocked (s : State) (m : Msg) : Bool := if m.launch = 0 then ringLocked s m.from_ m.ring else lockedAny s m.ring (s.ring m.ring).length

/-- Changes the ring that a send end names, be it away with its launch (R228, R231). -/
def modHeldRing (s : State) (port : Nat) (f : Ring → Ring) : State :=
  if (s.ring port).live then s.setRing port (f (s.ring port))
  else { s with launches := s.launches.map fun l =>
    if l.2.stage == .saved && l.2.savedRings.any (·.1 == port) then
      (l.1, { l.2 with savedRings := mput Ring.reset l.2.savedRings port (f (mget Ring.reset l.2.savedRings port)) })
    else l }

/-- Whether a receive end's context is away, so that its ring refuses with back-pressure (R231). -/
def ringAway (s : State) (port : Nat) : Bool :=
  let x := s.ctx (s.ring port).owner
  x.state == .absent || x.state == .transfer

/-- Whether the ring of a message is away with its launch's paddock, so that it meets back-pressure until the ring is re-homed (R231, R288). -/
def destAway (s : State) (m : Msg) : Bool := match s.launch? m.dest with | some l => l.stage == .saved | none => false

/-- Whether the ring that a message was sent to has ended with its launch: its slot goes to no later ring at that port (R31, R231). -/
def ringEnded (s : State) (m : Msg) : Bool := !(s.ring m.ring).live || (s.ring m.ring).launch ≠ m.dest

/-- A packet to the member that a message's port names (R391, R396). -/
def msgPacket (s : State) (h : Hitch) (m : Msg) : Packet :=
  let p := packetTo s h ((m.port - 2 ^ 47) / 2 ^ 40) (srcField (coreOf m.from_) (numOf m.from_))
  let x := slotOf m
  let q := { p with
    off := BitVec.ofNat 40 m.port, vrt := BitVec.ofNat 64 m.vrt, cap := m.cap.bits, capv := !m.cap.isNull, capTag := m.cap.stag,
    txid := BitVec.ofNat 14 m.id, col := m.colour.getD false, data := if needsCopy m.from_ m.port true m.orig then BitVec.ofNat 64 m.id else 0 }
  match m.kind with
  | .untimed =>
    { q with type := 0x07, flits := [BitVec.ofNat 512 (m.vrt + 2 ^ 64 * (headerHi x).toNat + 2 ^ 128 * m.payload.toNat)] }
  | .timed =>
    { q with type := 0x08, flits := [BitVec.ofNat 512 (m.vrt + 2 ^ 64 * (headerHi x).toNat + 2 ^ 128 * m.payload.toNat)] }
  | .recall => { q with type := 0x09 }
  | .ack => { q with type := 0x0A }

/-- Whether a message's packet has left and its reply is awaited. -/
def msgOut (s : State) (m : Msg) : Bool := s.txs.any fun t => t.1 == m.id % 2 ^ 14

/-- The source of the transactions of a message: its sender, or the releases of a launch. -/
def Msg.source (m : Msg) : Source := if m.launch = 0 then .ctx m.from_ else .release m.launch
/-- Whether blocks of a message's byte copy are on their way (R372). -/
def copying (s : State) (m : Msg) : Bool := s.txs.any fun t => t.2.1 == m.source

/-- A packet of a message's byte copy leaves; the next part of the copy, or the message, follows once every one is answered (R372). -/
def blockOut (s : State) (m : Msg) (p : Packet) : State :=
  { sendPacket s { p with txid := BitVec.ofNat 14 s.stamp } with
    txs := s.txs ++ [(s.stamp % 2 ^ 14, m.source, p.dmem.toNat)], stamp := s.stamp + 1 }

/-- A packet of a byte copy to another package, whose receive pool gives the run (R371): OFF names the pool, and FOFF the place in the run. DESIGN CHOICE
(log 23): R391 gives neither the number of the copy, which stands in DATA, nor the length of its run, which is the packet's WIDTH; unsafe. -/
def copyPacket (p : Packet) (m : Msg) (place : Nat) : Packet :=
  { p with
    type := 0x0F, off := BitVec.ofNat 40 (barnLoc (portBarn m.ring) Config.poolBase), foff := BitVec.ofNat 40 place, data := BitVec.ofNat 64 m.id,
    width := runBlocks m.orig }

/-- The stashed slots of a byte copy leave after its blocks, each in a packet of its own: R391 gives none for them (R372, R396, log 23). -/
def slotsOut (s : State) (h : Hitch) (m : Msg) : State :=
  match place (coreOf m.from_) m.orig.base.toNat with
  | .sram src =>
    let p := packetTo s h ((m.port - 2 ^ 47) / 2 ^ 40) (srcField (coreOf m.from_) (numOf m.from_))
    m.unsent.foldl (fun t c =>
      let k := { c.2 with base := BitVec.ofNat 48 (hitchForm h.me c.2.base.toNat) }
      blockOut t m { copyPacket p m (16 * c.1 - (src - src % 64)) with capv := true, cap := k.bits, capTag := c.2.stag, flits := [0] })
      (putMsg s { m with unsent := [] })
  | _ => s

/-- A message leaves for another package (R393), the slots of its byte copy before it. -/
def sendFar (s : State) (m : Msg) : State :=
  match hitchOf s (msgLaunch s m) with
  | none => refuseSend s m (flt .hitchGone)
  | some h =>
    if m.unsent ≠ [] then (slotsOut s h m).push (arrivalOf m) else
    { sendPacket s (msgPacket s h m) with txs := s.txs ++ [(m.id % 2 ^ 14, m.source, (m.port - 2 ^ 47) / 2 ^ 40)] }

/-- The checks of the ingress router (R394): the hitch that a packet is for, or the status of its refusal. `inside` says whether the target
lies in the member's paddock or slice. -/
def ingress (s : State) (p : Packet) (inside : Launch → Bool) : Except (BitVec 8) (Hitch × Launch) :=
  match s.hitches.find? fun h => h.id == p.hitch.toNat && h.world == p.world && h.gen == p.gen with
  | none => .error FaultCode.capRights.code
  | some h =>
    if h.me ≠ p.dmem.toNat || h.memberOf p.dmem.toNat == .gone then .error FaultCode.hitchGone.code
    else
      match s.launch? h.launch with
      | none => .error FaultCode.hitchGone.code
      | some l => if inside l then .ok (h, l) else .error FaultCode.capRights.code

/-- Whether a mesh-SRAM offset lies in a launch's paddock. -/
def inPaddock (l : Launch) (off : Nat) : Bool :=
  let b := locBarn (2 ^ 40 + off)
  l.px ≤ barnX b && barnX b < l.px + l.pw && l.py ≤ barnY b && barnY b < l.py + l.ph

/-- The message that a packet brings (R391). -/
def packetMsg (p : Packet) (kind : MsgKind) : Msg :=
  let f := (p.flits.head?.getD 0).toNat
  { Msg.plain kind 0 (2 ^ 40 + p.off.toNat) with
    vrt := p.vrt.toNat, tag := BitVec.ofNat 16 (f / 2 ^ 96), defer_ := f / 2 ^ 73 % 2 == 1, len := f / 2 ^ 64 % 256,
    payload := BitVec.ofNat 384 (f / 2 ^ 128), cap := if p.capv then Cap.ofBits p.cap p.capTag else Cap.null }

/-- The run that a byte copy from another package has taken in a barn's receive pool. -/
def landingOf (s : State) (barn : Nat) (p : Packet) : Option Landing :=
  (s.barn barn).landing.find? fun r => r.member == p.smem.toNat && r.copy == p.data.toNat

/-- A packet of a byte copy finds the run of its copy: the lowest free one, which its first packet takes (R371). None: the pool lacks one (R374). -/
def landRun (s : State) (barn : Nat) (p : Packet) : Option (State × Nat) :=
  match landingOf s barn p with
  | some r => some (s, r.first)
  | none => (freeRunAt (s.barn barn).pool p.width).map fun first =>
      (s.modBarn barn fun x => { x with
        pool := x.pool ++ [(64 * first, 64 * p.width)], landing := x.landing ++ [{ member := p.smem.toNat, copy := p.data.toNat, first := first, blocks := p.width }] }, first)

/-- The capability of a message from another package as it is delivered: that of a buffer whose bytes have been copied names its run (R370, R371). -/
def landedCap (s : State) (barn : Nat) (p : Packet) (k : Cap) : Cap :=
  match landingOf s barn p with
  | some r => { k with base := BitVec.ofNat 48 (0x1000000 + Config.poolBase + 64 * r.first + k.base.toNat % 64) }
  | none => k

/-- The message of a byte copy is over: the run is its buffer's where it is `kept`, and free again otherwise (R371). -/
def endLanding (s : State) (barn : Nat) (p : Packet) (kept : Option Cap) : State :=
  match landingOf s barn p with
  | some r => s.modBarn barn fun x => { x with
      landing := x.landing.erase r,
      pool := x.pool.erase (64 * r.first, 64 * r.blocks) ++ (match kept with | some k => [(64 * r.first + k.base.toNat % 64, k.length.toNat)] | none => []) }
  | none => s

/-- RING_SLOT_WRITE (R230, R231, R399): an untimed message reaches its ring once every earlier access of its sender is performed. -/
def execRingSlotWrite (ref : MsgRef) (s : State) : Out :=
  match ref with
  | .here id =>
    match msgOf s id with
    | none => .next s
    | some m =>
      let t := s.did (.ringSlotWrite ref)
      let port := m.ring
      if m.kind ≠ .untimed || m.copy || (m.launch = 0 && hasPosted s m.from_) || msgOut s m || copying s m then .next s
      else if m.far then .next (sendFar t m)
      else if destAway s m then .next (t.push (.backPressureResend id))
      else
        match (if ringEnded s m then some (flt .capKind).lateOf
          else ringRefuses s (msgWorld s m) (barnOf m.from_) (msgLaunch s m) port (m.launch ≠ 0 && !m.defer_)) with
        | some f => .next (if backLocked s m then s else refuseMsg t m f)
        | none =>
          if ringAway s port then .next (t.push (.backPressureResend id))
          else if slotLocked s m then .next s
          else if (s.ring port).cells ≤ (s.ring port).slots.length then
            if m.defer_ && (s.ctx (s.ring port).owner).state == .ended then .next (refuseMsg t m (flt .capKind))
            else .next s
          else .next (msgDone (addSlot t port (slotOf m)) m)
  | .fabric p =>
    match ingress s p fun l => inPaddock l p.off.toNat with
    | .error st => .next (sendPacket (s.gets (.ringSlotWrite ref) p) (replyTo p 0x06 st))
    | .ok (_, l) =>
      if l.stage == .saved then .next (sendPacket (s.gets (.ringSlotWrite ref) p) (replyTo p 0x0B 0)) else
      let m := packetMsg p .untimed
      let r := s.ring m.port
      let b := portBarn m.port
      let refuse : Out := .next (sendPacket (endLanding (s.gets (.ringSlotWrite ref) p) b p none) (replyTo p 0x06 FaultCode.capKind.code))
      if !r.live || r.timed then refuse
      else if ringAway s m.port || lockedAny s m.port r.length then .next (sendPacket (s.gets (.ringSlotWrite ref) p) (replyTo p 0x0B 0))
      else if r.cells ≤ r.slots.length then
        if m.defer_ && (s.ctx r.owner).state == .ended then refuse
        else .next (sendPacket (s.gets (.ringSlotWrite ref) p) (replyTo p 0x0B 0))
      else
        let k := landedCap s b p m.cap
        let t := addSlot (s.gets (.ringSlotWrite ref) p) m.port { slotOf { m with cap := k } with remote := some p }
        .next (sendPacket (endLanding t b p (some k)) (replyTo p 0x06 0))

/-- BACK_PRESSURE_RESEND (R399): a message refused with back-pressure is sent again. -/
def execBackPressureResend (id : Nat) (s : State) : Out :=
  match msgOf s id with
  | some m => .next ((s.did (.backPressureResend id)).push (if m.copy then .moveByteCopy id else arrivalOf m))
  | none => .next s

/-- Whether a stashed slot may cross to another package (R396). -/
def slotCrosses (k : Cap) : Bool :=
  !(k.kind == 6 || (k.kind == 4 && k.full) || (decide (2 ^ 46 ≤ k.base.toNat) && decide (k.base.toNat < 2 ^ 47)))

/-- The blocks of a buffer on their way to another package, each a packet of its own (R372, R391); their slots leave the source. -/
def copyFar (s : State) (h : Hitch) (m : Msg) (src : Nat) : State :=
  let n := m.orig.length.toNat
  let o := src % 64
  let p := packetTo s h ((m.port - 2 ^ 47) / 2 ^ 40) (srcField (coreOf m.from_) (numOf m.from_))
  let t := (List.range (runBlocks m.orig)).foldl (fun t i =>
    let bytes := (List.range 64).map fun j =>
      let a := src - o + 64 * i + j
      if src ≤ a && a < src + n then (s.readByte a).toNat else 0
    blockOut t m { copyPacket p m (64 * i) with btag := s.tag (src - o + 64 * i), flits := [BitVec.ofNat 512 (packLanes 8 bytes)] }) s
  (s.slots.filter fun c => src ≤ 16 * c.1 && 16 * c.1 + 16 ≤ src + n).foldl (fun t c => (t.setSlot (16 * c.1) Cap.null).writeLe (16 * c.1) 16 0) t

/-- A byte copy to another package that is refused there is made again: its slots stand in the source, and the copy is sent once more (R374,
R376). -/
def copyAgain (s : State) (m : Msg) : State :=
  (putMsg (restoreSlots s m.slots) { m with copy := true, cap := m.orig, slots := [], unsent := [] }).push (.backPressureResend m.id)

/-- A byte copy to another package asks for an entry of its block-transfer engine (R375, R376). -/
def requestMove (s : State) (m : Msg) : State :=
  let e := engineOf (coreOf m.from_) 0
  let x := s.engine e
  if x.reqs.any (·.id == moveReq m.id) then s
  else
    State.push (s.setEngine e { x with reqs := x.reqs ++ [{ id := moveReq m.id, core := coreOf m.from_, chan := 8, tries := 0, held := false, reserved := false }] })
      (.bteRequest e (moveReq m.id))

/-- MOVE_BYTE_COPY (R371, R372, R374, R375): the move engine copies a buffer once every earlier access of the sender is performed and no
region lock covers the source (R171, R331); one that is refused leaves its send as it was before (R231, R236). -/
def execMoveByteCopy (id : Nat) (s : State) : Out :=
  match msgOf s id with
  | none => .next s
  | some m =>
    match place (coreOf m.from_) m.orig.base.toNat with
    | .sram src =>
      let t := s.did (.moveByteCopy id)
      let n := m.orig.length.toNat
      if !m.copy || (m.launch = 0 && hasPosted s m.from_) || lockedAny s src n || copying s m then .next s
      else if !rangeReadable s src n then .next (refuseSend t m (fltAt .poison 0 m.orig.base.toNat))
      else if m.far then
        match hitchOf s (msgLaunch s m) with
        | none => .next (refuseSend t m (flt .hitchGone))
        | some h =>
          if (s.slots.any fun c => src ≤ 16 * c.1 && 16 * c.1 + 16 ≤ src + n && !slotCrosses c.2) then .next (refuseSend t m (flt .capKind))
          else if !(s.engine (engineOf (coreOf m.from_) 0)).reqs.any (fun r => r.id == moveReq m.id && r.held) then .next (requestMove s m)
          else
            let out := s.slots.filter fun c => src ≤ 16 * c.1 && 16 * c.1 + 16 ≤ src + n
            let m' := { m with copy := false, slots := out, unsent := out, cap := { m.cap with base := BitVec.ofNat 48 (0x1000000 + Config.poolBase + src % 64) } }
            let u := moveOff (copyFar t h m src) m
            let u := if m.kind = .timed then modLog u m.from_ fun es => es.map fun e => if e.vrt = m.vrt then { e with slots := out } else e else u
            .next ((putMsg u m').push (arrivalOf m'))
      else if destAway s m then .next (t.push (.backPressureResend id))
      else
        match ringRefuses s (msgWorld s m) (barnOf m.from_) (msgLaunch s m) m.ring (m.launch ≠ 0 && !m.defer_) with
        | some f => .next (refuseSend t m f)
        | none =>
          let b := portBarn m.ring
          match freeRunAt (s.barn b).pool (runBlocks m.orig) with
          | none => .next (t.push (.backPressureResend id))
          | some first =>
            let run := barnLoc b (Config.poolBase + 64 * first)
            let u := (copyBuffer t src n run).modBarn b fun x => { x with pool := x.pool ++ [(64 * first + src % 64, n)] }
            let m' := { m with
              copy := false, cap := { m.cap with base := BitVec.ofNat 48 (0x1000000 + Config.poolBase + 64 * first + src % 64) } }
            .next ((putMsg u m').push (arrivalOf m'))
    | _ => .next s

/-- The capability of a message as it is delivered, when no bytes are copied (R370, R396). -/
def travelCap (s : State) (port : Nat) (far : Bool) (k : Cap) : Cap :=
  if k.isNull then k
  else if far then
    let b := meshForm s.myCore k.base.toNat
    { k with base := BitVec.ofNat 48 (match hitchOf s s.me.launch with | some h => hitchForm h.me b | none => b) }
  else { k with base := BitVec.ofNat 48 (movedBase s s.cur.ctx port k) }

/-- The message of a send by the context at issue. -/
def newMsg (s : State) (kind : MsgKind) (e k : Cap) (reg : Option KReg) (len : Nat) (payload : BitVec 384) (vrt : Nat) : Msg :=
  let far := (farEnd s e).isSome
  let port := if far then e.base.toNat else portOf e
  let copy := needsCopy s.cur.ctx (portOf e) far k && !k.isNull
  { Msg.plain kind s.cur.ctx port with
    vrt := vrt, tag := e.stag, len := len, payload := payload, cap := if copy then k else travelCap s (portOf e) far k, orig := k, reg := reg,
    copy := copy }

/-- The context at issue waits for its message to be written (R230). -/
def sendMsg (s : State) (m : Msg) : State :=
  waitFor (emit s m) (.ring s.stamp) (some (heldLatch s true false))

/-- Whether a hitch-form send end names the port of the group's own member, which has left (R449). -/
def goneEnd (s : State) (launch : Nat) (k : Cap) : Bool :=
  decide (2 ^ 47 ≤ k.base.toNat) && (match hitchOf s launch with
    | some h => h.me == (k.base.toNat - 2 ^ 47) / 2 ^ 40 && h.memberOf h.me == .gone
    | none => false)

/-- One more than the highest register that a send names as its payload (R8, R93, R225): the first of them also where LEN is 0. -/
def topPayload (b : WReg) (len : Nat) : Nat := b.toNat + max 1 (payloadRegs len)

/-- send and sendk (R230). -/
def sendForm (ka : KReg) (b : WReg) (kc : Option KReg) (len : Nat) (s : State) : Out :=
  issue { illegal := s.me.actor, top := topPayload b len } (fun s => do
    notK15 (ka :: kc.toList)
    let e := s.k ka
    sendEndSteps s e
    need (!(s.heldRing (portOf e)).timed || (farEnd s e).isSome) (flt .capKind)
    match kc with
    | none => do
      need (!goneEnd s s.me.launch e) (flt .hitchGone).lateOf
      .ok (sendMsg s (newMsg s .untimed e Cap.null none len (payloadOf s b len) 0))
    | some c => do
      let k := s.k c
      carrySteps s k (portOf e) (farEnd s e).isSome
      need (!goneEnd s s.me.launch e) (flt .hitchGone).lateOf
      if pinned s s.cur.ctx k then .ok (waitCond s)
      else
        let m := newMsg s .untimed e k (some c) len (payloadOf s b len) 0
        .ok (sendMsg ((leavesCore s s.myCore k).setK c Cap.null) m)) s

/-- send (R230). -/
def execSend (ka : KReg) (b : WReg) (len : BitVec 6) (s : State) : Out := sendForm ka b none len.toNat s

/-- sendk (R230). -/
def execSendk (ka : KReg) (b : WReg) (kc : KReg) (len : BitVec 6) (s : State) : Out := sendForm ka b (some kc) len.toNat s

/-- The registers that a slot is delivered in (R232). -/
def slotRegs (s : State) (d : WReg) (x : Slot) : State :=
  s.setRegsOf s.cur.ctx d.toNat
    (BitVec.ofNat 64 x.vrt :: headerHi x :: (List.range 6).map fun i => x.payload.extractLsb' (64 * i) 64)

/-- recv and tryrecv (R232, R234). -/
def recvForm (tries : Bool) (d : WReg) (ka kc : KReg) (s : State) : Out :=
  let repro := tries || ((s.k ka).kind == 4 && (s.k ka).full && decide (1 < (s.ring (portOf (s.k ka))).issued))
  issue { illegal := s.me.actor, repro := repro, top := d.toNat + 8 } (fun s => do
    notK15 [ka, kc]
    recvEndSteps s (s.k ka)
    let port := portOf (s.k ka)
    let r := s.ring port
    need (!r.timed) (flt .capKind)
    if ringLocked s s.cur.ctx port then .ok (waitCond s) else
    match r.slots with
    | [] =>
      if tries then .ok (finish ((s.setWn d.toNat 0).setWn (d.toNat + 1) (BitVec.allOnes 64)))
      else .ok (waitCond s)
    | x :: rest => do
      need (!x.cap || (s.k kc).isNull) (flt .capKind)
      slotStep s port x
      let t := slotRegs (s.setRing port { r with slots := rest }) d x
      .ok (finish (if x.cap then ownRing (t.setK kc x.side) x.side s.cur.ctx else t))) s

/-- recv (R232). -/
def execRecv (d : WReg) (ka kc : KReg) (s : State) : Out := recvForm false d ka kc s

/-- tryrecv (R232). -/
def execTryrecv (d : WReg) (ka kc : KReg) (s : State) : Out := recvForm true d ka kc s

/-- Where ringmk may make a ring (R226): the issuing core's own memory, or its barn's memory, the whole buffer in one of them. -/
def ringPlace (s : State) (k : Cap) : Option Nat :=
  match place s.myCore k.base.toNat with
  | .sram loc =>
    if ((isCoreMem loc && locCore loc == s.myCore) || (locUnit loc == 4 && locBarn loc == s.myBarn))
        && place s.myCore (k.base.toNat + (k.length.toNat - 1)) == .sram (loc + (k.length.toNat - 1)) then some loc
    else none
  | _ => none

/-- Whether a range holds a stashed capability. -/
def rangeStashed (s : State) (loc n : Nat) : Bool := s.slots.any fun c => meets (16 * c.1) 16 loc n

/-- The shape of a ring (R226): slots and timed. -/
def ringShape (v : Word) (length : Nat) : Option (Nat × Bool) :=
  let n := (v.extractLsb' 0 13).toNat
  let timed := v.getLsbD 16
  if v.extractLsb' 13 3 = 0 && v.extractLsb' 17 47 = 0 && n ≠ 0 && n ≤ (if timed then 256 else 4096) && 64 + 80 * n ≤ length then
    some (n, timed) else none

/-- Whether a context is the lead context of its launch (R51): its index is 0 at every level, but for a hitch level. -/
def isLead (s : State) (c : Nat) : Bool :=
  let x := s.ctx c
  let idx (i : Nat) : Nat := ((vat 0 x.lvl i).extractLsb' 0 16).toNat
  !x.sup && (List.range 7).all (fun i => idx (i + 1) == 0) && (idx 0 == 0 || (hitchOf s x.launch).isSome)

/-- Whether a ringmk gives the service core its send end of the launch's feed ring (R416). -/
def makesFeed (s : State) (timed : Bool) : Bool :=
  !timed && isLead s s.cur.ctx && (match s.launch? s.me.launch with | some l => l.feed && l.feedPort.isNone | none => false)

/-- ringmk (R226, R235, R312, R416). -/
def execRingmk (ka : KReg) (b : WReg) (s : State) : Out :=
  issue { illegal := s.me.actor && s.me.began, top := topOf [b] } (fun s => do
    notK15 [ka]
    let k := s.k ka
    need (!k.isNull) (flt .capNull)
    need k.plainOwned (flt .capKind)
    need (k.world == s.me.world && k.read && k.write && k.send) (flt .capRights)
    match ringPlace s k with
    | none => .error (flt .capKind)
    | some loc => do
      need (!rangeStashed s loc k.length.toNat) (flt .capKind)
      match ringShape (s.w b) k.length.toNat with
      | none => .error (fltVal .capBounds 0 (s.w b).toNat)
      | some (n, timed) => do
        need (!timed || (s.me.actor && !(s.rings.any fun r => r.2.live && r.2.timed && r.2.owner == s.cur.ctx))) (flt .capKind)
        if pinned s s.cur.ctx k || lockedOut s s.cur.ctx loc k.length.toNat then .ok (waitCond s)
        else
          let g := k.gen + 1
          let feed := makesFeed s timed
          let r : Ring :=
            { live := true, timed := timed, cells := n, origin := k.base.toNat, gen := g, world := k.world, saved := k.rights,
              length := k.length.toNat, reserve := if feed then 32767 else 32768, issued := feed.toNat, owner := s.cur.ctx, launch := s.me.launch, fault := false,
              slots := [], owed := [] }
          let t := finish ((s.setRing loc r).setK ka
            { k with kind := 4, rights := 0x11, gen := g, base := BitVec.ofNat 48 (loc + 64), length := k.length - 64 })
          .ok (if feed then emitFeed (t.modLaunch s.me.launch fun l => { l with feedPort := some loc }) s.me.launch else t)) s

/-- ringsend (R227). DESIGN CHOICE (log 30): no send end of a fault ring is ever issued (R274), and no rule refuses a ringsend that its receive end
names; it takes effect there as R227 says; unsafe. -/
def execRingsend (kd ka : KReg) (b : WReg) (tag : BitVec 16) (s : State) : Out :=
  issue { illegal := s.me.actor && s.me.began, top := topOf [b] } (fun s => do
    notK15 [kd, ka]
    recvEndSteps s (s.k ka)
    let port := portOf (s.k ka)
    let r := s.ring port
    let n := (s.w b).toNat
    need (s.k kd).isNull (flt .capKind)
    need (1 ≤ n && n ≤ r.reserve - 1) (fltVal .capBounds 0 n)
    if ringLocked s s.cur.ctx port then .ok (waitCond s) else
    .ok (finish ((s.setRing port { r with reserve := r.reserve - n, issued := r.issued + 1 }).setK kd
      { world := r.world, gen := r.gen, count := BitVec.ofNat 16 n, kind := 4, rights := 0x10, length := 64, base := BitVec.ofNat 48 port,
        stag := tag }))) s

/-- The base that ringfree gives back: the one that ringmk found, or the mesh-SRAM form where that names other memory (R228). -/
def freedBase (s : State) (port : Nat) (r : Ring) : Nat :=
  if place s.myCore r.origin == .sram port then r.origin else port

/-- ringfree (R228). DESIGN CHOICE (log 30): a hitch-form send end names a ring of another package, whose reserve no packet of R391 reaches, and
raises CAP_KIND; unsafe. -/
def execRingfree (ka : KReg) (s : State) : Out :=
  issue { illegal := s.me.actor && s.me.began } (fun s => do
    notK15 [ka]
    let k := s.k ka
    need (!k.isNull) (flt .capNull)
    need (k.kind == 4) (flt .capKind)
    need (k.world == s.me.world) (flt .capRights)
    need (genOk s k && (farEnd s k).isNone) (flt .capKind)
    let port := portOf k
    let r := s.ring port
    if pinned s s.cur.ctx k || ringLocked s s.cur.ctx port then .ok (waitCond s)
    else if !k.full then .ok (finish ((modHeldRing s port fun r => { r with reserve := r.reserve + k.count.toNat }).setK ka Cap.null))
    else do
      need (!r.timed && !r.fault && r.reserve == 32768 && r.slots.isEmpty) (flt .capKind)
      .ok (finish (((zeroSlots (zeroBytes s port r.length) port r.length).setRing port { Ring.reset with gen := r.gen }).setK ka
        { k with kind := 1, rights := r.saved, base := BitVec.ofNat 48 (freedBase s port r), length := BitVec.ofNat 32 r.length }))) s

end Sys2Proof.Machine
end

