-- ==== Sys2Proof/Machine/Timed.lean ====
section
/-! DEFINITION. Timed actors (R235 to R243, R311 to R330): sends, receipt, checkpoints, rollback, recalls, deferred actions, GVT and
commitment. -/

namespace Sys2Proof.Machine

/-! Names of contexts. -/

/-- The name of an evicted context in what is keyed by contexts: its key, with the address of its image. -/
def evictedName (c adr : Nat) : Nat := 2 ^ 40 * (adr / 64 + 1) + c
/-- Whether a name is that of the context of an image. -/
def namesImage (adr k : Nat) : Bool := k / 2 ^ 40 == adr / 64 + 1
/-- The context of a name: a resident one, or that of an image (R288, log 17). -/
def ctxNamed (s : State) (k : Nat) : Ctx := if k < 2 ^ 40 then s.ctx k else mget Ctx.reset s.images (64 * (k / 2 ^ 40 - 1))
def setNamed (s : State) (k : Nat) (x : Ctx) : State :=
  if k < 2 ^ 40 then s.setCtx k x else { s with images := mput Ctx.reset s.images (64 * (k / 2 ^ 40 - 1)) x }
/-- The name of the context of an image: the one under which it holds a ring, if it holds any. -/
def imageName (s : State) (adr : Nat) : Nat :=
  ((s.rings.find? fun r => namesImage adr r.2.owner).map (·.2.owner)).getD (evictedName 0 adr)
/-- The names of a launch's contexts, resident and evicted. -/
def launchNames (s : State) (n : Nat) : List Nat :=
  s.launchCtxs n ++ (s.images.filter fun p => p.2.launch == n).map fun p => imageName s p.1

/-! The timed ring of an actor. -/

/-- The port of the timed ring whose receive end a context holds (R312). -/
def timedPort (s : State) (c : Nat) : Option Nat := (s.rings.find? fun r => r.2.live && r.2.timed && r.2.owner == c).map (·.1)

/-- The slots of that ring. -/
def timedSlots (s : State) (c : Nat) : List Slot := match timedPort s c with | some p => (s.ring p).slots | none => []

/-- Whether a slot's message has been taken and is not undone: its checkpoint stands (R313). -/
def taken (s : State) (c : Nat) (x : Slot) : Bool :=
  (x.state == .handled || x.state == .doomed) && (s.ctx c).loft.checkpoints.any (·.vrt == x.vrt)

/-- The least VRT among the stragglers and the recalled handled messages (R238, R239, R320). -/
def pendingRoll (s : State) (c : Nat) : Option Nat :=
  let xs := timedSlots s c
  ((xs.filter fun x =>
    (x.state == .doomed && taken s c x) || (x.state == .pending && xs.any fun h => taken s c h && x.vrt < h.vrt)).map (·.vrt)).min?

/-- Changes the slots of a ring. -/
def modSlots (s : State) (port : Nat) (f : List Slot → List Slot) : State :=
  let r := s.ring port
  s.setRing port { r with slots := f r.slots }

/-! Colours (R323). -/

/-- A timed message or recall leaves its barn: it is stamped, counted in S and lowers M. -/
def stampColour (s : State) (m : Msg) : State × Msg :=
  let b := barnOf m.from_
  let x := s.barn b
  let v : Word := BitVec.ofNat 64 m.vrt
  let y :=
    if x.colour then { x with s1 := x.s1 + 1, m1 := if v < x.m1 then v else x.m1 }
    else { x with s0 := x.s0 + 1, m0 := if v < x.m0 then v else x.m0 }
  (s.setBarn b y, { m with colour := some x.colour })

/-- A message is received: R of its colour counts it in its ring's barn. One that comes back from another package, and is not sent again, is counted
in the sender's. -/
def countReceived (s : State) (m : Msg) : State :=
  match m.colour with
  | none => s
  | some c => s.modBarn (if m.far then barnOf m.from_ else portBarn m.ring) fun x => if c then { x with r1 := x.r1 + 1 } else { x with r0 := x.r0 + 1 }

/-- Whether a message leaves its sender's barn and is not stamped yet. -/
def unstamped (m : Msg) : Bool := m.colour.isNone && (m.far || portBarn m.ring ≠ barnOf m.from_)

/-! Acknowledgements (R315). -/

/-- The send-log entry of a VRT. -/
def logEntry (s : State) (c v : Nat) : Option SendLog := (s.ctx c).loft.sends.find? (·.vrt == v)
def markLog (s : State) (c v : Nat) (f : SendLog → SendLog) : State := modLog s c fun es => es.map fun e => if e.vrt == v then f e else e

/-- The acknowledgement of an annihilated message goes to its sender with the capability that it carried; it carries no VRT across the fabric
(R315, R373, R399). -/
def acknowledge (s : State) (port : Nat) (x : Slot) : State :=
  match x.remote with
  | some p =>
    let t := match runOf (4 * portBarn port) x.side with | some (b, off) => freeRun s b off x.side.length.toNat | none => s
    sendPacket t { replyTo p 0x0A 0 with capv := !x.side.isNull, cap := x.side.bits, capTag := x.side.stag }
  | none => emit s { Msg.plain .ack x.sender port with vrt := x.vrt, cap := x.side, launch := (s.ring port).launch }

/-- Whether a capability is still away with a message that its actor has withdrawn and whose acknowledgement is to come (R315, R319). -/
def capAway (x : Ctx) (k : Cap) : Bool := !k.isNull && x.loft.sends.any fun e => !e.live && sameObject e.cap k

/-- Whether the capability of an annihilated message is still away with one that its receiver sent while it handled that message or a later one, so
that the waits of rollbacks run upward in VRT (R302, R321). -/
def sideAway (x : Ctx) (y : Slot) : Bool :=
  !y.side.isNull && x.loft.sends.any fun e => !e.live && decide (y.vrt ≤ e.during) && sameObject e.cap y.side

/-- Annihilated messages whose acknowledgements may go: the owner's undo is complete, and it has the capability of the message back (R302, R314,
R315). -/
def flushOwed (s : State) (port : Nat) : State :=
  let r := s.ring port
  let x := ctxNamed s r.owner
  (r.owed.filter fun y => !sideAway x y).foldl (fun t y => acknowledge t port y) (s.setRing port { r with owed := r.owed.filter (sideAway x) })

/-- A message is annihilated in its ring (R314). -/
def annihilate (s : State) (port : Nat) (x : Slot) : State :=
  let r := s.ring port
  flushOwed (s.setRing port { r with slots := r.slots.erase x, owed := r.owed ++ [x] }) port

/-- The capabilities of the checkpoint to which a rollback goes, but for those that are still away (R319); k15 is not among them. -/
def goalCaps (x : Ctx) : Vector Cap 16 :=
  match x.goal with
  | some g => Vector.ofFn fun i : Fin 16 => if i.val = 15 then vat Cap.null x.k 15 else if capAway x (vat Cap.null g.k i.val) then Cap.null else vat Cap.null g.k i.val
  | none => x.k

/-- An acknowledgement reaches the sender (R315, R373): the byte copy is withdrawn and the log entry removed; recall takes the capability, and a
rollback has it in the register of its checkpoint (R319). -/
def acknowledged (s : State) (c port v : Nat) (k : Cap) : State :=
  match logEntry s c v with
  | none => s
  | some e =>
    let t := restoreSlots (unsend s c port (decide (2 ^ 47 ≤ port)) e.cap k) e.slots
    let t := modLog t c fun es => es.filter fun e => e.vrt ≠ v
    let t := if e.live then
        (match (s.ctx c).wait with
         | .recall w kd => if w = v then finish (if e.cap.isNull then actHeld t c else (actHeld t c).setCapOf c kd e.cap) else t
         | _ => t)
      else t.modCtx c fun x => { x with k := goalCaps x }
    let t := ownRing t e.cap c
    match timedPort t c with
    | some p => flushOwed t p
    | none => t

/-- Whether a context waits for the acknowledgement of a message: its send log names it, with its ring (R317). -/
def awaits (x : Ctx) (port v : Nat) : Bool := x.actor && x.loft.sends.any fun e => e.vrt == v && e.port == port && e.recalled

/-- The send-log entry that an acknowledgement from another package answers, by the number of its transaction (R391): ring and VRT. -/
def answered (s : State) (p : Packet) : Option SendLog :=
  let of (x : Ctx) : Option SendLog :=
    x.loft.sends.find? fun e => e.recalled && e.tx == p.txid.toNat && decide (2 ^ 47 ≤ e.port) && (e.port - 2 ^ 47) / 2 ^ 40 == p.smem.toNat
  ((s.ctxs ++ s.images).findSome? fun c => of c.2) <|> s.launches.findSome? fun l => l.2.saved.findSome? fun c => of c.2

/-- ACKNOWLEDGEMENT (R315): it reaches its actor once the actor is resident. -/
def execAcknowledgement (ref : MsgRef) (s : State) : Out :=
  match ref with
  | .here id =>
    match msgOf s id with
    | some m =>
      if m.kind ≠ .ack then .next s
      else
        let t := dropMsg (s.did (.acknowledgement ref)) id
        match s.ctxs.find? fun c => awaits c.2 m.port m.vrt with
        | some c =>
          let held := match logEntry s c.1 m.vrt with | some e => copyLocked s c.1 m.port (decide (2 ^ 47 ≤ m.port)) e.cap | none => false
          if c.2.state = .transfer || held then .next s else .next (acknowledged t c.1 m.port m.vrt m.cap)
        | none =>
          let later := (s.images.any fun c => awaits c.2 m.port m.vrt) || ((s.launch? m.launch).map fun l => l.stage == .saved).getD false
          .next (if later then s else t)
    | none => .next s
  | .fabric p =>
    let t := s.gets (.acknowledgement ref) p
    match ingress s p fun _ => true with
    | .ok (h, _) =>
      match answered s p with
      | some e =>
        .next (emit t { Msg.plain .ack 0 e.port with vrt := e.vrt, cap := if p.capv then Cap.ofBits p.cap p.capTag else Cap.null, launch := h.launch })
      | none => .next t
    | .error st => .next (sendPacket t (replyTo p 0x06 st))

/-! Arrivals (R314). -/

/-- What the arrival of a timed message does at its ring. -/
inductive Arrived where
  | annihilated (s : State)
  | written (s : State)
  | refused (f : FaultInfo)

/-- A timed message meets its ring (R314, R236, R231). -/
def arriveTimed (s : State) (port : Nat) (x : Slot) : Arrived :=
  let r := s.ring port
  match r.slots.find? (·.vrt == x.vrt) with
  | some y =>
    if y.state == .parked then .annihilated (modSlots s port fun xs => xs.erase y)
    else .refused (fltVal .vrtDup 11 x.vrt).lateOf
  | none =>
    if r.cells ≤ r.slots.length then .refused (flt .ringFull).lateOf
    else
      let t := addSlot s port x
      .written (if r.slots.any fun h => (h.state == .handled || h.state == .doomed) && x.vrt < h.vrt then pend t r.owner 2 else t)

/-- TIMED_MESSAGE_ARRIVAL (R314, R323): the message leaves the sender's barn once the sender's earlier accesses are performed, and then
arrives. -/
def execTimedMessageArrival (ref : MsgRef) (s : State) : Out :=
  match ref with
  | .here id =>
    match msgOf s id with
    | none => .next s
    | some m =>
      let t := s.did (.timedMessageArrival ref)
      if m.kind ≠ .timed || m.copy || hasPosted s m.from_ || msgOut s m || copying s m then .next s
      else if unstamped m then
        let (u, m') := stampColour t m
        .next ((putMsg u m').push (.timedMessageArrival ref))
      else if m.far then .next (sendFar t m)
      else if destAway s m then .next (t.push (.backPressureResend id))
      else
        match (if ringEnded s m then some (flt .capKind).lateOf else ringRefuses s (msgWorld s m) (barnOf m.from_) (msgLaunch s m) m.ring false) with
        | some f => .next (if backLocked s m then s else refuseTimed (countReceived t m) m f)
        | none =>
          if ringAway s m.ring then .next (t.push (.backPressureResend id))
          else if slotLocked s m then .next s
          else
            match arriveTimed (countReceived t m) m.ring (slotOf m) with
            | .refused f => .next (if backLocked s m then s else refuseTimed (countReceived t m) m f)
            | .annihilated u => .next (acknowledge (msgDone u m) m.ring (slotOf m))
            | .written u => .next (msgDone u m)
  | .fabric p =>
    let t := s.gets (.timedMessageArrival ref) p
    match ingress s p fun l => inPaddock l p.off.toNat with
    | .error st => .next (sendPacket t (replyTo p 0x06 st))
    | .ok (_, l) =>
      if l.stage == .saved then .next (sendPacket t (replyTo p 0x0B 0)) else
      let m := { packetMsg p .timed with colour := some p.col }
      let r := s.ring m.port
      let b := portBarn m.port
      let u := countReceived t m
      let x : Slot := { slotOf { m with cap := landedCap s b p m.cap } with remote := some p }
      if !r.live || !r.timed then .next (sendPacket (endLanding u b p none) (replyTo p 0x06 FaultCode.capKind.code))
      else if ringAway s m.port || lockedAny s m.port r.length then .next (sendPacket t (replyTo p 0x0B 0))
      else
        match arriveTimed u m.port x with
        | .refused f => .next (sendPacket (endLanding u b p none) (replyTo p 0x06 f.code.code))
        | .annihilated u => .next (acknowledge (sendPacket (endLanding u b p (some x.side)) (replyTo p 0x06 0)) m.port x)
        | .written u => .next (sendPacket (endLanding u b p (some x.side)) (replyTo p 0x06 0))

/-- A recall meets its ring (R314). None: it is refused. DESIGN CHOICE (log 30): a Handled slot of a terminated actor, which rolls back no more
(R329), becomes Doomed as any other, and its sender waits; unsafe. -/
def arriveRecall (s : State) (port v sender : Nat) (remote : Option Packet) : Option State :=
  let r := s.ring port
  match r.slots.find? (·.vrt == v) with
  | some x =>
    match x.state with
    | .pending => some (annihilate s port x)
    | .handled => some (pend (modSlots s port fun xs => xs.map fun y => if y.vrt == v then { y with state := .doomed } else y) r.owner 3)
    | .doomed | .parked => some s
  | none =>
    if r.cells ≤ r.slots.length then none
    else
      some (addSlot s port
        { state := .parked, vrt := v, tag := 0, defer_ := false, cap := false, len := 0, payload := 0, side := Cap.null, took := Cap.null,
          sender := sender, remote := remote })

/-- The send log of an actor whose recall has come back: `full` says that it found no room. -/
def recallBack (port v : Nat) (full : Bool) (x : Ctx) : Ctx :=
  { x with loft := { x.loft with sends := x.loft.sends.map fun e =>
    if e.vrt == v && e.port == port && e.recalled then { e with recalled := false, refused := full } else e } }

/-- A recall that is refused returns to its sender: one that finds no room with RECALL_OVERFLOW (R240, R314, R320), and one that its package refuses with
the status of R394. A sender that waits raises the fault; one that is away does once it goes on, for a full ring at once and otherwise by a recall that it
sends again. -/
def recallRefused (s : State) (port v : Nat) (f : FaultInfo) : State :=
  let full := f.code == .recallOverflow
  match s.ctxs.find? fun c => awaits c.2 port v with
  | some c =>
    let t := s.setCtx c.1 (recallBack port v full c.2)
    if c.2.state = .waiting then raise (actHeld (markLog t c.1 v fun e => { e with refused := false }) c.1) f else t
  | none =>
    let all (m : Map Ctx) : Map Ctx := m.map fun c => if awaits c.2 port v then (c.1, recallBack port v full c.2) else c
    { s with images := all s.images, launches := s.launches.map fun l => (l.1, { l.2 with saved := all l.2.saved }) }

/-- RECALL_ARRIVAL (R314, R323). -/
def execRecallArrival (ref : MsgRef) (s : State) : Out :=
  match ref with
  | .here id =>
    match msgOf s id with
    | none => .next s
    | some m =>
      let t := s.did (.recallArrival ref)
      if m.kind ≠ .recall || msgOut s m then .next s
      else if unstamped m then
        let (u, m') := stampColour t m
        .next ((putMsg u m').push (.recallArrival ref))
      else if m.far then .next (sendFar t m)
      else if destAway s m || ringAway s m.ring then .next (t.push (.backPressureResend id))
      else if slotLocked s m then .next s
      else
        let u := countReceived (dropMsg t id) m
        match arriveRecall u m.ring m.vrt m.from_ none with
        | some u => .next u
        | none => .next (recallRefused u m.port m.vrt (flt .recallOverflow).lateOf)
  | .fabric p =>
    let t := s.gets (.recallArrival ref) p
    match ingress s p fun l => inPaddock l p.off.toNat with
    | .error st => .next (sendPacket t (replyTo p 0x06 st))
    | .ok (_, l) =>
      let m := { packetMsg p .recall with colour := some p.col }
      if l.stage == .saved || ringAway s m.port || lockedAny s m.port (s.ring m.port).length then .next (sendPacket t (replyTo p 0x0B 0))
      else
        match arriveRecall (countReceived t m) m.port m.vrt 0 (some p) with
        | some u => .next (sendPacket u (replyTo p 0x06 0))
        | none => .next (sendPacket (countReceived t m) (replyTo p 0x06 FaultCode.recallOverflow.code))

/-! Timed sends (R236). -/

/-- A message sent while handling VRT 0 belongs to stamp 0 (R316). -/
def stampOf (x : Ctx) : Nat := x.lvt.toNat

/-- tsend and tsendk (R236, R311, R312, R318). -/
def tsendForm (ka : KReg) (b c : WReg) (kd : Option KReg) (len : Nat) (s : State) : Out :=
  issue { illegal := !s.me.actor, top := max (c.toNat + 1) (topPayload b len) } (fun s => do
    notK15 (ka :: kd.toList)
    let e := s.k ka
    let x := s.me
    sendEndSteps s e
    let far := (farEnd s e).isSome
    need (far || (s.heldRing (portOf e)).timed) (flt .capKind)
    let t := (s.w c).toNat
    need (t < 2 ^ 36) (fltVal .capBounds 11 t)
    let q := x.seq + 1
    let v := t * 2 ^ 28 + x.actorId.toNat * 2 ^ 10 + q.toNat
    need (x.lvt.toNat < v && !(x.loft.sends.any fun e => e.vrt == v && e.live)) (fltVal .vrtDup 11 v)
    let k := match kd with | some r => s.k r | none => Cap.null
    if kd.isSome then carrySteps s k (portOf e) far
    need (!goneEnd s x.launch e) (flt .hitchGone).lateOf
    let room ← loftRoom x 32
    if x.loft.sends.any (·.vrt == v) || !room || (kd.isSome && pinned s s.cur.ctx k) then .ok (waitCond s)
    else
      let m := newMsg s .timed e k kd len (payloadOf s b len) v
      let entry : SendLog :=
        { vrt := v, during := stampOf x, port := m.port, kd := kd, cap := k, live := true, recalled := false, tx := s.stamp % 2 ^ 14 }
      let t := modLog (s.modMe fun x => { x with seq := q }) s.cur.ctx fun es => es ++ [entry]
      .ok (sendMsg (match kd with | some r => (leavesCore t t.myCore k).setK r Cap.null | none => t) m)) s

/-- tsend (R236). -/
def execTsend (ka : KReg) (b c : WReg) (len : BitVec 6) (s : State) : Out := tsendForm ka b c none len.toNat s

/-- tsendk (R236). -/
def execTsendk (kd ka : KReg) (b c : WReg) (len : BitVec 6) (s : State) : Out := tsendForm ka b c (some kd) len.toNat s

/-- ckpt (R237). -/
def execCkpt (a : WReg) (s : State) : Out :=
  issue { illegal := !s.me.actor, top := topOf [a] } (fun s => do
    need ((s.w a).extractLsb' 16 48 == 0) (fltVal .capBounds 0 (s.w a).toNat)
    .ok (finish (s.modMe fun x => { x with ckMask := (s.w a).setWidth 16 }))) s

/-! Rollback (R239, R320). -/

/-- Restores an undo record: the block's bytes, tag and slots, at once. -/
def restoreUndo (s : State) (u : Undo) : State :=
  let t := (s.writeBytes (64 * u.block) u.bytes).setTag (64 * u.block) u.tag
  (u.slots.zip (List.range 4)).foldl (fun t p => t.setSlot (64 * u.block + 16 * p.2) p.1) t

/-- Restores the registers of a checkpoint (R238, R239), to which the rollback goes; a capability that is away comes by its acknowledgement
(R319), and the lines of a code capability that leaves are discarded (R303). -/
def restoreCheckpoint (s : State) (c : Nat) (k : Checkpoint) : State :=
  let t := k.groups.foldl (fun s g => s.setGroupOf c g.1 g.2) s
  let gone := (s.ctx c).k.toList.filter fun x => !(goalCaps { s.ctx c with goal := some k }).toList.contains x
  let t := gone.foldl (fun t x => leavesCore t (coreOf c) x) t
  t.modCtx c fun x => { x with
    goal := some k, k := goalCaps { x with goal := some k }, m := k.m, lvt := k.lvt, seq := k.seq, ckMask := k.mask, ufc0 := k.ufc0,
    ufc1 := k.ufc1, floor := k.floor, evtVec := k.evtVec, evtRet := k.evtRet, evtEn := k.evtEn }

/-- A recall of a send-log entry goes to its ring (R239, R314). -/
def emitRecall (s : State) (c : Nat) (e : SendLog) : State :=
  emit (markLog s c e.vrt fun e => { e with recalled := true }) { Msg.plain .recall c e.port with vrt := e.vrt }

/-- One handled message is undone (R320): its capability returns to its side slot, or goes back with the acknowledgement of a doomed one (R314). -/
def undoMessage (s : State) (c port : Nat) (h : Slot) : State :=
  let x := s.ctx c
  let t := ((x.loft.undos.filter (·.vrt == h.vrt)).reverse).foldl restoreUndo s
  let mine := x.loft.sends.filter fun e => e.during == h.vrt && e.live
  let t := mine.foldl (fun t e => emitRecall (markLog t c e.vrt fun e => { e with live := false }) c e) t
  let t := t.modCtx c fun x => { x with loft := { x.loft with
    checkpoints := x.loft.checkpoints.filter (·.vrt ≠ h.vrt), undos := x.loft.undos.filter (·.vrt ≠ h.vrt),
    defers := x.loft.defers.filter (·.stamp ≠ h.vrt) } }
  let r := t.ring port
  let back := { h with state := .pending, side := h.took, took := Cap.null }
  if h.state == .handled then t.setRing port { r with slots := r.slots.map fun y => if y.vrt == h.vrt then back else y }
  else t.setRing port { r with slots := r.slots.filter fun y => y.vrt ≠ h.vrt, owed := r.owed ++ [back] }

/-- The messages at or above `v` are undone in descending order, the checkpoint of the earliest is restored, and the doomed ones are
acknowledged (R314, R320). -/
def undoFrom (s : State) (c port v : Nat) : State :=
  let hs := ((s.ring port).slots.filter fun x => taken s c x && v ≤ x.vrt)
  let order := sortBy (fun a b => decide (b.vrt ≤ a.vrt)) hs
  let ck := order.getLast?.bind fun h => (s.ctx c).loft.checkpoints.find? (·.vrt == h.vrt)
  let t := order.foldl (fun t h => undoMessage t c port h) s
  flushOwed (match ck with | some k => restoreCheckpoint t c k | none => t) port

/-- Whether a region lock of another context covers the ring of an actor, or a block of which it holds an undo record (R171, R331). -/
def rollLocked (s : State) (c port : Nat) : Bool := ringLocked s c port || (s.ctx c).loft.undos.any fun u => lockedOut s c (64 * u.block) 64

/-- The rollback is complete (R239): the context goes on at the trecv of the checkpoint. -/
def endRollback (s : State) (c : Nat) : State :=
  let u := s.modCtx c fun x => { x with rolling := none, goal := none, inEvent := false }
  match (s.ctx c).goal with
  | some g => finishAt u g.pc
  | none => finish u

/-- rollb, and trecv when it finds a rollback pending (R239, R320): one whose recall was refused while it was away parks first, and its replay sends
the recall again. -/
def rollStep (s : State) : State :=
  let c := s.cur.ctx
  let s := s.modMe fun x => { x with handling := false }
  match timedPort s c with
  | none => finish s
  | some port =>
    if hasPosted s c || rollLocked s c port then waitCond s
    else if s.me.loft.sends.any (·.refused) then
      raise (modLog s c fun es => es.map fun e => { e with refused := false }) (flt .recallOverflow).lateOf
    else
      let s := ((s.me.loft.sends.filter fun e => !e.live && !e.recalled)).foldl (fun t e => emitRecall t c e) s
      match pendingRoll s c with
      | some v =>
        let r := match s.me.rolling with | some u => min u v | none => v
        waitCond (undoFrom (s.modMe fun x => { x with rolling := some r }) c port v)
      | none => if s.me.loft.sends.any fun e => !e.live then waitCond s else endRollback s c

/-- Whether a rollback is pending or under way. -/
def mustRoll (s : State) : Bool := s.me.rolling.isSome || (pendingRoll s s.cur.ctx).isSome

/-- rollb (R239). -/
def execRollb (s : State) : Out :=
  issue { illegal := !s.me.actor } (fun s => .ok (if mustRoll s then rollStep s else finish s)) s

/-- The groups that a checkpoint mask selects in the window (R237). -/
def maskGroups (x : Ctx) : List Nat := (List.range 16).filter fun i => x.ckMask.getLsbD i && decide (i < x.wsize)

/-- The checkpoint of a context at a trecv (R238). -/
def checkpointOf (s : State) (v : Nat) : Checkpoint :=
  let x := s.me
  { vrt := v, pc := s.cur.codept, groups := (maskGroups x).map fun i => (i, s.groupOf s.cur.ctx i), k := x.k, m := x.m, lvt := x.lvt,
    seq := x.seq, mask := x.ckMask, ufc0 := x.ufc0, ufc1 := x.ufc1, floor := x.floor, evtVec := x.evtVec, evtRet := x.evtRet,
    evtEn := x.evtEn }

/-- The pending slot of least VRT. -/
def leastPending (xs : List Slot) : Option Slot :=
  let ps := xs.filter (·.state == .pending)
  ps.find? fun x => ps.all fun y => x.vrt ≤ y.vrt

/-- trecv takes a slot, and the capability of its side slot (R238, R313). -/
def takeTimed (s : State) (port : Nat) (x : Slot) (d : WReg) (kc : KReg) : State :=
  let me := s.me
  let ck := checkpointOf s x.vrt
  let clear := (List.range me.wsize).filter fun i => !(maskGroups me).contains i
  let t := clear.foldl (fun s i => s.setGroupOf s.cur.ctx i 0) s
  let t := t.modMe fun y => { y with
    lvt := BitVec.ofNat 64 x.vrt, handling := true, loft := { y.loft with checkpoints := y.loft.checkpoints ++ [ck] } }
  let held := { x with state := .handled, side := Cap.null, took := x.side }
  let t := slotRegs (modSlots t port fun xs => xs.map fun y => if y.vrt == x.vrt then held else y) d x
  finish (if x.cap then ownRing (t.setK kc x.side) x.side s.cur.ctx else t)

/-- trecv (R128, R238, R316, R322): only an actor may issue it. One that carries out a rollback goes on with it (R320). -/
def execTrecv (d : WReg) (ka kc : KReg) (s : State) : Out :=
  issue { illegal := !s.me.actor, top := d.toNat + 8 } (fun s =>
    if s.me.rolling.isSome then .ok (rollStep s) else do
    notK15 [ka, kc]
    recvEndSteps s (s.k ka)
    let port := portOf (s.k ka)
    need (s.ring port).timed (flt .capKind)
    let size := 384 + 64 * (maskGroups s.me).length
    need (size ≤ s.me.loft.length) (fltAt .capBounds 10 0)
    let s := s.modMe fun x => { x with began := true, handling := false }
    if hasPosted s s.cur.ctx || ringLocked s s.cur.ctx port then .ok (waitCond s)
    else if mustRoll s then .ok (rollStep s)
    else
      match leastPending (s.ring port).slots with
      | none => .ok (waitCond s)
      | some x => do
        need (!x.cap || (s.k kc).isNull) (flt .capKind)
        slotStep s port x
        if s.me.loft.used + size ≤ s.me.loft.length then .ok (takeTimed s port x d kc) else .ok (waitCond s)) s

/-- recall (R240). -/
def execRecall (kd : KReg) (a : WReg) (s : State) : Out :=
  issue { illegal := !s.me.actor, top := topOf [a] } (fun s => do
    notK15 [kd]
    let v := (s.w a).toNat
    match s.me.loft.sends.find? fun e => e.vrt == v && e.during == stampOf s.me && e.live && !e.recalled with
    | none => .error (fltVal .capBounds 11 v)
    | some e => if e.refused then .ok (raise (markLog s s.cur.ctx v fun e => { e with refused := false }) (flt .recallOverflow).lateOf) else do
      need (e.cap.isNull || (s.k kd).isNull) (flt .capKind)
      .ok (emitRecall (waitFor s (.recall v kd) (some (heldLatch s true false))) s.cur.ctx e)) s

/-! Deferred actions (R241). -/

/-- Records a deferred action, or waits for room (R241, R318). -/
def deferAction (s : State) (kind : Nat) (k : Cap) (words : List Word) (off len : Nat) : Except FaultInfo State := do
  let d : Deferred := { stamp := stampOf s.me, kind := kind, cap := k, words := words, off := off, len := len, order := s.stamp }
  if ← loftRoom s.me 80 then
    .ok (finish { (s.modMe fun x => { x with loft := { x.loft with defers := x.loft.defers ++ [d] } }) with stamp := s.stamp + 1 })
  else .ok (waitCond s)

/-- The store row of R159 for a deferred store. -/
def Class.deferred : Class := { kinds := [1, 6, 7], rights := 0x02, logged := false }

/-- defer, kind 0 (R241). -/
def execDeferStore (a : WReg) (kb : KReg) (c : WReg) (_len : BitVec 6) (s : State) : Out :=
  issue { illegal := !s.me.actor, top := topOf [a, c] } (fun s => do
    notK15 [kb]
    let k := s.k kb
    let off : Int := (s.w c).toNat
    capSteps s k Class.deferred
    need (!k.logged) (flt .capRights)
    let addr ← boundsStep s s.myCore s.me.world k off 8
    alignStep k off 8
    if k.kind == 6 then memberStep s k addr
    deferAction s 0 k [s.w a] off.toNat 8) s

/-- defer, kind 1 (R241): the group w[a..a+5] lies in the window, whatever len is (R225). -/
def execDeferSend (a : WReg) (kb : KReg) (c : WReg) (len : BitVec 6) (s : State) : Out :=
  issue { illegal := !s.me.actor, top := max (topOf [c]) (a.toNat + 6) } (fun s => do
    notK15 [kb]
    let k := s.k kb
    sendEndSteps s k
    need (!(s.heldRing (portOf k)).timed || (farEnd s k).isSome) (flt .capKind)
    let p := payloadOf s a len.toNat
    deferAction s 1 k ((List.range 6).map fun i => p.extractLsb' (64 * i) 64) 0 len.toNat) s

/-- defer, kind 2 (R241, R416). -/
def execDeferNotify (a c : WReg) (_len : BitVec 6) (s : State) : Out :=
  issue { illegal := !s.me.actor, top := max (a.toNat + 2) (topOf [c]) } (fun s => do
    let q := (s.w c).toNat
    let names := ((s.launch? s.me.launch).map (·.notify)).getD []
    need (q < 4 && (names.getD q (BitVec.allOnes 32)) ≠ BitVec.allOnes 32) (fltVal .capBounds 0 q)
    deferAction s 2 Cap.null [s.w a, s.wn (a.toNat + 1)] (names.getD q 0).toNat 16) s

/-! GVT (R243, R322 to R325). -/

/-- The GVT of a context's launch. -/
def gvtOf (s : State) (c : Nat) : Word := ((s.launch? (s.ctx c).launch).map (·.gvt)).getD 0

/-- What gvtrd and spr of GVT give: the floor in reproducible mode (R243). -/
def gvtRead (s : State) : Word := if s.me.repro then s.me.floor else gvtOf s s.cur.ctx

/-- gvtrd (R243). -/
def execGvtrd (d : WReg) (s : State) : Out := compute d [] gvtRead s

/-- gvtwait (R243). -/
def execGvtwait (a : WReg) (s : State) : Out :=
  issue { top := topOf [a] } (fun s =>
    if s.w a < gvtOf s s.cur.ctx then
      let n := s.w a + 1
      .ok (finish (s.modMe fun x => { x with floor := if x.floor < n then n else x.floor }))
    else .ok (waitCond s)) s

/-- The least of two optional values. -/
def least : Option Nat → Option Nat → Option Nat
  | none, y => y
  | x, none => x
  | some a, some b => some (min a b)

/-- The VRT of the send or the recall in a latch (R236, R240), none for another instruction; `w` reads the actor's registers. -/
def latchedVrt (x : Ctx) (w : Nat → Word) : Option Nat :=
  match x.latch with
  | none => none
  | some l =>
    let f := (fFunc l.word).toNat
    if fMajor l.word = 0xD0 && f ≤ 1 then some ((w (gC l.word).toNat).toNat * 2 ^ 28 + x.actorId.toNat * 2 ^ 10 + (x.seq + 1).toNat)
    else if fMajor l.word = 0xD1 && f = 2 then some (w (gA l.word).toNat).toNat
    else none

/-- The contribution of one actor (R322, R329): a terminated actor has none, nor has one that halts before its first trecv (log 16). -/
def actorMin (x : Ctx) (w : Nat → Word) : Option Nat :=
  if !x.actor || x.state == .ended || x.state == .absent then none
  else
    least (latchedVrt x w)
      (match x.rolling with
       | some v => some v
       | none => if x.handling then some x.lvt.toNat else if !x.began && x.state ≠ .halted then some 1 else none)

/-- The contribution of a barn for a launch (R322): its actors, its rings but for those of terminated actors (R329), and the messages and recalls
that have neither left it nor reached a ring in it. -/
def barnMin (s : State) (l b : Nat) : Option Nat :=
  let actors := (s.ctxs.filter fun p => barnOf p.1 == b && p.2.launch == l).map fun p => actorMin p.2 (s.regOf p.1)
  let rings := (s.rings.filter fun p => p.2.live && p.2.timed && p.2.launch == l && portBarn p.1 == b && (ctxNamed s p.2.owner).state ≠ .ended).map
    fun p => ((p.2.slots.filter fun x => x.state == .pending || x.state == .doomed).map (·.vrt)).min?
  let out := ((s.msgs.filter fun m => (m.kind == .timed || m.kind == .recall) && m.colour.isNone && barnOf m.from_ == b).map (·.vrt)).min?
  (out :: actors ++ rings).foldl least none

/-- The contribution of a launch's evicted actors, which the management core makes (R322); their windows stand in their images (R290). -/
def evictedMin (s : State) (l : Nat) : Option Nat :=
  ((s.images.filter fun p => p.2.launch == l).map fun p =>
    actorMin p.2 fun n => BitVec.ofNat 64 (s.readLe (physLoc (p.1 + 64 + 448 + 8 * n)) 8)).foldl least none

/-- The barns of a launch's paddock in row-major order. -/
def paddockBarns (l : Launch) : List Nat :=
  ((List.range l.ph).map fun y => (List.range l.pw).map fun x => barnAt (l.px + x) (l.py + y)).flatten

/-- The sum of D of a colour over the barns of a launch (R324). -/
def colourSum (bs : List Barn) (old : Bool) : Word := bs.foldl (fun d x => d + if old then x.s1 - x.r1 else x.s0 - x.r0) 0
/-- What that sum was when the launch was placed. -/
def Launch.sweptOf (l : Launch) (old : Bool) : Word := if old then l.swept.2 else l.swept.1

/-- D and L of a package's part of a launch (R324, R400): the sum of the old colour since the launch was placed, and the minimum with M of the new
colour. -/
def sweepPart (s : State) (n : Nat) (l : Launch) (old : Bool) : Word × Word :=
  (colourSum ((paddockBarns l).map s.barn) old - l.sweptOf old,
    (paddockBarns l).foldl (fun (acc : Word) b =>
      let x := s.barn b
      let m := if x.colour then x.m1 else x.m0
      let v := match barnMin s n b with | some v => BitVec.ofNat 64 v | none => BitVec.allOnes 64
      let v := if v < m then v else m
      if v < acc then v else acc) (match evictedMin s n with | some v => BitVec.ofNat 64 v | none => BitVec.allOnes 64))

/-- A sweep packet to or from member 0 (R400); what it does stands in BTAG: 0 a result, 1 a flip sweep, 2 a count sweep; D stands in DATA, L or the GVT
in VRT, and the old colour of its round in COL. DESIGN CHOICE (log 23): R391 gives its subtypes and its values no place; unsafe. -/
def sweepPacket (s : State) (h : Hitch) (j : Nat) (d l : Word) (sub : BitVec 16) (old : Bool) : Packet :=
  { packetTo s h j 0 with type := 0x0D, cls := 2, txid := 0, data := d, vrt := l, btag := sub, col := old }

/-- The other members of a hitched launch. -/
def otherMembers (s : State) (n : Nat) : List Nat :=
  match hitchOf s n with
  | some h => (List.range h.count).filter fun j => j ≠ h.me
  | none => []

/-- Whether this package leads the rounds of a launch (R400). -/
def leads (s : State) (n : Nat) : Bool := match hitchOf s n with | some h => h.me == 0 | none => true

/-- A pre-empted launch contributes the minimum recorded when its state was saved, and the counters saved with it (R291, R322). -/
def launchPart (s : State) (n : Nat) (l : Launch) (old : Bool) : Word × Word :=
  if l.stage == .saved then (colourSum (l.savedBarns.map (·.2)) old - l.sweptOf old, l.savedMin)
  else sweepPart s n l old

/-- A barn flips its colour, and resets the minimum of the new one (R324). -/
def Barn.flip (x : Barn) : Barn :=
  if x.colour then { x with colour := false, m0 := BitVec.allOnes 64 } else { x with colour := true, m1 := BitVec.allOnes 64 }

/-- FLIP_SWEEP (R324): each barn of the paddock flips its colour and resets its new minimum; the barns of a launch have one colour from its placement
on (log 30), which is the old one. -/
def execFlipSweep (n : Nat) (s : State) : Out :=
  match s.launch? n with
  | some l =>
    if l.round.isSome || l.stage == .closed then .next s
    else
      let bs := paddockBarns l
      let away := l.stage == .saved
      let barnAt_ (b : Nat) : Barn := if away then mget Barn.reset l.savedBarns b else s.barn b
      let old := match bs.head? with | some b => (barnAt_ b).colour | none => false
      let t := if away then s.did (.flipSweep n) else bs.foldl (fun t b => t.modBarn b Barn.flip) (s.did (.flipSweep n))
      let t := t.modLaunch n fun l => { l with
        round := some old, sums := [], savedBarns := if away then l.savedBarns.map fun p => (p.1, p.2.flip) else l.savedBarns }
      match hitchOf s n with
      | some h =>
        if h.me ≠ 0 then .next t
        else .next (((otherMembers s n).foldl (fun t j => sendPacket (sendPacket t (sweepPacket s h j 0 0 1 old)) (sweepPacket s h j 0 0 2 old)) t).push (.countSweep n))
      | none => .next (t.push (.countSweep n))
  | none => .next s

/-! Commitment (R326). -/

/-- Whether an actor of lesser identifier can still issue an action of stamp 0 (R242, R327, log 16). -/
def zeroHeld (s : State) (c : Nat) : Bool :=
  let x := ctxNamed s c
  (s.ctxs ++ s.images).any fun p => p.2.launch == x.launch && p.2.actor && p.2.actorId < x.actorId && !p.2.began
    && !(p.2.state == .halted || p.2.state == .ended || p.2.state == .absent)

/-- The place of a released action: stamp, then actor, then order of issue (R242). -/
def releaseBefore (s : State) (a b : Nat × Deferred) : Bool :=
  decide (a.2.stamp < b.2.stamp) || (a.2.stamp == b.2.stamp &&
    (decide ((ctxNamed s a.1).actorId < (ctxNamed s b.1).actorId)
      || ((ctxNamed s a.1).actorId == (ctxNamed s b.1).actorId && decide (a.2.order ≤ b.2.order))))

/-- An actor's messages below GVT are committed (R326): slots and records are freed, and deferred actions are released.
An evicted actor commits as a resident one does. -/
def commitActor (s : State) (n c : Nat) (gvt : Nat) : State :=
  let x := ctxNamed s c
  let done := (timedSlots s c).filter fun h => h.state == .handled && h.vrt < gvt
  let busy (v : Nat) : Bool := s.msgs.any fun m => m.kind ≠ .untimed && m.vrt == v
  let gone := x.loft.sends.filter fun e => e.during < gvt && e.live && !busy e.vrt
  let out := x.loft.defers.filter fun d => d.stamp < gvt && (d.stamp ≠ 0 || !zeroHeld s c)
  let t := setNamed s c { x with loft := { x.loft with
    checkpoints := x.loft.checkpoints.filter fun k => gvt ≤ k.vrt, undos := x.loft.undos.filter fun u => gvt ≤ u.vrt,
    sends := x.loft.sends.filter fun e => !gone.contains e, defers := x.loft.defers.filter fun d => !out.contains d } }
  let t := match timedPort s c with
    | some p => modSlots t p fun xs => xs.filter fun h => !done.contains h
    | none => t
  let t := gone.foldl (fun t e =>
    match runOf (coreOf (homeOf c)) e.cap with
    | some (b, off) =>
      if needsCopy (homeOf c) (if 2 ^ 47 ≤ e.port then 0 else e.port) (decide (2 ^ 47 ≤ e.port)) e.cap then freeRun t b off e.cap.length.toNat else t
    | none => t) t
  t.modLaunch n fun l => { l with releases := sortBy (releaseBefore s) (l.releases ++ out.map fun d => (c, d)) }

/-- Every actor of a launch commits what lies below GVT, and the released actions become due (R326, R327). -/
def commitAll (s : State) (n gvt : Nat) : State :=
  let t := (launchNames s n).foldl (fun t c => if (ctxNamed t c).actor then commitActor t n c gvt else t) s
  match t.launch? n with
  | some l => if l.releases.isEmpty then t else t.pushOnce (.deferredRelease n)
  | none => t

/-- Whether a launch holds a timed actor: resident, evicted or pre-empted with its paddock (R324). -/
def holdsActor (s : State) (n : Nat) : Bool :=
  ((launchNames s n).any fun c => (ctxNamed s c).actor) || ((s.launch? n).map fun l => l.saved.any fun p => p.2.actor).getD false

/-- A round ends with a new GVT (R324, R325): it never decreases, and the next round starts without a gap. -/
def endRound (s : State) (n : Nat) (v : Word) : State :=
  let old := ((s.launch? n).map (·.gvt)).getD 0
  let g := if v < old then old else v
  let t := commitAll (s.modLaunch n fun l => { l with gvt := g, round := none, sums := [] }) n g.toNat
  if leads s n && (holdsActor s n || (hitchOf s n).any fun h => 1 < h.count) then t.push (.flipSweep n) else t

/-- COUNT_SWEEP (R324, R400). DESIGN CHOICE (log 23): a member that is Gone contributes neither D nor L; unsafe. -/
def execCountSweep (n : Nat) (s : State) : Out :=
  match s.launch? n with
  | some l =>
    match l.round with
    | none => .next s
    | some old =>
      let t := s.did (.countSweep n)
      let (d, v) := launchPart s n l old
      match hitchOf s n with
      | none => .next (if d = 0 then endRound t n v else t.push (.countSweep n))
      | some h =>
        if h.me ≠ 0 then .next (sendPacket t (sweepPacket s h 0 d v 0 old))
        else
          let others := (otherMembers s n).filter fun j => h.memberOf j ≠ .gone
          if others.all fun j => l.sums.any (·.1 == j) then
            let sum := l.sums.foldl (fun (a : Word) e => a + e.2.1) d
            let mn := l.sums.foldl (fun (a : Word) e => if e.2.2 < a then e.2.2 else a) v
            let u := t.modLaunch n fun l => { l with sums := [] }
            if sum = 0 then
              .next ((otherMembers s n).foldl (fun u j => sendPacket u (sweepPacket s h j 0 mn 0 old)) (endRound u n mn))
            else .next ((others.foldl (fun u j => sendPacket u (sweepPacket s h j 0 0 2 old)) u).push (.countSweep n))
          else .next s
  | none => .next s

end Sys2Proof.Machine
end

