-- ==== Sys2Proof/Machine/Gate.lean ====
section
/-! DEFINITION. Gates (R244 to R248, R401): arming, arrivals, the sweep by the fixed order of R86, release and error. -/

namespace Sys2Proof.Machine

/-- The fields of a gate descriptor (R244). -/
structure GateDesc where
  cores : Nat
  op : Nat
  count : Nat
  yh : Nat
  xw : Nat
  y0 : Nat
  x0 : Nat
  deriving DecidableEq, Repr

def gateDesc (d : Word) : GateDesc :=
  { cores := (d.extractLsb' 44 4).toNat, op := (d.extractLsb' 40 3).toNat, count := (d.extractLsb' 32 7).toNat,
    yh := (d.extractLsb' 24 5).toNat, xw := (d.extractLsb' 16 5).toNat, y0 := (d.extractLsb' 8 5).toNat, x0 := (d.extractLsb' 0 5).toNat }

/-- The reserved bits of a gate descriptor. -/
def gateReserved (d : Word) : Bool :=
  d.extractLsb' 48 16 == 0 && !d.getLsbD 43 && !d.getLsbD 39 && d.extractLsb' 29 3 == 0 && d.extractLsb' 21 3 == 0
    && d.extractLsb' 13 3 == 0 && d.extractLsb' 5 3 == 0

/-- The launch to whose paddock a core's barn is assigned. -/
def launchOfCore (s : State) (i : Nat) : Option Launch := s.launch? (s.barn (barnOfCore i)).launch

def gateOf (s : State) (i g : Nat) : Gate := vat Gate.reset (s.core i).gates g
def setGate (s : State) (i g : Nat) (x : Gate) : State := s.modCore i fun c => { c with gates := vset c.gates g x }
def modGate (s : State) (i g : Nat) (f : Gate → Gate) : State := setGate s i g (f (gateOf s i g))

/-- The barns of a gate's rectangle in row-major order, and the taking-part cores (R86, R244). -/
def gateBarns (l : Launch) (d : GateDesc) : List (List Nat) :=
  (List.range (d.yh + 1)).map fun y => (List.range (d.xw + 1)).map fun x => barnAt (l.px + d.x0 + x) (l.py + d.y0 + y)
def gateCores (l : Launch) (d : GateDesc) : List Nat :=
  ((gateBarns l d).flatten.map fun b => ((List.range 4).filter fun c => d.cores.testBit c).map (4 * b + ·)).flatten

/-- The checks of garm (R244). -/
def gateFits (s : State) (i : Nat) (v : Word) : Bool :=
  let d := gateDesc v
  gateReserved v && d.op ≠ 7 && d.count ≤ 64 &&
    (match launchOfCore s i with
     | some l => d.x0 + d.xw < l.pw && d.y0 + d.yh < l.ph && (gateCores l d).contains i
     | none => false)

/-- The operation of a gate and its type (R244, R86). -/
def gateOp : Nat → Option (RedOp × Ty)
  | 1 => some (.sum, .s64)
  | 2 => some (.sum, .f32)
  | 3 => some (.max, .s64)
  | 4 => some (.min, .s64)
  | 5 => some (.max, .n64)
  | 6 => some (.min, .n64)
  | _ => none

/-- Launch coordinates in the order of R86. -/
def coords (x : Ctx) : List Nat := x.lvl.toList.map fun v => (v.extractLsb' 0 16).toNat
def lexLe : List Nat → List Nat → Bool
  | [], _ => true
  | _, [] => false
  | a :: as, b :: bs => a < b || (a == b && lexLe as bs)

/-- Combines optional contributions in order. -/
def foldOp (o : RedOp) (t : Ty) (xs : List (Option Nat)) : Option Nat := xs.foldl (combineOpt o t) none

/-- The contributions of one barn to a phase, from its taking-part cores in launch-coordinate order, whichever core each context runs on (R86,
R246). DESIGN CHOICE (log 30): R86 orders by coordinates alone, and the contributions of one context to one phase are in the order in which they
counted; unsafe. -/
def barnValue (s : State) (cores : Nat) (b g phase : Nat) (o : RedOp) (t : Ty) : Option Nat :=
  let arrivals := (((coresOfBarn b).filter fun i => cores.testBit (i % 4)).map fun i => (gateOf s i g).counted.filter (·.phase == phase)).flatten
  foldOp o t ((sortBy (fun a b => lexLe a.coords b.coords) arrivals).map fun a => a.val.map (·.toNat))

/-- The result of a phase over the rectangle (R86), absent when no contribution is present. -/
def sweepValue (s : State) (l : Launch) (d : GateDesc) (g phase : Nat) : Option Nat :=
  match gateOp d.op with
  | none => none
  | some (o, t) => foldOp o t ((gateBarns l d).map fun row => foldOp o t (row.map fun b => barnValue s d.cores b g phase o t))

/-- The result that a release carries (R247, R84, R245). -/
def gateResult (d : GateDesc) (v : Option Nat) : Word :=
  match gateOp d.op with
  | none => 0
  | some (o, t) => BitVec.ofNat 64 (v.getD (identity o t))

/-- The packet of a gate's phase (R248). -/
def sweepOf (d : GateDesc) (phase : Nat) : SweepPacket :=
  { x0 := d.x0, y0 := d.y0, xw := d.xw, yh := d.yh, op := BitVec.ofNat 3 d.op, phase := phase }

/-- Whether a core's arrivals of its current phase are in (R245, R246). -/
def gateFull (x : Gate) : Bool := x.armed && (x.counted.filter (·.phase == x.phase)).length == (gateDesc x.desc).count

/-- The taking-part cores of a core's own barn, as its descriptor names them, and whether each has its arrivals in (R246). -/
def barnGates (s : State) (i g : Nat) : List Nat := (coresOfBarn (barnOfCore i)).filter fun j => (gateDesc (gateOf s i g).desc).cores.testBit (j % 4)
def barnFull (s : State) (i g : Nat) : Bool := (barnGates s i g).all fun j => gateFull (gateOf s j g)

/-- Whether every taking-part core has entered the phase of a core's gate. -/
def allEntered (s : State) (i g : Nat) : Bool :=
  let x := gateOf s i g
  match launchOfCore s i with
  | some l =>
    x.armed && (gateCores l (gateDesc x.desc)).all fun j =>
      let y := gateOf s j g
      y.armed && y.entered && y.phase == x.phase && sweepOf (gateDesc y.desc) y.phase == sweepOf (gateDesc x.desc) x.phase
  | none => false

/-- Whether every taking-part core of a gate has COUNT 0 (R245). -/
def countless (s : State) (l : Launch) (d : GateDesc) (g : Nat) : Bool :=
  (gateCores l d).all fun j => (gateOf s j g).armed && (gateDesc (gateOf s j g).desc).count == 0

/-- A core enters the sweep: its packets go to the taking-part cores of the rectangle (R248). A gate whose cores all have COUNT 0 is released
once (R245). -/
def enterCore (s : State) (i g : Nat) : State :=
  let x := gateOf s i g
  let d := gateDesc x.desc
  match launchOfCore s i with
  | some l =>
    if x.armed && !x.entered && !(x.released.any (·.1 == x.phase) && countless s l d g) then
      (gateCores l d).foldl (fun t j => t.push (.gateSweep j (BitVec.ofNat 2 g) (sweepOf d x.phase))) (modGate s i g fun y => { y with entered := true })
    else s
  | none => s

/-- The barn of a core enters the sweep once every one of its taking-part cores has its arrivals in (R246). -/
def enterSweep (s : State) (i g : Nat) : State := if barnFull s i g then (barnGates s i g).foldl (fun t j => enterCore t j g) s else s

/-- Whether a gate is busy (R245): from the first arrival of its phase, which a core with COUNT 0 gives at once, to the phase's release. -/
def gateBusy (x : Gate) : Bool :=
  x.armed && (x.entered || (x.counted ++ x.waiting).any (·.phase == x.phase)
    || ((gateDesc x.desc).count == 0 && !x.released.any (·.1 == x.phase)))

/-- The fault of a context that waits on a gate in error (R248). -/
def gateError : FaultInfo := (fltAt .capBounds 9 0).lateOf

/-- Whether a context waits on a gate of its core: in garr, garred or gwait (R246, R247). -/
def waitsGate (s : State) (c g : Nat) : Bool :=
  let x := s.ctx c
  x.state == .waiting && x.wait == .cond && (match x.latch with
    | some l => fMajor l.word == 0xD8
        && (((fFunc l.word == 1 || fFunc l.word == 3) && (gD l.word).toNat % 4 == g) || (fFunc l.word == 2 && (gA l.word).toNat % 4 == g))
    | none => false)

/-- Who waits in gwait for a phase that has been released goes on with its result (R247). -/
def wakeGate (s : State) (i g : Nat) : State :=
  (ctxsOfCore i).foldl (fun t c =>
    if !waitsGate t c g then t
    else
      match (t.ctx c).latch with
      | some l =>
        match l.ops.head?.bind fun p => (gateOf t i g).released.find? (·.1 == p.toNat) with
        | some (_, r) => if fFunc l.word = 2 then finish ((actHeld t c).setW (gD l.word) r) else t
        | none => t
      | none => t) s

/-- garm (R244, R245). Who waits for a phase that has
been released has its result (R247), and the results that other members sent for phase 0 stay (R450). -/
def execGarm (g : GReg) (a : WReg) (s : State) : Out :=
  issue { illegal := s.me.actor, top := topOf [a] } (fun s => do
    let i := s.myCore
    let x := gateOf s i g.toNat
    need (gateFits s i (s.w a)) (fltVal .capBounds 0 (s.w a).toNat)
    need (!gateBusy x) (flt .capKind)
    let t := setGate (wakeGate s i g.toNat) i g.toNat
      { Gate.reset with armed := true, desc := s.w a, far := if x.phase = 0 then x.far else [] }
    let t := (ctxsOfCore i).foldl (fun t c => if (vat none (t.ctx c).arrived g.toNat).isSome then
      t.modCtx c fun x => { x with arrived := vset x.arrived g.toNat none } else t) t
    .ok (finish (enterSweep { t with cur := s.cur } i g.toNat))) s

/-- An arrival (R246): in the current phase, in the next one, or once the current phase is released. -/
def arrive (g : GReg) (v : State → Option Word) (top : Nat) (s : State) : Out :=
  issue { illegal := s.me.actor, top := top } (fun s => do
    let i := s.myCore
    let x := gateOf s i g.toNat
    need x.armed (flt .capKind)
    let n (p : Nat) : Nat := ((x.counted ++ x.waiting).filter (·.phase == p)).length
    let count := (gateDesc x.desc).count
    let go (p : Nat) : State :=
      let t := modGate s i g.toNat fun y => { y with waiting := y.waiting ++ [{ ctx := s.cur.ctx, val := v s, phase := p, coords := coords s.me, at_ := s.stamp }] }
      let t := { t with stamp := s.stamp + 1 }
      finish ((t.modMe fun y => { y with arrived := vset y.arrived g.toNat (some p) }).push (.gateArrivalCounts s.cur.ctx g))
    if n x.phase < count then .ok (go x.phase)
    else if n (x.phase + 1) < count then .ok (go (x.phase + 1))
    else .ok (waitCond s)) s

/-- garr (R246): it contributes an absent value. -/
def execGarr (g : GReg) (s : State) : Out := arrive g (fun _ => none) 0 s

/-- garred (R246): the whole register, or its low 32 bits for the FP32 sum. -/
def execGarred (g : GReg) (a : WReg) (s : State) : Out :=
  arrive g (fun s =>
    match (gateDesc (gateOf s s.myCore g.toNat).desc).op with
    | 0 => none
    | 2 => some ((s.w a).setWidth 32 |>.setWidth 64)
    | _ => some (s.w a)) (topOf [a]) s

/-- Whether every access that a context issued before a stamp has been performed. -/
def earlierDone (s : State) (c n : Nat) : Bool := !(s.posted.any fun p => p.src == c && p.id < n)

/-- GATE_ARRIVAL_COUNTS (R246): the context's earliest arrival that waits counts once its earlier accesses are performed. -/
def execGateArrivalCounts (c : Nat) (g : GReg) (s : State) : Out :=
  let i := coreOf c
  match (gateOf s i g.toNat).waiting.find? (·.ctx == c) with
  | some a =>
    if earlierDone s c a.at_ then
      let t := modGate (s.did (.gateArrivalCounts c g)) i g.toNat fun y => { y with waiting := y.waiting.erase a, counted := y.counted ++ [a] }
      .next (enterSweep t i g.toNat)
    else .next s
  | none => .next s

/-- A gate goes into error (R248): the gates of its taking-part cores are disarmed, and every context that waits on one raises CAP_BOUNDS. -/
def gateFails (s : State) (i g : Nat) : State :=
  let x := gateOf s i g
  match launchOfCore s i with
  | some l =>
    (gateCores l (gateDesc x.desc)).foldl (fun t j =>
      if (gateOf t j g).armed then
        (ctxsOfCore j).foldl (fun t c => if waitsGate t c g then { raise (actHeld t c) gateError with cur := t.cur } else t)
          (modGate (wakeGate t j g) j g fun y => { y with armed := false, error := true, counted := [], waiting := [], entered := false, far := [] })
      else t) s
  | none => s

/-- GATE_SWEEP (R248): a packet is compared with the descriptor and the phase of the core's gate; the last one releases the phase. -/
def execGateSweep (i : Nat) (g : GReg) (p : SweepPacket) (s : State) : Out :=
  let t := s.did (.gateSweep i g p)
  let x := gateOf s i g.toNat
  let d := gateDesc x.desc
  if !x.armed then .next t
  else if p ≠ sweepOf d x.phase then .next (gateFails t i g.toNat)
  else .next (if allEntered t i g.toNat then t.pushOnce (.gateRelease i g) else t)

/-- Whether a gate is a hitch gate (R401): gate3 of a hitched launch over the whole paddock. -/
def hitchGate (s : State) (l : Launch) (n g : Nat) (d : GateDesc) : Option Hitch :=
  if g = 3 && d.x0 = 0 && d.y0 = 0 && d.xw + 1 = l.pw && d.yh + 1 = l.ph then (hitchOf s n).filter fun h => 1 < h.count else none

/-- A phase is released to every taking-part core, which begins the next one (R247); a gate whose cores all have COUNT 0 has no later phase
(R245). -/
def releasePhase (s : State) (l : Launch) (d : GateDesc) (g phase : Nat) (r : Word) : State :=
  let cs := gateCores l d
  let last := countless s l d g
  let t := cs.foldl (fun t j => modGate t j g fun y => { y with
    phase := if last then phase else phase + 1, entered := false, released := y.released ++ [(phase, r)], counted := y.counted.filter (·.phase ≠ phase), far := [] }) s
  cs.foldl (fun t j => enterSweep t j g) t

/-- The packet that carries a member's result, or a release, of a hitch gate (R401). DESIGN CHOICE (log 23): R390 names no field of a packet of TYPE
0x0C; OFF holds the phase, BTAG the OP, and STATUS of a release the code of an error; unsafe. -/
def gatePacket (s : State) (h : Hitch) (j : Nat) (d : GateDesc) (phase : Nat) (v : Option Nat) (status : BitVec 8) : Packet :=
  { packetTo s h j 0 with
    type := 0x0C, cls := 2, txid := 0, data := BitVec.ofNat 64 (v.getD 0), tagged := v.isSome, btag := BitVec.ofNat 16 d.op, off := BitVec.ofNat 40 phase,
    status := status }

/-- Whether packets of a phase are still on their way to cores of a gate (R248). -/
def sweeping (s : State) (l : Launch) (d : GateDesc) (g : GReg) (phase : Nat) : Bool :=
  s.work.any fun w => match w with
    | .gateSweep j g' p => g' == g && p == sweepOf d phase && (gateCores l d).contains j
    | _ => false

/-- GATE_RELEASE (R247, R401): once every taking-part core has entered its phase and received its packets. A hitch gate waits for member 0, which waits for the members
that have not left. -/
def execGateRelease (i : Nat) (g : GReg) (s : State) : Out :=
  let x := gateOf s i g.toNat
  let d := gateDesc x.desc
  let t := s.did (.gateRelease i g)
  match launchOfCore s i with
  | none => .next s
  | some l =>
    if !allEntered s i g.toNat || sweeping s l d g x.phase then .next s
    else
      let v := sweepValue s l d g.toNat x.phase
      match hitchGate s l (s.barn (barnOfCore i)).launch g.toNat d with
      | none => .next (releasePhase t l d g.toNat x.phase (gateResult d v))
      | some h =>
        if h.memberOf 0 == .gone then .next (gateFails t i g.toNat)
        else if h.me ≠ 0 then
          match x.far.find? (·.1 == 0) with
          | some (_, r) => .next (releasePhase t l d g.toNat x.phase (gateResult d (r.map (·.toNat))))
          | none =>
            if x.far.any (·.1 == h.me) then .next s
            else
              let u := (gateCores l d).foldl (fun u j => modGate u j g.toNat fun y => { y with far := y.far ++ [(h.me, none)] }) t
              .next (sendPacket u (gatePacket s h 0 d x.phase v 0))
        else
          let others := (List.range h.count).filter fun j => j ≠ 0 && h.memberOf j ≠ .gone
          if others.all fun j => x.far.any (·.1 == j) then
            let parts := others.map fun j => ((x.far.find? (·.1 == j)).bind (·.2)).map (·.toNat)
            let r := match gateOp d.op with | some (o, ty) => foldOp o ty (v :: parts) | none => none
            let u := others.foldl (fun u j => sendPacket u (gatePacket s h j d x.phase r 0)) t
            .next (releasePhase u l d g.toNat x.phase (gateResult d r))
          else .next s

/-- The phase for which a context's gwait or gtest asks (R247): that of its latest arrival, or the one that was current when it began to wait;
the one phase of a gate whose cores all have COUNT 0 is phase 0 (R245). DESIGN CHOICE (log 30): a context that waits without an arrival while
another re-arms its gate goes on waiting for the phase number for which it began to; unsafe. -/
def gatePhase (s : State) (x : Gate) (g : Nat) : Nat :=
  match vat none s.me.arrived g with
  | some p => p
  | none =>
    match s.cur.ops with
    | p :: _ => p.toNat
    | [] =>
      match launchOfCore s s.myCore with
      | some l => if countless s l (gateDesc x.desc) g then 0 else x.phase
      | none => x.phase

/-- gwait (R247). -/
def execGwait (d : WReg) (g : GReg) (s : State) : Out :=
  issue { illegal := s.me.actor, top := topOf [d] } (fun s => do
    let x := gateOf s s.myCore g.toNat
    need x.armed (flt .capKind)
    let p := gatePhase s x g.toNat
    match x.released.find? (·.1 == p) with
    | some (_, r) => .ok (finish (s.setW d r))
    | none => .ok (waitCond { s with cur := { s.cur with ops := [BitVec.ofNat 64 p] } })) s

/-- gtest (R247): refused in reproducible mode. -/
def execGtest (d : WReg) (g : GReg) (s : State) : Out :=
  issue { illegal := s.me.actor, repro := true, top := topOf [d] } (fun s => do
    let x := gateOf s s.myCore g.toNat
    need x.armed (flt .capKind)
    .ok (finish (s.setW d (if x.released.any (·.1 == gatePhase s x g.toNat) then 1 else 0)))) s

/-- A packet of a hitch gate reaches its member (R401): the result of a member at member 0, or the release. None: it waits for the gate to be
armed for its phase, be it of a later arming (R450), as that of a phase is that has been released. DESIGN CHOICE (log 30): a result that is in
transit when its gate goes into error waits so too, for phase 0 of the next arming; unsafe. -/
def gateArrives (s : State) (n : Nat) (l : Launch) (p : Packet) : Option State :=
  let lead := 4 * barnAt l.px l.py
  match (List.range 4).find? fun c => (gateOf s (lead + c) 3).armed && (hitchGate s l n 3 (gateDesc (gateOf s (lead + c) 3).desc)).isSome with
  | none => none
  | some c =>
    let i := lead + c
    let x := gateOf s i 3
    let d := gateDesc x.desc
    if p.status ≠ 0 then some (gateFails s i 3)
    else if p.off.toNat ≠ x.phase || x.released.any (·.1 == p.off.toNat) || x.far.any (·.1 == p.smem.toNat) then none
    else if p.btag.toNat ≠ d.op then
      let u := gateFails s i 3
      match hitchOf s n with
      | some h => some ((otherMembers s n).foldl (fun u j => sendPacket u (gatePacket s h j d 0 none FaultCode.capBounds.code)) u)
      | none => some u
    else
      let v := if p.tagged then some p.data else none
      let cs := gateCores l d
      some ((cs.foldl (fun t j => modGate t j 3 fun y => { y with far := y.far ++ [(p.smem.toNat, v)] }) s).pushOnce (.gateRelease i 3))

end Sys2Proof.Machine
end

