-- ==== Sys2Proof/Machine/Hitch.lean ====
section
/-! DEFINITION. Hitches (R249 to R252, R401 to R408, R449): joining, detaching, leaving, and the steps of a held exit. -/

namespace Sys2Proof.Machine

def setHitch (s : State) (h : Hitch) : State := { s with hitches := s.hitches.map fun x => if x.id == h.id then h else x }
def hitchById (s : State) (id : Nat) : Option Hitch := s.hitches.find? (·.id == id)
def modHitch (s : State) (id : Nat) (f : Hitch → Hitch) : State := { s with hitches := s.hitches.map fun x => if x.id == id then f x else x }

/-- A hitch control packet to a member (R391). -/
def control (s : State) (h : Hitch) (j sub : Nat) : Packet :=
  { packetTo s h j 0 with type := 0x0E, txid := 0, data := BitVec.ofNat 64 sub }

/-- The members of a hitch that have not left, other than this package's (R449). -/
def present (h : Hitch) : List Nat := (List.range h.count).filter fun j => j ≠ h.me && h.memberOf j ≠ .gone

/-- The mode of a member's launch (R56): a formation gives every one the same (R402). -/
def Hitch.modeOf (h : Hitch) (own : Bool) (j : Nat) : Bool := if j = h.me then own else mget h.repro h.modes j

/-- The member that a window address names, none for another address. -/
def memberAt (addr : Nat) : Option Nat := if 2 ^ 47 ≤ addr then some ((addr - 2 ^ 47) / 2 ^ 40) else none

/-- Whether a source of accesses belongs to a hitch's group. -/
def ofGroup (s : State) (h : Hitch) : Source → Bool
  | .ctx c => (s.ctx c).launch == h.launch
  | .chan i _ => (s.barn (barnOfCore i)).launch == h.launch
  | .release l => l == h.launch

/-- Whether a group has an access to a member that is not performed yet (R251). -/
def groupBusy (s : State) (h : Hitch) (j : Nat) : Bool :=
  let mine (c : Nat) : Bool := (s.ctx c).launch == h.launch
  (s.txs.any fun t => t.2.2 == j && ofGroup s h t.2.1)
    || (s.posted.any fun p => mine p.src && p.cap.kind == 6 && (p.txid.isNone && j == h.me || p.loc / 2 ^ 40 == farLoc j 0 / 2 ^ 40))
    || (s.ctxs.any fun p => p.2.launch == h.launch && (match p.2.acc with
        | some a => a.k.kind == 6 && (memberAt a.addr == some j || (match a.op with | .replicate _ _ _ l _ _ => l.any (·.target == j) | _ => false))
        | none => false))
    || (s.cores.any fun p => (s.barn (barnOfCore p.1)).launch == h.launch && p.2.chans.toList.any fun ch =>
        ch.state ≠ 0 && (memberAt ch.src == some j || memberAt ch.dst == some j))

/-- The contexts of a group that wait for the acknowledgement of a member go on once they have every one (R250, R251). -/
def acked (s : State) (h : Hitch) (j : Nat) : State :=
  (s.ctxs.filter fun p => p.2.launch == h.launch && p.2.state == .waiting && h.leaver ≠ some p.1).foldl (fun t p =>
    match p.2.wait with
    | .acks left =>
      if left.contains j then
        let rest := left.erase j
        if rest = [] then finish (actHeld t p.1) else t.modCtx p.1 fun x => { x with wait := .acks rest }
      else t
    | _ => t) s

/-- A detach starts (R405): the attachment is Detaching from then on. The request to another member becomes due, to leave once the group's accesses
to the member are performed (R251, R298); a detach from the group's own member is acknowledged by its own unit. -/
def startDetach (s : State) (h : Hitch) (j : Nat) : State :=
  let t := modHitch s h.id fun h => { h with attach := mput .detached h.attach j .detaching }
  t.push (if j = h.me then .hitchAcknowledge (control s h j 6) else .hitchDetachRequest (control s h j 5))

/-- The members of a hitch that have left (R405), and a member whose answer to a withdrawal is in. -/
def goneMembers (h : Hitch) : List Nat := (List.range h.count).filter fun j => h.memberOf j == .gone
def Hitch.hears (h : Hitch) (j : Nat) : Hitch := { h with reported := if h.reported.contains j then h.reported else h.reported ++ [j] }

/-- A held exit moves on (R252, R407): once the group is detached from every member its package sends exit notices; once no other group is
attached to its slice it withdraws; once every member to which the withdrawal went has acknowledged, one that withdraws by itself among them (R449,
R451), the slice is released and hleave completes. The exit of a group that is away, or is being re-bound, goes on once it is back (R409). -/
def advanceExit (s : State) (id : Nat) : State :=
  if ((hitchById s id).bind fun h => s.launch? h.launch).any fun l => l.stage == .saved || l.stage == .placed then s else
  let s := match hitchById s id with
    | some h =>
      if h.stage = .leaving && (List.range h.count).all fun j => h.attachOf j == .detached then
        (present h).foldl (fun t j => sendPacket t (control s h j 7))
          (setHitch s { h with stage := .exitWait, member := mput .resident h.member h.me .holding })
      else s
    | none => s
  let s := match hitchById s id with
    | some h =>
      if h.stage = .exitWait && h.holders.isEmpty then
        (present h).foldl (fun t j => sendPacket t (control s h j 8))
          (setHitch s { h with stage := .withdrawing, reported := goneMembers h, member := mput .resident h.member h.me .gone })
      else s
    | none => s
  match hitchById s id with
  | some h =>
    if h.stage = .withdrawing && ((List.range h.count).filter (· ≠ h.me)).all h.reported.contains then
      let t := setHitch s { h with stage := .left, leaver := none }
      match h.leaver with
      | some c =>
        let u := actHeld t c
        match u.cur.ops with
        | r :: _ => finish (u.setCapOf c (r.setWidth 4) Cap.null)
        | [] => finish u
      | none => t
    else s
  | none => s

/-- The group begins to leave: it detaches from every member (R252). -/
def beginLeave (s : State) (h : Hitch) (leaver : Option Nat) : State :=
  let t := modHitch s h.id fun h => { h with stage := .leaving, leaver := leaver }
  advanceExit (((List.range h.count).filter fun j => h.attachOf j == .attached).foldl (fun t j => startDetach t h j) t) h.id

/-- The checks of a window capability that a hitch form names (R250, R31): the hitch. -/
def windowSteps (s : State) (k : Cap) : Except FaultInfo Hitch := do
  need (!k.isNull) (flt .capNull)
  need (k.kind == 6) (flt .capKind)
  need (k.world == s.me.world && k.read) (flt .capRights)
  match hitchOf s s.me.launch with
  | some h => if h.gen == k.gen then .ok h else .error (flt .hitchGone)
  | none => .error (flt .hitchGone)

/-- Whether the latch of a context that waits holds hjoin or hdetach. -/
def atUnit (s : State) (c : Nat) : Bool :=
  let x := s.ctx c
  x.state == .waiting && x.wait == .cond && (match x.latch with | some l => fMajor l.word == 0xD9 && fFunc l.word ≤ 1 | none => false)

/-- Whether a context that reached the hitch unit earlier waits there to join or detach one of these members (R406). -/
def behindOther (s : State) (h : Hitch) (set : List Nat) : Bool :=
  (h.line.takeWhile (·.1 ≠ s.cur.ctx)).any fun e => atUnit s e.1 && e.2.any set.contains

/-- The context at issue takes its place at the hitch unit and waits, or leaves it (R406). -/
def standAt (s : State) (h : Hitch) (set : List Nat) : State :=
  waitCond (modHitch s h.id fun h => if h.line.any (·.1 == s.cur.ctx) then h else { h with line := h.line ++ [(s.cur.ctx, set)] })
def Hitch.without (h : Hitch) (c : Nat) : Hitch := { h with line := h.line.filter (·.1 ≠ c) }
def leaveUnit (s : State) (h : Hitch) : State := modHitch s h.id fun h => h.without s.cur.ctx
/-- A form reaches the hitch unit at its issue, and a retry of it keeps its place (R406): what an earlier form of the context left there goes. -/
def reachUnit (s : State) (h : Hitch) : State × Hitch := if s.me.state = .waiting then (s, h) else (leaveUnit s h, h.without s.cur.ctx)

/-- hjoin (R56, R250, R406). -/
def execHjoin (ka : KReg) (b : WReg) (s : State) : Out :=
  issue { illegal := s.me.actor, top := b.toNat + 2 } (fun s => do
    notK15 [ka]
    let h ← windowSteps s (s.k ka)
    let (s, h) := reachUnit s h
    let set := memberSet (s.wn b.toNat) (s.wn (b.toNat + 1))
    set.forM fun j => do
      need (decide (j < h.count)) (flt .hitchAbsent)
      need (h.memberOf j == .resident) (flt .hitchGone)
      need (h.modeOf s.me.repro j == s.me.repro) (flt .capRights)
    if behindOther s h set || set.any fun j => h.attachOf j == .detaching then .ok (standAt s h set)
    else
      let s := leaveUnit s h
      let left := set.filter fun j => h.attachOf j ≠ .attached
      if left = [] then .ok (finish s)
      else
        let t := (left.filter fun j => h.attachOf j == .detached).foldl (fun t j =>
          let t := modHitch t h.id fun h => { h with attach := mput .detached h.attach j .joining }
          if j = h.me then t.push (.hitchAcknowledge (control s h j 6)) else sendPacket t (control s h j 4)) s
        .ok (waitFor t (.acks left) (some (heldLatch s true false)))) s

/-- hdetach (R251, R406): a member that is being joined is detached once it has acknowledged, and after a join that waits already. -/
def execHdetach (ka : KReg) (b : WReg) (s : State) : Out :=
  issue { illegal := s.me.actor, top := b.toNat + 2 } (fun s => do
    notK15 [ka]
    let h ← windowSteps s (s.k ka)
    let (s, h) := reachUnit s h
    let set := (memberSet (s.wn b.toNat) (s.wn (b.toNat + 1))).filter fun j =>
      decide (j < h.count) && h.memberOf j ≠ .gone && h.attachOf j ≠ .detached
    if behindOther s h (memberSet (s.wn b.toNat) (s.wn (b.toNat + 1))) || set.any fun j => h.attachOf j == .joining then
      .ok (standAt s h (memberSet (s.wn b.toNat) (s.wn (b.toNat + 1))))
    else if set = [] then .ok (finish (leaveUnit s h))
    else
      let s := leaveUnit s h
      let t := (set.filter fun j => h.attachOf j == .attached).foldl (fun t j => startDetach t h j) s
      .ok (waitFor t (.acks set) (some (heldLatch s true false)))) s

/-- hleave (R252). -/
def execHleave (ka : KReg) (s : State) : Out :=
  issue { illegal := s.me.actor } (fun s => do
    notK15 [ka]
    let h ← windowSteps s (s.k ka)
    need (s.k ka).full (flt .capKind)
    if h.stage = .left then .ok (finish (s.setK ka Cap.null))
    else if h.stage ≠ .bound || (List.range h.count).any fun j => h.attachOf j == .joining then .ok (waitCond s)
    else
      let u := { s with cur := { s.cur with ops := [ka.setWidth 64] } }
      .ok (beginLeave (waitFor u (.acks []) (some (heldLatch u true false))) h (some s.cur.ctx))) s

end Sys2Proof.Machine
end

