-- ==== Sys2Proof/Machine/Queue.lean ====
section
/-! DEFINITION. Hand-off queues (R21, R253) and mailboxes (R22, R254, R255). -/

namespace Sys2Proof.Machine

/-- Whether a context waits for a condition on an instruction that satisfies a predicate on its word. -/
def waitsOn (x : Ctx) (p : InstWord → Bool) : Bool :=
  x.state == .waiting && x.wait == .cond && (match x.latch with | some l => p l.word | none => false)

/-- Whether a context of the core began to wait earlier than the context at issue on an instruction like its own (R21, R256). -/
def mustQueue (s : State) (p : InstWord → Bool) : Bool :=
  s.ctxs.any fun x => x.1 ≠ s.cur.ctx && coreOf x.1 == s.myCore && waitsOn x.2 p && (s.me.state ≠ .waiting || x.2.since < s.me.since)

/-- The words of hpush to a queue, of hpop from it, and of the forms that start a channel. -/
def pushWord (q : QReg) (w : InstWord) : Bool := fMajor w == 0xDA && fFunc w == 0 && gD w == q.setWidth 7
def popWord (q : QReg) (w : InstWord) : Bool := fMajor w == 0xDA && fFunc w == 1 && gA w == q.setWidth 7
def putWord (mb : MbReg) (w : InstWord) : Bool := fMajor w == 0xDA && fFunc w == 3 && gD w == mb.setWidth 7
def startWord (ch : ChReg) (w : InstWord) : Bool := fMajor w == 0xE0 && (fFunc w == 0 || fFunc w == 1) && gD w == ch.setWidth 7

/-- A hand-off queue of a core. -/
def queueOf (s : State) (i : Nat) (q : QReg) : List HEntry := vat [] (s.core i).queues q.toNat
def setQueueOf (s : State) (i : Nat) (q : QReg) (es : List HEntry) : State := s.modCore i fun x => { x with queues := vset x.queues q.toNat es }

/-- hpush (R253, R21). -/
def execHpush (q : QReg) (a : WReg) (s : State) : Out :=
  issue { illegal := s.me.actor, top := topOf [a] } (fun s =>
    let es := queueOf s s.myCore q
    if 8 ≤ es.length || mustQueue s (pushWord q) then .ok (waitCond s)
    else
      let e : HEntry := { val := s.w a, by_ := s.cur.ctx, given := false, at_ := s.stamp }
      .ok (finish (State.push { (setQueueOf s s.myCore q (es ++ [e])) with stamp := s.stamp + 1 } (.handoffEntryGiven s.myCore q es.length)))) s

/-- HANDOFF_ENTRY_GIVEN (R253): an entry is given once its pusher's earlier accesses are performed. -/
def execHandoffEntryGiven (i : Nat) (q : QReg) (idx : Nat) (s : State) : Out :=
  let es := queueOf s i q
  match es[idx]? with
  | some e =>
    if !e.given && earlierDone s e.by_ e.at_ then
      .next (setQueueOf (s.did (.handoffEntryGiven i q idx)) i q (es.set idx { e with given := true }))
    else .next s
  | none => .next s

/-- The steps that give the entries behind a popped one name them by their new places. -/
def shiftGiven (s : State) (i : Nat) (q : QReg) : State :=
  { s with work := s.work.map fun x => match x with
      | .handoffEntryGiven j r n => if j = i && r = q then .handoffEntryGiven j r (n - 1) else x
      | _ => x }

/-- hpop (R253, R21): it waits for an entry that is given. -/
def execHpop (d : WReg) (q : QReg) (s : State) : Out :=
  issue { illegal := s.me.actor, top := topOf [d] } (fun s =>
    match queueOf s s.myCore q with
    | e :: es =>
      if !e.given || mustQueue s (popWord q) then .ok (waitCond s)
      else .ok (finish ((shiftGiven (setQueueOf s s.myCore q es) s.myCore q).setW d e.val))
    | [] => .ok (waitCond s)) s

/-- hpoll (R253): refused in reproducible mode. -/
def execHpoll (d : WReg) (q : QReg) (s : State) : Out :=
  issue { illegal := s.me.actor, repro := true, top := topOf [d] } (fun s =>
    .ok (finish (s.setW d (BitVec.ofNat 64 (queueOf s s.myCore q).length)))) s

/-! Mailboxes. -/

def boxOf (s : State) (i : Nat) (mb : MbReg) : Option Mailbox := vat none (s.core i).boxes mb.toNat
def setBox (s : State) (i : Nat) (mb : MbReg) (b : Option Mailbox) : State := s.modCore i fun x => { x with boxes := vset x.boxes mb.toNat b }

/-- The rows of R159 of a copy's source and destination. -/
def Class.copySource : Class := { kinds := [1, 2, 3, 5, 6, 7], rights := 0x01, logged := false }
def Class.copyTarget : Class := { kinds := [1, 6, 7], rights := 0x02, logged := false }

/-- The checks of a copy's length (R254). -/
def lengthSteps (len : Nat) : Except FaultInfo Unit := do
  need (64 ≤ len && len ≤ 2 ^ 32 - 64) (fltVal .capBounds 0 len)
  need (len % 64 = 0) (fltVal .align 0 len)

/-- The checks of a copy from an offset in one capability to an offset in another (R254, R30, R249): the two device addresses. -/
def copySteps (s : State) (kb kc : Cap) (so d_ : Int) (len : Nat) : Except FaultInfo (Nat × Nat) := do
  let src ← oneSide kb Class.copySource so
  let dst ← oneSide kc Class.copyTarget d_
  lengthSteps len
  .ok (src, dst)
where
  /-- One side of the copy. -/
  oneSide (k : Cap) (c : Class) (off : Int) : Except FaultInfo Nat := do
    capSteps s k c
    let addr ← boundsStep s s.myCore s.me.world k off len
    alignStep k off 64
    if k.kind == 6 then memberStep s k addr
    .ok addr

/-- The word of a mailbox request (R254). -/
def requestWord (flag : Option Nat) (len ctx dst : Nat) (world : BitVec 8) (src : Nat) : BitVec 256 :=
  BitVec.ofNat 256 (src + 2 ^ 48 * world.toNat + 2 ^ 64 * dst + 2 ^ 112 * ctx + 2 ^ 128 * len + 2 ^ 192 * flag.getD 0
    + (if flag.isSome then 2 ^ 255 else 0))

/-- Its fields. -/
def Mailbox.flag (m : Mailbox) : Option Nat := if m.word.getLsbD 255 then some (m.word.extractLsb' 192 48).toNat else none

/-- mbput (R254). -/
def execMbput (mb : MbReg) (a : WReg) (kb kc : KReg) (s : State) : Out :=
  issue { illegal := s.me.actor, top := a.toNat + 4 } (fun s => do
    notK15 [kb, kc]
    let b := s.k kb
    let c := s.k kc
    let len := (s.wn (a.toNat + 2)).toNat
    let fo := s.wn (a.toNat + 3)
    let d_ : Int := (s.wn (a.toNat + 1)).toNat
    let (src, dst) ← copySteps s b c (s.w a).toNat d_ len
    let flag ← (if fo = BitVec.allOnes 64 then .ok none
      else do
        let f ← boundsStep s s.myCore s.me.world c fo.toNat 8
        alignStep c fo.toNat 8
        need (!(decide ((fo.toNat : Int) < d_ + len) && decide (d_ < (fo.toNat : Int) + 8))) (fltAt .align 0 f)
        if c.kind == 6 then memberStep s c f
        .ok (some (meshForm s.myCore f)))
    if (boxOf s s.myCore mb).isSome || mustQueue s (putWord mb) then .ok (waitCond s)
    else
      let m : Mailbox :=
        { word := requestWord flag len (numOf s.cur.ctx) (meshForm s.myCore dst) s.me.world (meshForm s.myCore src), kb := b, kc := c,
          by_ := s.cur.ctx, at_ := s.stamp }
      .ok (finish { (setBox s s.myCore mb (some m)) with stamp := s.stamp + 1 })) s

/-- mbget (R118, R128, R255): a system context, and context 63 only. -/
def execMbget (d : WReg) (mb : MbReg) (s : State) : Out :=
  issue { priv := 2, deny := numOf s.cur.ctx ≠ 63, top := d.toNat + 4 } (fun s =>
    match boxOf s s.myCore mb with
    | none => .ok (waitCond s)
    | some m =>
      let t := (setBox s s.myCore mb none).modCore s.myCore fun x => { x with served := x.served ++ [(mb.toNat, m)] }
      .ok (finish (t.setRegsOf s.cur.ctx d.toNat ((List.range 4).map fun i => m.word.extractLsb' (64 * i) 64)))) s

end Sys2Proof.Machine
end

