-- ==== Sys2Proof/Machine/Channel.lean ====
section
/-! DEFINITION. Copy channels (R23, R256 to R261, R305, R375 to R381): the commands, and the blocks that a channel writes. -/

namespace Sys2Proof.Machine

def chanOf (s : State) (i n : Nat) : Channel := vat Channel.reset (s.core i).chans n
def setChan (s : State) (i n : Nat) (x : Channel) : State := s.modCore i fun c => { c with chans := vset c.chans n x }
def modChan (s : State) (i n : Nat) (f : Channel → Channel) : State := setChan s i n (f (chanOf s i n))

/-- The fault code of a value (R270). -/
def codeOf (v : BitVec 8) : FaultCode :=
  match v.toNat with
  | 0x01 => .zeroWord | 0x03 => .priv | 0x04 => .repro | 0x05 => .window | 0x06 => .badTarget | 0x07 => .capNull | 0x08 => .capKind
  | 0x09 => .capRights | 0x0A => .capBounds | 0x0B => .align | 0x0C => .xltFault | 0x0D => .poison | 0x0E => .fmtReserved | 0x0F => .fmtIll
  | 0x10 => .fmtClash | 0x11 => .hitchAbsent | 0x12 => .hitchGone | 0x13 => .vrtDup | 0x14 => .ringFull | 0x15 => .recallOverflow
  | _ => .illegal

/-- The fault of a channel as cpwait raises it (R259, R379): late, with DETAIL 15. -/
def chanFault (x : Channel) : FaultInfo := (fltAt (codeOf x.fcode) 15 x.faddr).lateOf

/-- Whether a context waits in cpwait on a channel of its core, or in cpcancel in reproducible mode, which acts as cpwait (R259, R261). -/
def waitsChan (s : State) (c n : Nat) : Bool :=
  let x := s.ctx c
  x.state == .waiting && x.wait == .cond && (match x.latch with
    | some l => fMajor l.word == 0xE0 && (fFunc l.word == 2 || (fFunc l.word == 5 && x.repro)) && (gD l.word).toNat % 8 == n
    | none => false)

/-- A channel has become idle: each cpwait on it returns, or raises the fault in FCODE where the copy is incomplete, before the next command can take the
channel (R259). -/
def wakeChan (s : State) (i n : Nat) : State :=
  (ctxsOfCore i).foldl (fun t c =>
    if !waitsChan t c n then t
    else { (if (chanOf t i n).fcode = 0 then finish (actHeld t c) else raise (actHeld t c) (chanFault (chanOf t i n))) with cur := t.cur }) s

/-- Sources of translated requests as numbers (R342). -/
def Source.num : Source → Nat
  | .ctx c => c
  | .chan i n => 2 ^ 24 + 8 * i + n
  | .release l => 2 ^ 32 + l
def sourceOf (n : Nat) : Source :=
  if n < 2 ^ 24 then .ctx n else if n < 2 ^ 32 then .chan ((n - 2 ^ 24) / 8) ((n - 2 ^ 24) % 8) else .release (n - 2 ^ 32)

/-- Blocks of a channel's range, and blocks written. -/
def Channel.blocks (x : Channel) : Nat := x.len / 64
def Channel.done (x : Channel) : Nat := x.mark / 64 + x.written.length

/-- The device addresses to which a channel writes, with their numbers: its destination, or those of a multicast that have not acknowledged
(R381). -/
def Channel.aims (x : Channel) : List (Nat × Nat) :=
  if x.mcast then (x.dsts.zip (List.range x.dsts.length)).filter fun p => !x.acked.contains p.2 else [(x.dst, 0)]
def Channel.targets (x : Channel) : List Nat := x.aims.map (·.1)

/-! Block-transfer engines (R375). -/

/-- Whether an address lies in the translated space or names a member of another package. -/
def viaEngine (s : State) (i addr : Nat) : Bool :=
  match place i addr with
  | .xlat _ => true
  | .window j _ => (match hitchOf s (s.barn (barnOfCore i)).launch with | some h => h.me ≠ j | none => true)
  | _ => false

/-- Whether a channel's blocks are carried by an engine. -/
def chanViaEngine (s : State) (i : Nat) (x : Channel) : Bool := viaEngine s i x.src || x.targets.any (viaEngine s i)

/-- The number of a block request: its requester and its block. -/
def reqId (i n blk : Nat) : Nat := (8 * i + n) * 2 ^ 26 + blk
def reqBlock (id : Nat) : Nat := id % 2 ^ 26

/-- A block of a channel begins: at an engine, or in the channel alone. -/
def beginBlock (s : State) (i n blk : Nat) : State :=
  let e := engineOf i n
  if chanViaEngine s i (chanOf s i n) then
    let x := s.engine e
    State.push
      (s.setEngine e { x with reqs := x.reqs ++ [{ id := reqId i n blk, core := i, chan := n, tries := 0, held := false, reserved := false }] })
      (.bteRequest e (reqId i n blk))
  else s.push (.channelBlockWrite i (BitVec.ofNat 3 n) blk)

/-- Blocks that a channel keeps in flight (R378); a multicast sends a block to every destination before it reads the next (R381). -/
def inFlight (s : State) (i n : Nat) : Nat := if (chanOf s i n).mcast then 1 else 16

/-- The steps, the engine entries, the requests and the data of a channel's blocks are withdrawn. -/
def dropBlocks (s : State) (i n : Nat) : State :=
  let s := modChan s i n fun x => { x with data := [], far := [], miss := none }
  let e := engineOf i n
  let x := s.engine e
  let mine (r : BteReq) : Bool := r.core == i && r.chan == n
  let t := s.setEngine e { x with reqs := x.reqs.filter fun r => !mine r }
  { t with
    work := t.work.filter fun w => match w with
      | .channelBlockWrite j c _ => !(j == i && c.toNat == n)
      | .channelComplete j c => !(j == i && c.toNat == n)
      | .bteRequest g id => !(g == e && id / 2 ^ 26 == 8 * i + n)
      | .bteRetry g id => !(g == e && id / 2 ^ 26 == 8 * i + n)
      | .translationMiss m => m ≠ (Source.chan i n).num
      | .niRetry m => m ≠ (Source.chan i n).num
      | _ => true
    txs := t.txs.filter fun x => x.2.1 ≠ .chan i n }
  |> fun (t : State) => t.stations.foldl (fun t p => t.setStation p.1 { p.2 with
      parked := p.2.parked.filter (·.src ≠ .chan i n), refused := p.2.refused.filter (·.src ≠ .chan i n) }) t

/-- The destinations that hold their whole range send their acknowledgements (R381). -/
def sendAcks (s : State) (i n : Nat) : State :=
  let x := chanOf s i n
  x.full.foldl (fun t j => if x.acked.contains j then t else t.pushOnce (.mcastAck i (BitVec.ofNat 3 n) j)) s

/-- A channel begins or resumes at its watermark: its first blocks begin, or what follows its last block (R259, R291). -/
def beginBlocks (s : State) (i n : Nat) : State :=
  let x := chanOf s i n
  if x.len ≤ x.mark then (if x.mcast then sendAcks s i n else s.pushOnce (.channelComplete i (BitVec.ofNat 3 n))) else
  (List.range (min (inFlight s i n) (x.blocks - x.mark / 64))).foldl (fun t b => beginBlock t i n (x.mark / 64 + b)) s

/-- A channel becomes idle with its copy incomplete: its pins and its mailbox request are released, its flag is not touched, and its FCODE is
kept until the next command (R259, R261). -/
def idleChan (s : State) (i n : Nat) : State :=
  let t := modChan (dropBlocks s i n) i n fun x => { x with
    state := 0, cancel := false, charged := none, written := [], pins := [], mailbox := none, after := [],
    mark := if x.mcast then 0 else x.mark, dsts := [], full := [], acked := [] }
  if (chanOf s i n).state = 0 then t else wakeChan t i n

/-- A channel stops at a fault, below the faulting block (R259); one that meets poison loses its launch's results (R5). One that is being
cancelled becomes idle. -/
def stopChan (s : State) (i n : Nat) (f : FaultInfo) : State :=
  let x := chanOf s i n
  let t := if f.code == .poison then loseResults s x.launch else s
  let t := modChan (dropBlocks t i n) i n fun x => { x with state := 2, fcode := f.code.code, faddr := f.addr, charged := none, written := [] }
  if x.cancel then idleChan t i n else t

/-! Starting. -/

/-- The command of a channel is taken (R256). -/
def startChan (s : State) (n : Nat) (x : Channel) : State :=
  let t := setChan (dropBlocks s s.myCore n) s.myCore n
    { x with state := 1, starter := s.cur.ctx, launch := (s.barn s.myBarn).launch, after := (s.cur.ctx, s.stamp) :: x.after }
  finish (beginBlocks { t with stamp := s.stamp + 1 } s.myCore n)

/-- Whether two ranges of device addresses, each through a capability, meet (R256), as locations (R294). -/
def copyMeets (s : State) (i asid : Nat) (world : BitVec 8) (k1 : Cap) (a : Nat) (k2 : Cap) (b n : Nat) : Bool :=
  touches (spanOf s i asid world k1 a n) (spanOf s i asid world k2 b n)

/-- cpstart, capability form (R256). -/
def execCpstartCap (ch : ChReg) (ka kb : KReg) (c : WReg) (s : State) : Out :=
  issue { illegal := s.me.actor, top := c.toNat + 3 } (fun s => do
    notK15 [ka, kb]
    let a := s.k ka
    let b := s.k kb
    let len := (s.wn (c.toNat + 2)).toNat
    let (src, dst) ← copySteps s a b (s.w c).toNat (s.wn (c.toNat + 1)).toNat len
    need (!copyMeets s s.myCore s.me.asid.toNat s.me.world a src b dst len) (fltAt .capBounds 0 dst)
    if (chanOf s s.myCore ch.toNat).state ≠ 0 || mustQueue s (startWord ch) then .ok (waitCond s)
    else
      .ok (startChan s ch.toNat { Channel.reset with
        src := src, dst := dst, len := len, world := s.me.world, asid := s.me.asid.toNat, pins := [a, b] })) s

/-- The mailbox request that an address form names (R256): the oldest that mbget has read from that mailbox. -/
def servedRequest (s : State) (v : Word) : Option Mailbox :=
  if v.getLsbD 11 then ((s.core s.myCore).served.find? (·.1 == (v.extractLsb' 8 3).toNat)).map (·.2) else none

/-- One range of an address form (R256, R40, R47): a device address for a world. -/
def addressSteps (s : State) (world : BitVec 8) (v : Word) (len : Nat) : Except FaultInfo Unit := do
  match firstBad s s.myCore world v.toNat len with
  | some f => .error f
  | none => need (decide (v.toNat % 64 = 0)) (fltAt .align 0 v.toNat)

/-- cpstart, address form (R256): SYS only. -/
def execCpstartAddr (ch : ChReg) (c : WReg) (s : State) : Out :=
  issue { illegal := s.me.actor, priv := 2, top := c.toNat + 4 } (fun s => do
    let len := (s.wn (c.toNat + 2)).toNat
    let v := s.wn (c.toNat + 3)
    let world := v.setWidth 8
    addressSteps s world (s.w c) len
    addressSteps s world (s.wn (c.toNat + 1)) len
    lengthSteps len
    let src := (s.w c).toNat
    let dst := (s.wn (c.toNat + 1)).toNat
    let m := servedRequest s v
    let k1 := (m.map (·.kb)).getD Cap.null
    let k2 := (m.map (·.kc)).getD Cap.null
    let asid := if m.isSome then ((s.launch? (s.barn s.myBarn).launch).map (·.asid.toNat)).getD s.me.asid.toNat else s.me.asid.toNat
    need (!copyMeets s s.myCore asid world k1 src k2 dst len) (fltAt .capBounds 0 dst)
    if (chanOf s s.myCore ch.toNat).state ≠ 0 || mustQueue s (startWord ch) then .ok (waitCond s)
    else
      let t := match m with
        | some m => s.modCore s.myCore fun x => { x with served := x.served.erase ((v.extractLsb' 8 3).toNat, m) }
        | none => s
      .ok (startChan t ch.toNat { Channel.reset with
        src := src, dst := dst, len := len, world := world, asid := asid,
        mailbox := m, pins := (m.map fun m => [m.kb, m.kc]).getD [], after := (m.map fun m => [(m.by_, m.at_)]).getD [] })) s

/-- The checks of one slot of a multicast's table (R258): the device address of the destination. -/
def tableSteps (s : State) (loc : Nat) (off len : Nat) : Except FaultInfo Nat := do
  let k := s.slot loc
  need (!k.isNull) (flt .capNull)
  need k.plainOwned (flt .capKind)
  need (k.world == s.me.world && k.write) (flt .capRights)
  boundsStep s s.myCore s.me.world k off len

/-- cpmcast (R258). DESIGN CHOICE (log 30): R258 names no row of R159 for the table's capability, and the table is read as a load reads; unsafe. A
table in a region that another context has locked is read once the lock clears (R171), and a poisoned slot raises POISON late (R333). -/
def execCpmcast (ch : ChReg) (ka kb : KReg) (c : WReg) (s : State) : Out :=
  issue { illegal := s.me.actor, top := c.toNat + 5 } (fun s => do
    notK15 [ka, kb]
    let a := s.k ka
    let b := s.k kb
    let len := (s.wn (c.toNat + 2)).toNat
    let q := (s.wn (c.toNat + 3)).toNat
    let d_ := (s.wn (c.toNat + 4)).toNat
    capSteps s a Class.copySource
    let src ← boundsStep s s.myCore s.me.world a (s.w c).toNat len
    alignStep a (s.w c).toNat 64
    if a.kind == 6 then memberStep s a src
    lengthSteps len
    need (1 ≤ q && q ≤ 64) (fltVal .capBounds 0 q)
    let toff : Int := (s.wn (c.toNat + 1)).toNat
    capSteps s b Class.copySource
    let table ← boundsStep s s.myCore s.me.world b toff (16 * q)
    alignStep b toff 16
    need (decide (d_ % 64 = 0)) (fltAt .align 0 d_)
    match place s.myCore table with
    | .sram loc => do
      if lockedOut s s.cur.ctx loc (16 * q) then .ok (waitCond s) else
      need (!(List.range q).any fun j => unreadable s (loc + 16 * j)) (fltAt .poison 0 table).lateOf
      let dsts ← (List.range q).mapM fun j => tableSteps s (loc + 16 * j) d_ len
      match dsts.find? fun d => copyMeets s s.myCore s.me.asid.toNat s.me.world a src Cap.null d len with
      | some d => .error (fltAt .capBounds 0 d)
      | none =>
        if (chanOf s s.myCore ch.toNat).state ≠ 0 || mustQueue s (startWord ch) then .ok (waitCond s)
        else
          .ok (startChan s ch.toNat { Channel.reset with
            src := src, len := len, world := s.me.world, asid := s.me.asid.toNat, mcast := true, dsts := dsts, table := table, pins := [a, b] })
    | _ => .error (flt .capKind)) s

/-! Waiting, status and cancelling. -/

/-- cpwait (R259). -/
def waitChan (ch : ChReg) (s : State) : Except FaultInfo State :=
  let i := s.myCore
  let n := ch.toNat
  let x := chanOf s i n
  if x.state = 0 then (if x.fcode = 0 then .ok (finish s) else .error (chanFault x))
  else if x.state = 1 then .ok (waitCond s)
  else
    match x.charged with
    | none => .ok (raise (modChan s i n fun x => { x with charged := some s.cur.ctx }) (chanFault x))
    | some c =>
      if c = s.cur.ctx then .ok (waitCond (beginBlocks (modChan s i n fun x => { x with state := 1, fcode := 0, faddr := 0, charged := none }) i n))
      else .ok (waitCond s)

/-- cpwait (R259). -/
def execCpwait (ch : ChReg) (s : State) : Out := issue {} (waitChan ch) s

/-- cpstat (R260): refused in reproducible mode. -/
def execCpstat (d : WReg) (ch : ChReg) (s : State) : Out :=
  issue { repro := true, top := topOf [d] } (fun s =>
    let x := chanOf s s.myCore ch.toNat
    .ok (finish (s.setW d (BitVec.ofNat 64 (x.state + 256 * x.fcode.toNat + 65536 * x.mcast.toNat))))) s

/-- The watermark of a channel, from the destination start; that of a multicast stays there until it completes (R258). -/
def watermark (x : Channel) : Nat := if x.mcast && x.state ≠ 0 then 0 else x.mark

/-- cpwm (R260): refused in reproducible mode. -/
def execCpwm (d : WReg) (ch : ChReg) (s : State) : Out :=
  issue { repro := true, top := topOf [d] } (fun s => .ok (finish (s.setW d (BitVec.ofNat 64 (watermark (chanOf s s.myCore ch.toNat)))))) s

/-- Whether a channel has a block in flight: it is busy, and its destination is not written to the end, or a member has not answered. -/
def blockInFlight (s : State) (i n : Nat) : Bool :=
  let x := chanOf s i n
  x.state == 1 && (decide (x.mark < x.len) || !x.far.isEmpty)

/-- A channel is cancelled (R261, R380): it stops once its block in flight has been written, and is idle then. -/
def cancelChan (s : State) (i n : Nat) : State :=
  if (chanOf s i n).state = 0 then s else if blockInFlight s i n then modChan s i n fun x => { x with cancel := true } else idleChan s i n

/-- cpcancel (R261): in reproducible mode it acts as cpwait. It waits for the block in flight of a busy channel, which it marks; the latch keeps
that it has. -/
def execCpcancel (ch : ChReg) (s : State) : Out :=
  issue { illegal := s.me.actor } (fun s =>
    let i := s.myCore
    let n := ch.toNat
    let marked := s.cur.latched && s.cur.ops ≠ []
    if s.me.repro then waitChan ch s
    else if (chanOf s i n).state = 0 then .ok (finish s)
    else if marked then .ok (if (chanOf s i n).cancel then waitCond s else finish s)
    else if blockInFlight s i n then
      .ok (waitCond { cancelChan s i n with cur := { s.cur with ops := [1] } })
    else .ok (finish (cancelChan s i n))) s

/-! Blocks. -/

/-- The reach of a channel's access (R342, R43). -/
def chanReach (s : State) (i : Nat) (x : Channel) (k : Cap) (addr : Nat) (write : Bool) : Reach :=
  let b := barnOfCore i
  let n := (s.barn b).launch
  match place i addr with
  | .sram loc => .here (if k.kind == 7 then versionLoc (regionKey k) (routeOf.versionNum s k) (addr - k.base.toNat) else loc) false
  | .hole => .here addr false
  | .xlat va =>
    match cachedLeaf s b x.asid va write with
    | some l => .here (leafLoc s k addr l va) l.shared
    | none => .miss (stationOf b va) x.asid va
  | .window j off =>
    match hitchOf s n, s.launch? n with
    | some h, some l => if h.me == j then .here (sliceLoc l off) false else .far j off
    | _, _ => .far j off

/-- Whether the routers deliver a channel's access (R41). -/
def chanRouterOk (s : State) (i : Nat) (x : Channel) (loc : Nat) : Bool :=
  !isSram loc || locBarn loc == barnOfCore i || (s.barn (locBarn loc)).world == x.world

/-- What one side of a block, or a flag word, meets at its memory. -/
inductive Side where
  | ok (loc : Nat) (shared : Bool)
  | far (j off : Nat)
  | wait
  | behind
  | miss (va : Nat)
  | bad (f : FaultInfo)

/-- The member checks of a channel's access to another package (R249, R405). -/
def chanMember (s : State) (i j addr : Nat) : Option FaultInfo :=
  match hitchOf s (s.barn (barnOfCore i)).launch with
  | none => some (fltAt .hitchGone 0 addr)
  | some h =>
    if h.memberOf j == .gone then some (fltAt .hitchGone 0 addr)
    else if h.count ≤ j || !(h.attachOf j == .attached || h.attachOf j == .detaching) then some (fltAt .hitchAbsent 0 addr)
    else none

/-- One side of a block (R257, R378, R379): it waits for a region lock, and a write for a multicast that has its location pinned (R258). -/
def sideOf (s : State) (i : Nat) (x : Channel) (k : Cap) (addr n : Nat) (write : Bool) : Side :=
  match chanReach s i x k addr write with
  | .miss _ _ va => .miss va
  | .far j off => match chanMember s i j addr with | some f => .bad f | none => .far j off
  | .here loc shared =>
    if !chanRouterOk s i x loc then .bad (fltAt .capRights 13 addr)
    else if lockedAny s loc n || (write && pinnedSource s [(loc, n)]) then .wait
    else if s.blockStashed loc then .bad (flt .capKind |> fun f => { f with addr := addr })
    else if (if write then withdrawn s loc else unreadable s loc) then .bad (fltAt .poison 0 addr)
    else .ok loc shared

/-- The block that a channel is about to read, or to merge a flag with, verifies its ICODE (R336, R337). -/
def chanVerify (s : State) (i : Nat) (x : Channel) (k : Cap) (addr : Nat) (write : Bool) : State :=
  match chanReach s i x k addr write with
  | .here loc shared => verify s x.world loc shared
  | _ => s

/-- Whether the accesses that a channel's first access follows are performed (R298). -/
def chanReady (s : State) (x : Channel) : Bool := x.after.all fun p => earlierDone s p.1 p.2

/-- A block of a channel is written: the watermark moves over the contiguous run, and the next block begins (R257, R378), unless the channel is
being cancelled (R261). -/
def blockWritten (s : State) (i n blk : Nat) : State :=
  let e := engineOf i n
  let en := s.engine e
  let t := s.setEngine e { en with reqs := en.reqs.filter fun r => !(r.core == i && r.chan == n && reqBlock r.id == blk) }
  let t := modChan t i n fun x => advanceMark x.blocks { x with written := x.written ++ [blk] }
  let x := chanOf t i n
  let next := x.done + (inFlight t i n - 1)
  if x.cancel then idleChan t i n else
  let t := if next < x.blocks then beginBlock t i n next else t
  if x.mark < x.len then t else if x.mcast then sendAcks t i n else t.push (.channelComplete i (BitVec.ofNat 3 n))
where
  /-- The watermark passes every block of the contiguous run. -/
  advanceMark : Nat → Channel → Channel
    | 0, x => x
    | f + 1, x =>
      if x.written.contains (x.mark / 64) then advanceMark f { x with mark := x.mark + 64, written := x.written.erase (x.mark / 64) } else x

/-- Writes a block at a location (R257, R333, R336, R338). -/
def writeBlock (s : State) (world : BitVec 8) (loc : Nat) (shared : Bool) (v : Nat) (tag : BitVec 16) : State :=
  reseal (blockAt s loc v (if shared then 0 else tag)) world loc

/-- A request of a channel's block to a member of another package (R391, R398). -/
def chanRequest (s : State) (i n blk j : Nat) (f : Packet → Packet) : State :=
  match hitchOf s (s.barn (barnOfCore i)).launch with
  | none => s
  | some h =>
    let tx := s.stamp % 2 ^ 14
    modChan { sendPacket s (f (packetTo s h j (srcField i n))) with txs := s.txs ++ [(tx, .chan i n, j)], stamp := s.stamp + 1 } i n fun x =>
      { x with far := x.far ++ [(tx, blk)] }

/-- The step of a block. -/
def blockStep (i n blk : Nat) : Instr := .channelBlockWrite i (BitVec.ofNat 3 n) blk

/-- A channel's block needs a translation that the two levels do not hold (R344); while another request of the channel stands at a station, it
comes back later. -/
def chanMiss (s : State) (i n va : Nat) (write : Bool) : State :=
  if (chanOf s i n).miss.isSome then s
  else (modChan s i n fun x => { x with miss := some (va, write) }).pushOnce (.translationMiss (Source.chan i n).num)

/-- Whether the request of a channel at a virtual address finds one of the same channel parked or refused at its station (R345). -/
def standsBehind (s : State) (i n addr : Nat) : Bool :=
  match place i addr with
  | .xlat va =>
    let st := s.station (stationOf (barnOfCore i) va)
    st.parked.any (·.src == .chan i n) || st.refused.any (·.src == .chan i n)
  | _ => false

/-- Such a request is parked behind it (R345). -/
def parkBehind (s : State) (i n blk addr : Nat) (write : Bool) : State :=
  match place i addr with
  | .xlat va =>
    let x := chanOf s i n
    let k := stationOf (barnOfCore i) va
    let st := s.station k
    if !st.parked.any (·.src == .chan i n) || x.miss == some (va, write) || st.parked.any (fun r => r.src == .chan i n && r.behind == blk + 1)
        || Config.parkedStore ≤ st.parked.length then s
    else s.setStation k { st with parked := st.parked ++
      [{ src := .chan i n, asid := x.asid, granule := va / 2 ^ 16, world := x.world, write := write, behind := blk + 1 }] }
  | _ => s

/-- A block that is read is kept until it is written: it is not read again (R378). -/
def keepBlock (s : State) (i n blk v : Nat) (tag : BitVec 16) : State :=
  modChan s i n fun x => { x with data := x.data.filter (·.1 ≠ blk) ++ [(blk, v, tag)] }
/-- One that waits for its destination is tried again. -/
def holdBlock (s : State) (i n blk v : Nat) (tag : BitVec 16) : State := (keepBlock s i n blk v tag).pushOnce (blockStep i n blk)

/-- The destinations of a multicast that a block has reached, when it is the last one, hold their whole range (R381). -/
def reachedLast (s : State) (i n blk : Nat) (js : List Nat) : State :=
  let x := chanOf s i n
  if x.mcast && blk + 1 == x.blocks then sendAcks (modChan s i n fun x => { x with full := x.full ++ js.filter (!x.full.contains ·) }) i n else s

/-- The data of a block, once it is read, is written to the channel's destinations, in table order up to one that faults (R381). -/
def deliverBlock (s : State) (i n blk : Nat) (v : Nat) (tag : BitVec 16) : State :=
  let x := chanOf s i n
  let sides := x.aims.map fun d => (d.1 + 64 * blk, d.2, if standsBehind s i n (d.1 + 64 * blk) then Side.behind else sideOf s i x x.dstCap (d.1 + 64 * blk) 64 true)
  let before := sides.takeWhile fun p => match p.2.2 with | .ok _ shared => !shared || tag == 0 | _ => false
  let put := before.foldl (fun t p => match p.2.2 with | .ok loc shared => writeBlock t x.world loc shared v tag | _ => t) s
  let put := reachedLast put i n blk (before.map (·.2.1))
  match (sides.drop before.length).head? with
  | none => blockWritten (modChan put i n fun x => { x with data := x.data.filter (·.1 ≠ blk) }) i n blk
  | some (addr, _, side) =>
    match side with
    | .bad f => stopChan put i n f
    | .ok .. => stopChan put i n (fltAt .capKind 0 addr)
    | .miss va => chanMiss (holdBlock s i n blk v tag) i n va true
    | .behind => parkBehind (holdBlock s i n blk v tag) i n blk addr true
    | .wait => holdBlock s i n blk v tag
    | .far j off =>
      chanRequest (keepBlock put i n blk v tag) i n blk j fun p => { p with
        type := 0x0F, off := BitVec.ofNat 40 off, width := 64, btag := tag, tagged := true, flits := [BitVec.ofNat 512 v] }

/-- Whether a block's request is the one that its engine performs next for its command: the requests of one command in the order of their
acceptance (R376). -/
def firstAccepted (s : State) (i n blk : Nat) : Bool :=
  ((s.engine (engineOf i n)).reqs.find? fun r => r.core == i && r.chan == n && r.held && !(chanOf s i n).far.any (·.2 == reqBlock r.id)).any
    fun r => reqBlock r.id == blk

/-- CHANNEL_BLOCK_WRITE (R257, R378 to R381): the block is read once, and written with its tag. A request of a channel that has one parked at the
same station parks behind it (R345). -/
def execChannelBlockWrite (i : Nat) (ch : ChReg) (blk : Nat) (s : State) : Out :=
  let n := ch.toNat
  let x := chanOf s i n
  let t := s.did (.channelBlockWrite i ch blk)
  if x.state ≠ 1 || blk < x.mark / 64 || x.done + inFlight s i n ≤ blk || x.blocks ≤ blk || x.written.contains blk || !chanReady s x
      || x.far.any (·.2 == blk) then .next s
  else if chanViaEngine s i x && !firstAccepted s i n blk then .next s
  else
    match x.data.find? (·.1 == blk) with
    | some (_, v, tag) => .next (deliverBlock t i n blk v tag)
    | none =>
      let a := x.src + 64 * blk
      if standsBehind s i n a then .next (parkBehind s i n blk a false) else
      let t := chanVerify t i x x.srcCap a false
      match sideOf t i x x.srcCap a 64 false with
      | .bad f => .next (stopChan t i n f)
      | .miss va => .next (chanMiss s i n va false)
      | .wait | .behind => .next s
      | .far j off => .next (chanRequest t i n blk j fun p => { p with type := 0x01, off := BitVec.ofNat 40 off, width := 64, tagged := true })
      | .ok loc shared => .next (deliverBlock t i n blk (s.readLe loc 64) (if shared then 0 else s.tag loc))

/-- A channel is complete (R257): its pins are released, it is idle, and who waits for it goes on (R259). -/
def endChan (s : State) (i n : Nat) : State :=
  let t := modChan (dropBlocks s i n) i n fun x => { x with
    state := 0, fcode := 0, cancel := false, charged := none, written := [], pins := [], mailbox := none, after := [], mark := x.len, dsts := [],
    full := [], acked := [] }
  wakeChan t i n

/-- CHANNEL_COMPLETE (R257, R168): the flag of a mailbox request is incremented first, in a block whose ICODE verifies (R337). -/
def execChannelComplete (i : Nat) (ch : ChReg) (s : State) : Out :=
  let n := ch.toNat
  let x := chanOf s i n
  let t := s.did (.channelComplete i ch)
  if x.state ≠ 1 || x.mark < x.len || x.mcast || !x.far.isEmpty then .next s
  else
    match x.mailbox.bind Mailbox.flag with
    | none => .next (endChan t i n)
    | some addr =>
      if standsBehind s i n addr then .next s else
      let t := chanVerify t i x x.dstCap addr true
      match sideOf t i x x.dstCap addr 8 true with
      | .bad f => .next (stopChan t i n f)
      | .miss va => .next (chanMiss s i n va true)
      | .wait | .behind => .next s
      | .far j off => .next (chanRequest t i n x.blocks j (fun p => primPacket p off none .incr))
      | .ok loc shared =>
        if unreadable t loc then .next (stopChan t i n (fltAt .poison 0 addr))
        else
          let u := t.writeLe loc 8 ((s.readLe loc 8 + 1) % 2 ^ 64)
          .next (endChan (if shared then u else reseal u x.world loc) i n)

/-- MCAST_ACK (R258, R381): a destination acknowledges once every block of its range is performed there; the channel completes at the last
acknowledgement. -/
def execMcastAck (i : Nat) (ch : ChReg) (dst : Nat) (s : State) : Out :=
  let n := ch.toNat
  let x := chanOf s i n
  if x.state = 0 || !x.mcast || !x.full.contains dst || x.acked.contains dst then .next s
  else
    let t := modChan (s.did (.mcastAck i ch dst)) i n fun x => { x with acked := x.acked ++ [dst] }
    .next (if x.acked.length + 1 = x.dsts.length then endChan t i n else t)

/-- A reply reaches a channel: the data of a block that it read at a member, or the status of its write or of its flag increment. -/
def chanReply (s : State) (i n tx : Nat) (status : BitVec 8) (data : Option (Nat × BitVec 16)) : State :=
  let x := chanOf s i n
  match x.far.find? (·.1 == tx) with
  | none => s
  | some (_, blk) =>
    let s := modChan s i n fun x => { x with far := x.far.filter (·.1 ≠ tx) }
    if x.state ≠ 1 then s
    else if status ≠ 0 then stopChan s i n (fltAt (codeOf status) 0 (if data.isSome then x.src + 64 * blk else x.dst + min (64 * blk) (x.len - 64)))
    else
      match data with
      | some (v, tag) => deliverBlock s i n blk v tag
      | none =>
        if blk = x.blocks then endChan s i n
        else blockWritten (modChan s i n fun x => { x with data := x.data.filter (·.1 ≠ blk) }) i n blk

/-- A request of a channel to another package is refused there (R376, R391): its block is sent again. -/
def chanRefused (s : State) (i n tx : Nat) : State :=
  match (chanOf s i n).far.find? (·.1 == tx) with
  | none => s
  | some (_, blk) =>
    let t := modChan s i n fun x => { x with far := x.far.filter (·.1 ≠ tx) }
    if blk = (chanOf s i n).blocks then t.pushOnce (.channelComplete i (BitVec.ofNat 3 n)) else t.pushOnce (blockStep i n blk)

/-! Block requests (R376). -/

/-- General and reserved entries of an engine. -/
def generalEntries : Nat := 56
def reservedEntries : Nat := 8

/-- The refusal word of a request, and its HINT (R376). DESIGN CHOICE (log 30): TRIES counts the refusal that the word tells; unsafe. -/
def refusalWord (eng occ tries : Nat) : Word := BitVec.ofNat 64 (min tries 255 + 256 * occ + 65536 * (1 + occ / 8) + 2 ^ 32 * eng)
def refusalHint (w : Word) : Nat := (w.extractLsb' 16 16).toNat

/-- A request that is refused has the word, and its network interface sends it again HINT x 16 cycles later with one more in TRIES (R376). -/
def BteReq.refuse (r : BteReq) (eng occ cycle : Nat) : BteReq :=
  let w := refusalWord eng occ (min (r.tries + 1) 255)
  { r with tries := min (r.tries + 1) 255, word := some w, due := cycle + 16 * refusalHint w }

/-- BTE_REQUEST (R376): a request is accepted, behind those accepted before it, or refused with a word that its requester's network interface
takes. -/
def execBteRequest (eng id : Nat) (s : State) : Out :=
  let e := s.engine eng
  match e.reqs.find? (·.id == id) with
  | none => .next s
  | some r =>
    if r.held then .next s
    else
      let t := s.did (.bteRequest eng id)
      let take (res : Bool) : State :=
        let u := t.setEngine eng { e with reqs := e.reqs.filter (·.id ≠ id) ++ [{ r with held := true, reserved := res }] }
        if r.chan = 8 then u else u.push (.channelBlockWrite r.core (BitVec.ofNat 3 r.chan) (reqBlock id))
      let used (res : Bool) : Nat := (e.reqs.filter fun x => x.held && x.reserved == res).length
      if used false < generalEntries then .next (take false)
      else if 4 ≤ r.tries && used true < reservedEntries then .next (take true)
      else
        let occ := used false + used true
        .next (State.push
          (t.setEngine eng { refused := e.refused + 1, reqs := e.reqs.map fun x => if x.id == id then x.refuse eng occ s.cycle else x })
          (.bteRetry eng id))

/-- BTE_RETRY (R376): once the cycles that the refusal word hints at are over. -/
def execBteRetry (eng id : Nat) (s : State) : Out :=
  if (s.engine eng).reqs.any fun r => r.id == id && !r.held && decide (r.due ≤ s.cycle) then .next ((s.did (.bteRetry eng id)).push (.bteRequest eng id)) else .next s

end Sys2Proof.Machine
end

