-- ==== Sys2Proof/Machine/Fetch.lean ====
section
/-! DEFINITION. Looking up the line of a code buffer (R87 to R91, R303) and the checks of a transfer's target (R99, R147, R153). -/

namespace Sys2Proof.Machine

/-- The checks of a code capability (R91, R153). -/
def codeSteps (s : State) (k : Cap) : Except FaultInfo Unit := do
  need (!k.isNull) (flt .capNull)
  need (k.kind == 5 && decide (k.base.toNat < 2 ^ 47)) (flt .capKind)
  need (k.world == s.me.world && k.execute) (flt .capRights)
  need (k.base.toNat % 64 = 0) (fltAt .align 0 k.base.toNat)

/-- A line as a core sees it: held in its fetch buffer under a name, to be filled, in need of translation, or in a region that another context
has locked. -/
inductive Seen where
  | held (name : Nat) (l : FetchLine)
  | absent (name : Nat)
  | away (addr : Nat)
  | locked
  deriving DecidableEq, Repr

/-- The line of a fetch buffer under a name. -/
def heldLine (s : State) (core name : Nat) : Option FetchLine := ((s.core core).lines.find? (·.1 == name)).map (·.2)

/-- Line `line` of a code buffer (R91). `detail` marks a return (R149). A line that the buffer holds needs no access; any other is read as a load
reads (R303): past the router's check (R41) and the region locks (R171). -/
def lookLine (s : State) (k : Cap) (line : Int) (detail : Nat) : Except FaultInfo Seen := do
  let addr48 := wrap 48 (k.base.toNat + 64 * line)
  need (0 ≤ line && 64 * line + 64 ≤ k.length.toNat) (fltAt .capBounds detail addr48)
  let addr ← boundsStep s s.myCore s.me.world k (64 * line) 64
  let name := lineKey s k addr
  match heldLine s s.myCore name, reach s s.cur.ctx k addr false with
  | some l, _ => .ok (.held name l)
  | none, .here loc _ =>
    if !routerOk s s.cur.ctx loc then .error (routerFault addr)
    else if lockedOut s s.cur.ctx loc 64 then .ok .locked
    else if unreadable s loc then .error (fltAt .poison 0 addr).lateOf
    else .ok (.absent name)
  | none, _ => .ok (.away addr)

/-- The line word of a line (R88) and its fields. -/
def lineWord (l : Block) : BitVec 32 := l.extractLsb' 480 32
def targetBit (l : Block) (i : Nat) : Bool := (lineWord l).getLsbD i
def pairBit (l : Block) (j : Nat) : Bool := (lineWord l).getLsbD (5 + j)
/-- A line word with a reserved bit, or with two adjacent PAIR bits (R90). -/
def illLine (l : Block) : Bool :=
  (lineWord l).extractLsb' 9 15 ≠ 0 || (List.range 3).any fun j => pairBit l j && pairBit l (j + 1)
/-- The word of a slot (R87). -/
def slotWord (l : Block) (i : Nat) : InstWord := l.extractLsb' (96 * i) 96

/-- Whether a slot may be entered by a transfer (R99). -/
def enterable (l : Block) (slot : Nat) : Bool := targetBit l slot && !(0 < slot && pairBit l (slot - 1))

/-- Whether a code point is well formed (R147). -/
def pointOk (v : Word) : Bool := v.extractLsb' 48 16 == 0 && v.extractLsb' 3 3 == 0 && (v.extractLsb' 0 3).toNat ≤ 4

/-- The turn waits for the fill of a line within its cycle (R12, R89): the fill is due, and the core serves the turn again after it. -/
def awaitFill (s : State) (loc : Nat) : State :=
  spendTurn ((s.pushOnce (.lineFill s.myCore loc 0 0)).modCore s.myCore fun x => { x with want := some loc })

/-- The access of a fetch to a line, on behalf of what its latch says. -/
def lineAccess (k : Cap) (line : Int) (ins : Latch) : Access := { op := .line, k := k, off := 64 * line, ins := ins }

/-- A fetch from translated space (R91, R342): the turn waits for the translation within its cycle, as it does for the fill (R12, R17). A request
that stands at its station, because its translation failed, makes the context wait: `waits` is what becomes of it. The context keeps what the line
is for: a refusal of the translation faults it. -/
def awaitXlat (s : State) (a : Access) (waits : State) : State :=
  if requestParked s (.ctx s.cur.ctx) then waits
  else
    match reach s s.cur.ctx a.k a.addr false with
    | .miss _ _ va =>
      spendTurn ((missAt (s.modMe fun x => { x with acc := some a }) s.cur.ctx va false).modCore s.myCore fun x => { x with
        wantCtx := some s.cur.ctx })
    | _ => spendTurn s

/-- The fetch at the program counter, or of an event vector, waits for its translation. -/
def awaitLine (s : State) (k : Cap) (line : Int) (ins : Latch) : State :=
  let a := lineAccess k line ins
  awaitXlat s a (spendTurn (leave s a .reply (.memoryReply s.cur.ctx)))

/-- The target line of a transfer needs a translation that the station does not hold. Once the request stands at its station the form waits, with
the slot before it completed (R106), and is issued again from its latch. -/
def awaitTarget (s : State) (k : Cap) (line : Int) : State :=
  let a := lineAccess k line (heldLatch s true false)
  awaitXlat s a (leave s a .reply (.memoryReply s.cur.ctx))

/-- A line of a fetch buffer is dropped. -/
def dropLine (s : State) (i loc : Nat) : State := s.modCore i fun x => { x with lines := x.lines.filter (·.1 ≠ loc) }

/-- A transfer: the checks of R99 on its target in the buffer of `k`, and then the new state at the target. A target line that the
core does not hold is filled first. DEDUCED (log 28): a target line whose parity failed twice makes the transfer, which is the instruction at
the program counter (R89), raise ILLEGAL; the line is dropped, and fetched afresh by the replay. -/
def transfer (s : State) (k : Cap) (line : Int) (slot detail : Nat) (after : State) : Except FaultInfo State := do
  match ← lookLine s k line detail with
  | .held loc l =>
    if l.bad then .ok (raise (dropLine s s.myCore loc) (fltAt .illegal 2 0))
    else do
      need (enterable l.line slot) (fltAt .badTarget detail 0)
      .ok (finishAt after (64 * line.toNat + slot))
  | .absent loc => .ok (awaitFill s loc)
  | .away _ => .ok (awaitTarget s k line)
  | .locked => .ok (waitCond s)

/-- A transfer to a code point held in a register (R147). -/
def transferTo (s : State) (k : Cap) (v : Word) (detail : Nat) (after : State) : Except FaultInfo State := do
  need (pointOk v) (fltAt .badTarget detail 0)
  transfer s k (v.toNat / 64 : Nat) (v.toNat % 64) detail after

/-- A transfer by a line displacement from the line that holds the branch (R99). -/
def branchTo (s : State) (t : Target) (after : State) : Except FaultInfo State :=
  transfer s (s.k 15) ((s.cur.codept / 64 : Nat) + t.disp.toInt) t.slot.toNat 0 after

end Sys2Proof.Machine
end

