-- ==== Sys2Proof/Machine/Control.lean ====
section
/-! DEFINITION. Branches, calls, loops, the cross-capability forms, halt, sleep and yield (R146 to R156). -/

namespace Sys2Proof.Machine

/-- The return point of a call (R146). -/
def returnPoint (s : State) : Word := BitVec.ofNat 64 (nextPoint s.cur.codept)

/-- A branch that is taken when a condition on a register holds (R148). -/
def branchIf (a : WReg) (t : Target) (p : Word → Bool) (s : State) : Out :=
  issue { top := topOf [a] } (fun s => if p (s.w a) then branchTo s t s else .ok (finish s)) s

/-- br (R148). -/
def execBr (tgt : Target) (s : State) : Out := issue {} (fun s => branchTo s tgt s) s

/-- call (R148, R150): the link is written only if the target passes. -/
def execCall (d : WReg) (tgt : Target) (s : State) : Out :=
  issue { top := topOf [d] } (fun s => branchTo s tgt (s.setW d (returnPoint s))) s

/-- jr (R148, R147). -/
def execJr (a : WReg) (s : State) : Out := issue { top := topOf [a] } (fun s => transferTo s (s.k 15) (s.w a) 0 s) s

/-- callr (R149): the target is read before the link is written. -/
def execCallr (d a : WReg) (s : State) : Out :=
  issue { top := topOf [d, a] } (fun s => transferTo s (s.k 15) (s.w a) 0 (s.setW d (returnPoint s))) s

/-- ret (R148, R149): its faults are marked as those of a return. -/
def execRet (a : WReg) (s : State) : Out := issue { top := topOf [a] } (fun s => transferTo s (s.k 15) (s.w a) 12 s) s

/-- beqz (R148). -/
def execBeqz (a : WReg) (tgt : Target) (s : State) : Out := branchIf a tgt (fun v => v == 0) s

/-- bnez (R148). -/
def execBnez (a : WReg) (tgt : Target) (s : State) : Out := branchIf a tgt (fun v => v ≠ 0) s

/-- bltz (R148). -/
def execBltz (a : WReg) (tgt : Target) (s : State) : Out := branchIf a tgt (fun v => v.toInt < 0) s

/-- bgez (R148). -/
def execBgez (a : WReg) (tgt : Target) (s : State) : Out := branchIf a tgt (fun v => 0 ≤ v.toInt) s

/-- loop (R151). -/
def execLoop (a : WReg) (tgt : Target) (s : State) : Out :=
  issue { top := topOf [a] } (fun s =>
    let n := s.w a - 1
    if n ≠ 0 then branchTo s tgt (s.setW a n) else .ok (finish (s.setW a n))) s

/-- incblt (R151): the bound is read after the increment when both name one register. -/
def execIncblt (a b : WReg) (tgt : Target) (s : State) : Out :=
  issue { top := topOf [a, b] } (fun s =>
    let n := s.w a + 1
    let bound := if a = b then n else s.w b
    if n.toInt < bound.toInt then branchTo s tgt (s.setW a n) else .ok (finish (s.setW a n))) s

/-- k15 and another capability register change places (R152). -/
def swapCode (s : State) (kc : KReg) : State := (s.setK 15 (s.k kc)).setK kc (s.k 15)

/-- callk (R152, R153). -/
def execCallk (d : WReg) (kc : KReg) (tgt : Target) (s : State) : Out :=
  issue { top := topOf [d] } (fun s => do
    codeSteps s (s.k kc)
    transfer s (s.k kc) tgt.disp.toInt tgt.slot.toNat 0 ((swapCode s kc).setW d (returnPoint s))) s

/-- retk (R152, R153). -/
def execRetk (a : WReg) (kb : KReg) (s : State) : Out :=
  issue { top := topOf [a] } (fun s => do
    codeSteps s (s.k kb)
    transferTo s (s.k kb) (s.w a) 12 (swapCode s kb)) s

/-- jk (R152, R153). -/
def execJk (kc : KReg) (tgt : Target) (s : State) : Out :=
  issue {} (fun s => do
    codeSteps s (s.k kc)
    transfer s (s.k kc) tgt.disp.toInt tgt.slot.toNat 0 (swapCode s kc)) s

/-- The completion of a launch becomes due once its contexts are Halted or Ended (R293). -/
def checkOver (s : State) (launch : Nat) : State := if (s.launch? launch).isSome && s.launchOver launch then s.push (.launchCompletion launch) else s

/-- halt (R154); an actor stops handling (R316). -/
def execHalt (s : State) : Out :=
  issue {} (fun s => .ok (checkOver ((finish s).modMe fun x => { x with state := .halted, handling := false }) s.me.launch)) s

/-- sleep (R155): 16 x n cycles, or for n = 0 until an event. One that a replay issues while an event can be delivered (R281) is interrupted by it at
once (R284). -/
def execSleep (n : BitVec 32) (s : State) : Out :=
  issue {} (fun s => .ok (if s.me.deliverable.isSome then finish s else waitFor s (.sleep (if n = 0 then none else some (16 * n.toNat))) none)) s

/-- yield (R156): the context gives up the next turn of its position. -/
def execYield (s : State) : Out :=
  issue {} (fun s => .ok ((finish s).modMe fun x => { x with yielded := some ((s.core s.myCore).rot + 16) })) s

end Sys2Proof.Machine
end

