-- ==== Sys2Proof/Machine/LongMem.lean ====
section
/-! DEFINITION. The memory forms of the shared unit's chapter: block tags through registers (R202), gather and scatter (R209), and
the streaming forms (R210). Their points are those of Sys2Proof/Machine/Serve.lean. -/

namespace Sys2Proof.Machine

/-- ldvt (R202). -/
def execLdvt (vd : VReg) (m : MemOp) (sr : WReg) (s : State) : Out :=
  loadForm (.loadVT vd sr) 64 (max (topV vd) (topOf [sr])) m s

/-- stvt (R202). -/
def execStvt (vd : VReg) (m : MemOp) (sr : WReg) (s : State) : Out :=
  storeForm (fun s => .storeVT (s.v vd) ((s.w sr).setWidth 16)) 64 (max (topV vd) (topOf [sr])) m s

/-- Whether a long form goes on from its latch (R207, R282). -/
def resumes (s : State) : Bool := s.cur.latched && s.me.progress ≠ 0

/-- PROGRESS as a long form finds it: 0 when it is issued afresh (R282). -/
def freshPoint (s : State) : State := if resumes s then s else s.modMe fun x => { x with progress := 0 }

/-- PROGRESS of a form that goes on lies within its extent (R207): bit 63 is that of a running value (R208). -/
def progressStep (x : Ctx) (running : Bool) (total : Nat) : Except FaultInfo Unit :=
  let p := x.progress.toNat
  need (if running then decide (1 ≤ p % 2 ^ 63 ∧ p % 2 ^ 63 ≤ total) else decide (1 ≤ p ∧ p ≤ total)) (fltAt .capBounds 5 0)

/-- Whether a form leaves a running value (R208). -/
def AccOp.running : AccOp → Bool
  | .stream o .. => o ≠ .scale
  | _ => false

/-- A long form begins, or goes on at its point (R207): its extent, and its points in the core's own memory or elsewhere. -/
def beginLong (s : State) (a : Access) (total : Nat) : Except FaultInfo State := do
  if resumes s then progressStep s.me a.op.running total
  .ok (runOwn (total + 1) (freshPoint s) a)

/-- The groups that a form latches at its first issue (R209). -/
def latchGroups (s : State) (vs : List VReg) : State :=
  if s.cur.latched && s.cur.ops ≠ [] then s
  else { s with cur := { s.cur with ops := (vs.map fun v => State.groupWords (s.v v)).flatten } }

/-- A latched group. -/
def latchedGroup (s : State) (i : Nat) : Block := BitVec.ofNat 512 (packLanes 64 (((s.cur.ops.drop (8 * i)).take 8).map (·.toNat)))

/-- vgath (R209). -/
def execVgath (vd : VReg) (m : MemOp) (vs : VReg) (mask : MReg) (s : State) : Out :=
  issue { repro := (s.k m.k).kind == 3, top := max (max (topV vd) (topV vs)) (topM m) } (fun s =>
    let s := latchGroups s [vs]
    let b := 2 ^ m.sh.toNat
    beginLong s { op := .gather vd b (latchedGroup s 0) (s.mask mask), k := s.k m.k, off := offsetOf s m, ins := heldLatch s true false }
      (gatherLanes b)) s

/-- vscat (R209). -/
def execVscat (vd : VReg) (m : MemOp) (vs : VReg) (mask : MReg) (s : State) : Out :=
  issue { top := max (max (topV vd) (topV vs)) (topM m) } (fun s =>
    let s := latchGroups s [vs, vd]
    let b := 2 ^ m.sh.toNat
    beginLong s
      { op := .scatter b (latchedGroup s 0) (latchedGroup s 1) (s.mask mask), k := s.k m.k, off := offsetOf s m, ins := heldLatch s true false }
      (gatherLanes b)) s

/-- The streaming forms (R210): a count above 2^26 is refused. DESIGN CHOICE (log 24): with a count of 0 there is no chunk whose offset could be
misaligned, so nothing is raised; the spec does not say; unsafe. -/
def streamForm (o : StreamOp) (t : Ty) (d : WReg) (m : MemOp) (mask : MReg) (s : State) : Out :=
  issue { repro := o ≠ .scale && (s.k m.k).kind == 3, top := max (d.toNat + 2) (topM m) } (fun s => do
    let count := (s.wn (d.toNat + 1)).toNat
    need (count ≤ 2 ^ 26) (fltVal .capBounds 0 count)
    beginLong s
      { op := .stream o t d (s.mask mask) count (s.w d), k := s.k m.k, off := offsetOf s m, ins := heldLatch s true false } count) s

/-- lsum (R210). -/
def execLsum (t : Ty) (d : WReg) (m : MemOp) (mask : MReg) (s : State) : Out := streamForm .sum t d m mask s

/-- lmax (R210). -/
def execLmax (t : Ty) (d : WReg) (m : MemOp) (mask : MReg) (s : State) : Out := streamForm .max t d m mask s

/-- lmin (R210). -/
def execLmin (t : Ty) (d : WReg) (m : MemOp) (mask : MReg) (s : State) : Out := streamForm .min t d m mask s

/-- lscale (R210). -/
def execLscale (t : Ty) (d : WReg) (m : MemOp) (mask : MReg) (s : State) : Out := streamForm .scale t d m mask s

end Sys2Proof.Machine
end

