-- ==== Sys2Proof/Machine/Matrix.lean ====
section
/-! DEFINITION. Accumulator tiles (R211 to R215), the matrix forms (R216 to R219) and the convolution-unfolding unit (R220 to
R222), with the steps of the sequencer (R363, R382). -/

namespace Sys2Proof.Machine

/-! Tile locks, entries and claims. -/

/-- The holder of a tile's lock (R24), and its claim (R215). -/
def tileHolder (s : State) (t : TileReg) : Option Nat := vat none (s.barn s.myBarn).tileLock t.toNat
def tileClaimed (s : State) (t : TileReg) : Bool :=
  match vat none (s.barn s.myBarn).tileClaim t.toNat with
  | some c => c ≠ s.cur.ctx
  | none => false

/-- Whether a context holds a tile's lock, or waits for it with a matrix form (R24). -/
def inTile (b : Barn) (t : Nat) (c : Nat) : Bool := vat none b.tileLock t == some c || (vat [] b.tileWait t).contains c

/-- Takes a tile's lock for the context at issue, or its place behind the form that holds it, and its claim in reproducible mode (R24, R215):
the place is taken at issue, whatever stands before the form in its core's entries. -/
def takeTile (s : State) (t : TileReg) : State :=
  s.modBarn s.myBarn fun b => { b with
    tileLock := if (vat none b.tileLock t.toNat).isNone then vset b.tileLock t.toNat (some s.cur.ctx) else b.tileLock,
    tileWait := if (vat none b.tileLock t.toNat).isNone || inTile b t.toNat s.cur.ctx then b.tileWait
      else vset b.tileWait t.toNat (vat [] b.tileWait t.toNat ++ [s.cur.ctx]),
    tileClaim := if s.me.repro && (vat none b.tileClaim t.toNat).isNone then vset b.tileClaim t.toNat (some s.cur.ctx) else b.tileClaim }

/-- The context at issue takes a tile entry (R190): in the order of first issue, so that a form that goes on after a fault or an eviction stands
where it stood (R219, R363). DESIGN CHOICE (log 27); unsafe. -/
def takeEntry (s : State) (t : TileReg) : State :=
  let s := if inTile (s.barn s.myBarn) t.toNat s.cur.ctx then s else { s.modMe fun x => { x with tileAt := s.stamp } with stamp := s.stamp + 1 }
  let at_ (c : Nat) : Nat := (s.ctx c).tileAt
  s.modCore s.myCore fun x => { x with tents := insertBy (fun a b => at_ a ≤ at_ b) s.cur.ctx x.tents }

/-- The locks that a context holds on the tiles of its barn end (R212, R219, R279), and pass to the matrix forms that wait for them (R24). -/
def freeTiles (s : State) (c : Nat) : State :=
  s.modBarn (barnOf c) fun b =>
    let rest (i : Nat) : List Nat := (vat [] b.tileWait i).filter (· ≠ c)
    { b with
      tileLock := Vector.ofFn fun i => if vat none b.tileLock i.val == some c then (rest i.val).head? else vat none b.tileLock i.val
      tileWait := Vector.ofFn fun i => if vat none b.tileLock i.val == some c then (rest i.val).tail else rest i.val }

/-- A tile form or matrix form at issue (R190, R211, R212, R215). A tile form that meets another context's lock is retried; a matrix
form queues behind it. -/
def tileForm (queues : Bool) (repro : State → Bool) (t : TileReg) (top : Nat) (check : State → Except FaultInfo Unit)
    (body : State → Except FaultInfo State) (s : State) : Out :=
  issue { illegal := s.me.actor, repro := repro s || tileClaimed s t, top := top } (fun s => do
    check s
    if Config.tileEntries ≤ (s.core s.myCore).tents.length then .ok (spendTurn s)
    else if !queues && (match tileHolder s t with | some c => c ≠ s.cur.ctx | none => false) then .ok (waitCond s)
    else body (takeTile (takeEntry s t) t)) s

/-- acczero (R213). -/
def execAcczero (t : TileReg) (s : State) : Out :=
  tileForm false (fun _ => false) t 0 (fun _ => .ok ()) (fun s =>
    .ok (leave s { op := .tileZero t, k := Cap.null, off := 0, ins := heldLatch s true false } .tile (.tileOpComplete s.cur.ctx))) s

/-- The row specification of accld and accst (R214): first row and count. -/
def rowSpec (v : Word) : Option (Nat × Nat) :=
  let first := (v.extractLsb' 0 5).toNat
  let q := (v.extractLsb' 8 6).toNat
  if v.extractLsb' 5 3 = 0 && v.extractLsb' 14 50 = 0 && q ≠ 0 && first + q ≤ 32 then some (first, q) else none

/-- accld and accst (R214). A form, which has its tile to itself from issue on (R212), performs its points in the core's own memory in the pipeline, in
issue order (R46, R297); one whose point lies elsewhere goes on at its reply, at the head of its core's entries. -/
def tileCopyForm (toTile : Bool) (t : TileReg) (m : MemOp) (sr : WReg) (s : State) : Out :=
  tileForm false (fun s => toTile && (s.k m.k).kind == 3) t (max (topOf [sr]) (topM m))
    (fun s => do
      match rowSpec (s.w sr) with
      | none => .error (fltVal .capBounds 8 (s.w sr).toNat)
      | some (_, q) => if resumes s then progressStep s.me false (16 * q))
    (fun s =>
      match rowSpec (s.w sr) with
      | none => .error (fltVal .capBounds 8 (s.w sr).toNat)
      | some (first, q) =>
        let a : Access := { op := .tileCopy t toTile first q, k := s.k m.k, off := offsetOf s m, ins := heldLatch s true false }
        let u := freshPoint s
        match nextPointOf a (pointOf u.me) with
        | none => .ok (endOwn u a)
        | some p =>
          let u := setPoint u p.at_
          match accessSteps u a.k p.cls p.off p.n p.n with
          | .error f => .ok (raise (leaveTile u) f)
          | .ok _ => .ok (runOwn (16 * q + 1) u a)) s

/-- accld (R214). -/
def execAccld (t : TileReg) (m : MemOp) (sr : WReg) (s : State) : Out := tileCopyForm true t m sr s

/-- accst (R214). -/
def execAccst (t : TileReg) (m : MemOp) (sr : WReg) (s : State) : Out := tileCopyForm false t m sr s

/-- Every element of a tile becomes +0 (R213). -/
def zeroTile (s : State) (barn tile : Nat) : State :=
  { s with tiles := s.tiles.filter fun p => p.1 / 8192 ≠ 8 * barn + tile }

/-- A tile form or matrix form is complete: its entry and its lock end (R212, R218). -/
def endTile (s : State) (c : Nat) : State := finish (leaveTile (freeTiles s c))

/-- TILE_OP_COMPLETE (R212): a tile form at the head of its core's entries completes and unlocks its tile. -/
def execTileOpComplete (c : Nat) (s : State) : Out :=
  match (s.ctx c).wait, (s.ctx c).acc with
  | .tile, some a =>
    let t := (actFor s c a.ins).did (.tileOpComplete c)
    if (s.ctx c).state = .waiting && tileHead t a then
      match a.op with
      | .tileZero i => .next (endTile (zeroTile t t.myBarn i.toNat) c)
      | _ => .next (endTile t c)
    else .next s
  | _, _ => .next s

/-! Matrix descriptors and the unfolding configuration. -/

/-- The fields of a descriptor (R217). -/
structure Desc where
  aoff : Nat
  boff : Nat
  kg : Nat
  n : Nat
  m : Nat
  bstr : Nat
  /-- ASTR, or P0. -/
  astr : Nat

def descOf (c0 c1 c2 c3 : Word) : Desc :=
  { aoff := c0.toNat, boff := c1.toNat, kg := (c2.extractLsb' 24 24).toNat, n := (c2.extractLsb' 8 9).toNat,
    m := (c2.extractLsb' 0 8).toNat, bstr := (c3.extractLsb' 32 32).toNat, astr := (c3.extractLsb' 0 32).toNat }

def MatForm.unfolds : MatForm → Bool
  | .mmu | .mmus => true
  | .mmd | .mms => false
def MatForm.sparseB : MatForm → Bool
  | .mms | .mmus => true
  | .mmd | .mmu => false

/-- The checks of a descriptor (R217): its ranges, then its alignment. DESIGN CHOICE (log 24): the spec does not order the two faults of a
descriptor that has both; unsafe. -/
def descSteps (f : MatForm) (d : Desc) (c2 : Word) : Except FaultInfo Unit := do
  need (c2.extractLsb' 48 16 == 0 && c2.extractLsb' 17 7 == 0 && d.kg ≠ 0 && 1 ≤ d.n && d.n ≤ 256 && 1 ≤ d.m && d.m ≤ 32)
    (fltVal .capBounds 6 c2.toNat)
  need (d.aoff % 64 = 0 && d.boff % 64 = 0 && d.bstr % 64 = 0 && (f.unfolds || d.astr % 64 = 0)) (flt .align)

/-- The unfolding configuration (R220, R221). -/
structure Unfold where
  c : Nat
  h : Nat
  w : Nat
  dy : Nat
  dx : Nat
  py : Nat
  px : Nat
  sy : Nat
  sx : Nat
  kh : Nat
  kw : Nat

def unfoldOf (u0 u1 : Word) : Unfold :=
  { c := (u0.extractLsb' 32 16).toNat, h := (u0.extractLsb' 16 16).toNat, w := (u0.extractLsb' 0 16).toNat,
    dy := (u1.extractLsb' 36 4).toNat, dx := (u1.extractLsb' 32 4).toNat, py := (u1.extractLsb' 28 4).toNat,
    px := (u1.extractLsb' 24 4).toNat, sy := (u1.extractLsb' 20 4).toNat, sx := (u1.extractLsb' 16 4).toNat,
    kh := (u1.extractLsb' 8 8).toNat, kw := (u1.extractLsb' 0 8).toNat }

/-- An output extent (R221). -/
def outExtent (size pad dil ker str : Nat) : Int := ((size : Int) + 2 * pad - dil * ((ker : Int) - 1) - 1) / str + 1

/-- OW and OH (R221). -/
def Unfold.ow (u : Unfold) : Int := outExtent u.w u.px u.dx u.kw u.sx
def Unfold.oh (u : Unfold) : Int := outExtent u.h u.py u.dy u.kh u.sy

/-- The checks of the configuration in the order of R222. DESIGN CHOICE (log 24): within the first case the first word's C stands before the
zero fields of the second word, and within the second the first word's reserved bits before the second's; unsafe. -/
def unfoldSteps (u0 u1 c2 : Word) (kg : Nat) : Except FaultInfo Unit := do
  let u := unfoldOf u0 u1
  need (u.c ≠ 0 && u.c % 64 = 0) (fltVal .capBounds 7 u0.toNat)
  need (u.dy ≠ 0 && u.dx ≠ 0 && u.sy ≠ 0 && u.sx ≠ 0 && u.kh ≠ 0 && u.kw ≠ 0) (fltVal .capBounds 7 u1.toNat)
  need (u0.extractLsb' 48 16 == 0) (fltVal .capBounds 7 u0.toNat)
  need (u1.extractLsb' 40 24 == 0) (fltVal .capBounds 7 u1.toNat)
  need (1 ≤ u.ow && 1 ≤ u.oh) (fltVal .capBounds 7 u1.toNat)
  need (64 * kg = u.kh * u.kw * u.c) (fltVal .capBounds 7 c2.toNat)

/-- The offset of the A block of row `m` and index `k`, none for a synthesised zero block (R218, R221, R385). -/
def aBlock (f : MatForm) (d : Desc) (u : Unfold) (pa m k : Nat) : Option Nat :=
  if f.unfolds then
    let p : Int := d.astr + m
    let oy := p / u.ow
    let ox := p % u.ow
    let c := k % u.c
    let kx := k / u.c % u.kw
    let ky := k / (u.c * u.kw)
    let iy : Int := oy * u.sy - u.py + ky * u.dy
    let ix : Int := ox * u.sx - u.px + kx * u.dx
    if u.oh * u.ow ≤ p || iy < 0 || u.h ≤ iy || ix < 0 || u.w ≤ ix then none
    else some (d.aoff + ((iy.toNat * u.w + ix.toNat) * (u.c / pa) + c / pa) * 64)
  else some (d.aoff + m * d.astr + k / pa * 64)

/-- The offset of the B block of column `n` and index `k` (R218). -/
def bBlock (d : Desc) (pb n k : Nat) : Nat := d.boff + n * d.bstr + k / pb * 64

/-! The matrix forms. -/

/-- A matrix form at issue (R216, R217, R222). -/
def matrixForm (f : MatForm) (t : TileReg) (ka kb : KReg) (c : WReg) (s : State) : Out :=
  let w (s : State) (i : Nat) : Word := s.wn (c.toNat + i)
  tileForm true (fun s => (s.k ka).kind == 3 || (s.k kb).kind == 3) t (c.toNat + 4)
    (fun s => do
      let d := descOf (w s 0) (w s 1) (w s 2) (w s 3)
      descSteps f d (w s 2)
      if f.unfolds then unfoldSteps s.me.ufc0 s.me.ufc1 (w s 2) d.kg
      if resumes s then progressStep s.me false ((d.kg + 1) / 2))
    (fun s =>
      let a : Access :=
        { op := .matrix f t (s.k kb) (w s 0) (w s 1) (w s 2) (w s 3) s.me.ufc0 s.me.ufc1 none [], k := s.k ka, off := 0,
          ins := heldLatch s true false }
      let u := freshPoint s
      .ok (leave (setPoint u (pointOf u.me)) a .matrix (.matrixKBlock s.cur.ctx))) s

/-- mmd (R216). -/
def execMmd (t : TileReg) (ka kb : KReg) (c : WReg) (s : State) : Out := matrixForm .mmd t ka kb c s

/-- mms (R216). -/
def execMms (t : TileReg) (ka kb : KReg) (c : WReg) (s : State) : Out := matrixForm .mms t ka kb c s

/-- mmu (R216). -/
def execMmu (t : TileReg) (ka kb : KReg) (c : WReg) (s : State) : Out := matrixForm .mmu t ka kb c s

/-- mmus (R216). -/
def execMmus (t : TileReg) (ka kb : KReg) (c : WReg) (s : State) : Out := matrixForm .mmus t ka kb c s

/-- ufcfg (R220). -/
def execUfcfg (a : WReg) (s : State) : Out :=
  issue { top := a.toNat + 2 } (fun s =>
    .ok (finish (s.modMe fun x => { x with ufc0 := s.wn a.toNat, ufc1 := s.wn (a.toNat + 1) }))) s

/-! The sequencer. -/

/-- What the read of one block gives: the block and its tag with its device address, a fault with what the read has found, a step that the read needs
first, or nothing yet. -/
inductive Fetched where
  | block (addr : Nat) (v : Block) (tag : BitVec 16)
  | fault (s : State) (f : FaultInfo)
  | first (s : State)
  | later

/-- Reads a block of an operand for the sequencer (R30, R171, R336, R384); no watermark holds such a read (R445). `far` begins with the answer of
a member, once it has come. -/
def fetchBlock (s : State) (k : Cap) (off : Nat) (far : List (Nat × Nat × BitVec 16)) : Fetched :=
  let c := s.cur.ctx
  match accessSteps s k Class.load off 64 64 with
  | .error f => .fault s f
  | .ok addr =>
    match reach s c k addr false with
    | .miss _ _ va => .first (missAt s c va false)
    | .far j o =>
      match far with
      | (_, v, t) :: _ => .block addr (BitVec.ofNat 512 v) t
      | [] => if postedAt s c (Prim.readBoth.ranges (farLoc j o)) then .later else .first (request s c j o none .readBoth)
    | .here loc shared =>
      if lockedOut s c loc 64 || postedAt s c (Prim.readBoth.ranges loc) then .later
      else if !routerOk s c loc then .fault s (routerFault addr)
      else
        let t := verify s s.me.world loc shared
        match doPrim t loc addr shared .readBoth with
        | .error f => .fault t f
        | .ok (_, g) => .block addr (BitVec.ofNat 512 g.data) g.tag

/-- One use of a block: whether it is one of B, its K-block, its row or column, and its offset (R384, R385). -/
abbrev Use := Bool × Nat × Nat × Nat

/-- Blocks that have been read, by their use: address, bytes and tag. -/
abbrev Read := List (Use × Nat × Block × BitVec 16)

/-- Whether a block lies at another package's member. -/
def blockFar (s : State) (k : Cap) (off : Nat) : Bool :=
  match accessSteps s k Class.load off 64 64 with
  | .ok addr => (match reach s s.cur.ctx k addr false with | .far .. => true | _ => false)
  | .error _ => false

/-- Reads blocks in order until one cannot be had. The answers of members stand in the order in which they were asked for. -/
def fetchAll (s : State) (ka kb : Cap) : List Use → List (Nat × Nat × BitVec 16) → Read → Sum Fetched (Read × List (Nat × Nat × BitVec 16))
  | [], far, got => .inr (got, far)
  | q :: qs, far, got =>
    let k := if q.1 then kb else ka
    match fetchBlock s k q.2.2.2 far with
    | .block addr v t => fetchAll s ka kb qs (if blockFar s k q.2.2.2 then far.tail else far) (got ++ [(q, addr, v, t)])
    | r => .inl r

/-- The check of a block in the order of R75. -/
def blockFault (accept : BitVec 8 → Bool) (g : Nat × Block × BitVec 16) : Option FaultInfo :=
  (checkTag accept g.2.2 g.2.1).map fun c => fltAt c 0 g.1

/-- The blocks that K-block `q` needs, each once: the A blocks and then the B blocks of each of its K-groups (R218, R384). -/
def kBlocks (f : MatForm) (d : Desc) (u : Unfold) (pa pb q : Nat) (groups : List Nat) : List Use :=
  (groups.map fun g =>
    ((List.range d.m).filterMap fun m => (aBlock f d u pa m (64 * g)).map fun o => (false, q, m, o))
      ++ (List.range d.n).map fun n => (true, q, n, bBlock d pb n (64 * g))).flatten.eraseDups

/-- The contribution of one K-group to one element (R80, R81). -/
def addGroup (got : Read) (fa : BitVec 8) (pa pb q m n : Nat) (ao : Option Nat) (bo k acc : Nat) : Nat :=
  let find (x : Use) : Block × BitVec 16 := ((got.find? (·.1 == x)).map (·.2.2)).getD (0, 0)
  let (av, at_) := match ao with | some o => find (false, q, m, o) | none => ((0 : Block), mkTag fa 0)
  let (bv, bt) := find (true, q, n, bo)
  addPair acc at_ bt (dotSum (((mantissas at_ av).drop (k % pa)).take 64) (((mantissas bt bv).drop (k % pb)).take 64))

/-- One K-group added into the tile (R218, R82). -/
def addKGroup (s : State) (t : TileReg) (f : MatForm) (d : Desc) (u : Unfold) (got : Read) (fa : BitVec 8) (pa pb g : Nat) : State :=
  (List.range d.m).foldl (fun s m => (List.range d.n).foldl (fun s n =>
    let key := tileKey s.myBarn t.toNat m n
    { s with tiles := mput 0 s.tiles key (BitVec.ofNat 32
        (addGroup got fa pa pb (g / 2) m n (aBlock f d u pa m (64 * g)) (bBlock d pb n (64 * g)) (64 * g) (mget 0 s.tiles key).toNat)) }) s) s

/-- The K-blocks of a packed group: 2 for a sparse B of at most 64 columns, 4 for one of at most 32, and 1 otherwise (R383). A group begins where
the form starts or resumes. -/
def packOf (f : MatForm) (n : Nat) : Nat := if f.sparseB then (if n ≤ 32 then 4 else if n ≤ 64 then 2 else 1) else 1

/-- The K-groups of a K-block. -/
def kGroups (d : Desc) (q : Nat) : List Nat := [2 * q, 2 * q + 1].filter (· < d.kg)

/-- Reads and checks the K-blocks of a packed group in order (R218, R383): what the sequencer does first, or the K-blocks that it can add, what it
has read, and the fault of the one that follows them. `lost` is the fault of a read whose answer has failed. -/
def checkPack (s : State) (ka kb : Cap) (far : List (Nat × Nat × BitVec 16)) (f : MatForm) (d : Desc) (u : Unfold) (fa fb : BitVec 8)
    (lost : Option FaultInfo) : List Nat → List Nat → Read → Sum Fetched (List Nat × Read × Option (State × FaultInfo))
  | [], done, got => .inr (done, got, none)
  | q :: qs, done, got =>
    match fetchAll s ka kb (kBlocks f d u (blockVals fa) (blockVals fb) q (kGroups d q)) far got with
    | .inl (.fault t e) => .inr (done, got, some (t, e))
    | .inl r => (match lost with | some e => .inr (done, got, some (s, e)) | none => .inl r)
    | .inr (got', far) =>
      match got'.findSome? (fun g => blockFault (· == (if g.1.1 then fb else fa)) g.2) with
      | some e => .inr (done, got', some (s, e))
      | none => checkPack s ka kb far f d u fa fb lost qs (done ++ [q]) got'

/-- The K-blocks of the packed group that begins where a form stands (R383). -/
def packBlocks (f : MatForm) (d : Desc) (j : Nat) : List Nat := (List.range (packOf f d.n)).map (j + ·) |>.filter (2 * · < d.kg)

/-- The K-blocks of a packed group that pass are added, and counted in PROGRESS (R82, R383). -/
def addPack (s : State) (t : TileReg) (f : MatForm) (d : Desc) (u : Unfold) (got : Read) (fa fb : BitVec 8) (done : List Nat) : State :=
  setPoint (done.foldl (fun s q => (kGroups d q).foldl (fun s g => addKGroup s t f d u got fa (blockVals fa) (blockVals fb) g) s) s)
    (pointOf s.me + done.length)

/-- The next thing that the sequencer does for a form: a packed group of K-blocks, a fault, or a request. None: it waits (R218, R382, R383). DESIGN
CHOICE (log 24):
the blocks of a K-block are all read, A blocks before B blocks, before any of their formats is checked, so that an access fault of one comes before
a format fault of another (R75 and R218 do not order the blocks); unsafe. -/
def matrixStep (s : State) (a : Access) : Option State :=
  match a.op with
  | .matrix f t kb c0 c1 c2 c3 u0 u1 refs far =>
    let d := descOf c0 c1 c2 c3
    let u := unfoldOf u0 u1
    let j := pointOf s.me
    if tileHolder s t ≠ some s.cur.ctx || !tileHead s a || hasTx s s.cur.ctx || requestParked s (.ctx s.cur.ctx) then none
    else
      let other (r : Fetched) : Option State :=
        match r with
        | .fault t f => some (longFault t a f)
        | .first t => some t
        | .block .. | .later => none
      match refs with
      | none =>
        match fetchAll s a.k kb [(false, 0, 0, d.aoff), (true, 0, 0, d.boff)] far [] with
        | .inl r => other r
        | .inr (got, _) =>
          match got with
          | [ga, gb] =>
            match blockFault denseFmt ga.2, blockFault (if f.sparseB then sparseFmt else denseFmt) gb.2 with
            | some e, _ => some (longFault s a e)
            | none, some e => some (longFault s a e)
            | none, none =>
              let fa := tagFormat ga.2.2.2
              let fb := tagFormat gb.2.2.2
              if 64 * d.kg % blockVals fa ≠ 0 || 64 * d.kg % blockVals fb ≠ 0 || (f.unfolds && u.c % blockVals fa ≠ 0) then
                some (longFault s a (flt .fmtClash))
              else
                some ((s.modMe fun x => { x with acc := some { a with op := .matrix f t kb c0 c1 c2 c3 u0 u1 (some (fa, fb)) [] } }).push
                  (.matrixKBlock s.cur.ctx))
          | _ => none
      | some (fa, fb) =>
        match checkPack s a.k kb far f d u fa fb none (packBlocks f d j) [] [] with
        | .inl r => other r
        | .inr (done, got, some (v, e)) => some (longFault (addPack v t f d u got fa fb done) a e)
        | .inr (done, got, none) =>
            let t' := (addPack s t f d u got fa fb done).modMe fun x => { x with acc := some { a with op := .matrix f t kb c0 c1 c2 c3 u0 u1 refs [] } }
            some (t'.push (if 2 * (j + done.length) < d.kg then .matrixKBlock s.cur.ctx else .matrixComplete s.cur.ctx))
  | _ => none

/-- A read of a matrix form has failed at its station or at its member (R346, R394): the K-blocks of the packed group before that of the read are added,
and the form stops there (R219, R383). -/
def matrixLost (s : State) (a : Access) (e : FaultInfo) : State :=
  match a.op with
  | .matrix f t kb c0 c1 c2 c3 u0 u1 (some (fa, fb)) far =>
    let d := descOf c0 c1 c2 c3
    let u := unfoldOf u0 u1
    match checkPack s a.k kb far f d u fa fb (some e) (packBlocks f d (pointOf s.me)) [] [] with
    | .inr (done, got, some (v, e)) => longFault (addPack v t f d u got fa fb done) a e
    | _ => longFault s a e
  | _ => longFault s a e

/-- The matrix form of a waiting context that the sequencer serves. -/
def matrixOf (s : State) (c : Nat) : Option Access :=
  match (s.ctx c).state, (s.ctx c).wait, (s.ctx c).acc with
  | .waiting, .matrix, some a => some a
  | _, _, _ => none

/-- What the sequencer would do for a context. -/
def sequence (s : State) (c : Nat) : Option State := (matrixOf s c).bind fun a => matrixStep (actFor s c a.ins) a

/-- MATRIX_K_BLOCK (R382): the array serves the forms at the heads of the four cores round-robin (R363). -/
def execMatrixKBlock (c : Nat) (s : State) : Out :=
  let b := barnOf c
  let before := (List.range 4).map (fun i => ((s.barn b).lastMatrix + 1 + i) % 4) |>.takeWhile (· ≠ coreOf c % 4)
  let s' := s.did (.matrixKBlock c)
  if before.any fun j => match (s.core (4 * b + j)).tents.head? with
      | some e => s.work.contains (.matrixKBlock e) && (sequence s e).isSome
      | none => false then .next s
  else
    match sequence s' c with
    | some t => .next (t.modBarn b fun x => { x with lastMatrix := coreOf c % 4 })
    | none => .next s

/-- MATRIX_COMPLETE (R218). -/
def execMatrixComplete (c : Nat) (s : State) : Out :=
  match matrixOf s c with
  | some a =>
    match a.op with
    | .matrix _ _ _ _ _ c2 _ _ _ _ _ =>
      if (descOf 0 0 c2 0).kg ≤ 2 * pointOf (s.ctx c) then
        let t := (actFor s c a.ins).did (.matrixComplete c)
        .next (endTile (t.modMe fun x => { x with progress := 0 }) c)
      else .next s
    | _ => .next s
  | none => .next s

end Sys2Proof.Machine
end

