-- ==== Sys2Proof/Machine/System.lean ====
section
/-! DEFINITION. Special registers (R33 to R37, R262), evret (R263), fault acknowledgement (R264, R279), ctxstop and ctxgo (R265), and the
system forms (R266 to R268). -/

namespace Sys2Proof.Machine

/-! Special registers. -/

/-- The selectors of R262 that name a register. -/
def knownReg (n : Nat) : Bool := n ≤ 6 || (8 ≤ n && n ≤ 0x19)

/-- CTX_STATUS (R34). -/
def ctxStatus (x : Ctx) : Word :=
  BitVec.ofNat 64 (x.levels * 2 ^ 16 + x.wsize * 2 ^ 8 + x.inEvent.toNat * 2 ^ 6 + x.evtEn.toNat * 2 ^ 5 + x.sys.toNat * 2 ^ 3
    + x.sup.toNat * 2 ^ 2 + x.actor.toNat * 2 + x.repro.toNat)

/-- The slot-table entry in force at a position, and its fields (R359). -/
def slotEntry (s : State) (i p : Nat) : Word := vat 0 (s.core i).slots p
def slotMode (e : Word) : Nat := (e.extractLsb' 14 2).toNat
def slotPool (e : Word) : Nat := (e.extractLsb' 10 2).toNat
def slotCtx (e : Word) : Nat := (e.extractLsb' 0 6).toNat

/-- PLACE (R35). -/
def placeReg (s : State) : Word :=
  let b := s.myBarn
  let pinned := if slotMode (slotEntry s s.myCore s.cur.pos) = 1 then 1 else 0
  BitVec.ofNat 64 (s.col % 32 * 2 ^ 37 + s.row % 32 * 2 ^ 32 + barnX b * 2 ^ 22 + barnY b * 2 ^ 17 + s.myCore % 4 * 2 ^ 15
    + numOf s.cur.ctx * 2 ^ 9 + s.cur.pos % 16 * 2 ^ 5 + pinned * 2 ^ 4)

/-- LOFT (R33). -/
def loftReg (x : Ctx) : Word := BitVec.ofNat 64 ((x.loft.length - x.loft.used) % 2 ^ 32 + x.loft.checkpoints.length % 2 ^ 16 * 2 ^ 32)

/-- SLEEP_CTL (R36). -/
def sleepCtl (x : Core) : Word := BitVec.ofNat 64 (x.entryDelay.toNat * 2 ^ 16 + x.maxDepth.toNat)

/-- The register that a selector names, as the context at issue reads it (R262, R33 to R36, R243). -/
def readReg (s : State) (n : Nat) : Word :=
  let x := s.me
  match n with
  | 0x00 => ctxStatus x
  | 0x01 => placeReg s
  | 0x02 => BitVec.ofNat 64 x.wbase
  | 0x03 => BitVec.ofNat 64 (x.wbase + 8 * x.wsize)
  | 0x04 => x.prio.setWidth 64
  | 0x05 => x.world.setWidth 64
  | 0x06 => x.asid.setWidth 64
  | 0x10 => x.progress
  | 0x11 => x.lvt
  | 0x12 => gvtRead s
  | 0x13 => loftReg x
  | 0x14 => BitVec.ofNat 64 s.cycle
  | 0x15 => x.timerCmp
  | 0x16 => x.evtVec
  | 0x17 => x.evtRet
  | 0x18 => sleepCtl (s.core s.myCore)
  | 0x19 => x.faultRing &&& 0xFFFFFFFFFFC0#64
  | _ => if 8 ≤ n then (vat 0 x.lvl (n - 8)).setWidth 64 else 0

/-- Reads that reproducible mode refuses (R33). -/
def readRefused (n : Nat) : Bool := [0x01, 0x02, 0x03, 0x13, 0x14, 0x19].contains n

/-- spr (R262). -/
def execSpr (d : WReg) (sr : BitVec 8) (s : State) : Out :=
  issue { illegal := !knownReg sr.toNat, repro := readRefused sr.toNat, top := topOf [d] } (fun s =>
    .ok (finish (s.setW d (readReg s sr.toNat)))) s

/-- Registers that a context may write, those marked RW in R33 and SLEEP_CTL (R33, R34). -/
def writableReg (n : Nat) : Bool := [0x00, 0x10, 0x15, 0x16, 0x17, 0x18].contains n

/-- The effect of a write to a special register (R33 to R37, R282): PROGRESS is not written, since the latch is empty. -/
def writeReg (s : State) (n : Nat) (v : Word) : State :=
  match n with
  | 0x00 => s.modMe fun x => { x with evtEn := v.getLsbD 5 }
  | 0x15 =>
    fireTimer (s.modMe fun x => { x with timerCmp := v }) s.cur.ctx
  | 0x16 => s.modMe fun x => { x with evtVec := v }
  | 0x17 => s.modMe fun x => { x with evtRet := v }
  | 0x18 => s.modCore s.myCore fun x => { x with
      entryDelay := v.extractLsb' 16 16, maxDepth := if v.extractLsb' 0 2 = 3 then 2 else v.extractLsb' 0 2 }
  | _ => s

/-- spw (R262, R33). -/
def execSpw (sr : BitVec 8) (a : WReg) (s : State) : Out :=
  issue { illegal := !knownReg sr.toNat, deny := !writableReg sr.toNat, priv := if sr = 0x18 then 1 else 0, repro := sr == 0x15,
          top := topOf [a] } (fun s => .ok (finish (writeReg s sr.toNat (s.w a)))) s

/-- evret (R263). -/
def execEvret (s : State) : Out :=
  issue { illegal := !s.me.inEvent } (fun s => do
    need (pointOk s.me.evtRet) (flt .badTarget)
    .ok (eventReturn s)) s

/-! Acknowledging faults. -/

/-- The launch whose contexts a supervisor names: its own, or for a system context that of the core (R42, R273, R275). -/
def actsOn (s : State) : Nat := if s.me.sup then s.me.launch else (s.barn s.myBarn).launch

/-- The context of a core rank on the issuing core (R273). -/
def ctxOfRank (s : State) (r : Nat) : Option Nat :=
  (ctxsOfCore s.myCore).find? fun c =>
    let x := s.ctx c
    x.state ≠ .absent && x.launch == actsOn s && x.launch ≠ 0 && x.rank.toNat == r

/-- The checks of w[a] (R264). -/
def rankSteps (v : Word) : Except FaultInfo Unit := need (v.extractLsb' 6 58 == 0) (fltVal .capBounds 0 v.toNat)

/-- An unposted record is withdrawn (R276). -/
def withdrawRecord (s : State) (c : Nat) : State :=
  (s.did (.faultRecordPost c)).modCtx c fun x => { x with record := none, fault := none }

/-- Channels whose fault is charged to a context become idle with FCODE kept (R259). -/
def dropCharged (s : State) (c : Nat) : State :=
  (List.range 8).foldl (fun t n => if (chanOf t (coreOf c) n).charged == some c then idleChan t (coreOf c) n else t) s

/-- The pins of a context's mailbox requests end (R279). -/
def dropPins (s : State) (c : Nat) : State :=
  let free (m : Mailbox) : Mailbox := if m.by_ = c then { m with kb := Cap.null, kc := Cap.null } else m
  s.modCore (coreOf c) fun x => { x with
    boxes := x.boxes.map fun b => b.map free, served := x.served.map fun b => (b.1, free b.2) }

/-- fack with mode 0: the latch reissues (R279). -/
def ackReplay (s : State) (c : Nat) : State :=
  (withdrawRecord s c).modCtx c fun x => { x with state := .ready, latch := x.latch.map fun l => { l with replay := true } }

/-- fack with mode 1: the instruction is skipped; for an entry, the event is dropped (R279). -/
def ackSkip (s : State) (c : Nat) : State :=
  let x := s.ctx c
  let t := withdrawRecord (freeTiles (dropCharged s c) c) c
  let t := t.modCtx c fun y =>
    match x.latch with
    | some l =>
      match l.entry with
      | some e => { y with state := .ready, latch := none, events := y.events &&& ~~~(1#6 <<< e) }
      | none => { y with state := .ready, latch := none, progress := 0, pc := nextPoint l.codept }
    | none => { y with state := .ready, progress := 0, pc := nextPoint y.pc }
  loseResults t x.launch

/-- A launch is terminated (R293): its contexts are stopped, and it is closed once they are at rest. -/
def terminateLaunch (s : State) (l : Nat) (cause : BitVec 8) : State :=
  let t := s.modLaunch l fun x => { x with cause := if x.cause = 0 then cause else x.cause, results := false }
  let t := (s.launchCtxs l).foldl (fun t c => t.modCtx c fun x => { x with stopped := true }) t
  t.pushOnce (.launchCompletion l)

/-- A context ends (R279, R280). -/
def endCtx (s : State) (c : Nat) : State :=
  let x := s.ctx c
  let t := withdrawRecord (dropPins (releaseLock (freeTiles (dropCharged s c) c) c) c) c
  let t := t.modCtx c fun y =>
    { y with state := .ended, latch := none, acc := none, miss := none, wait := .none, handling := false,
             progress := match x.latch with | some l => if l.entry.isSome then y.progress else 0 | none => 0 }
  loseResults t x.launch

/-- fack with mode 2: the context ends; the loss of a supervisor ends its launch (R279, R275, R293). -/
def ackTerminate (s : State) (c : Nat) : State :=
  let x := s.ctx c
  let code := match x.fault with | some f => f.code.code | none => 0
  let t := (endCtx s c).modLaunch x.launch fun l => { l with firstTerm := if l.firstTerm = 0 then code else l.firstTerm }
  if x.sup then terminateLaunch t x.launch 0x84 else checkOver t x.launch

/-- fack (R264): w[d] is 0 when the fault is acted on, and 1 when the target is not parked. -/
def fackForm (act : State → Nat → State) (d a : WReg) (s : State) : Out :=
  issue { priv := 1, top := topOf [d, a] } (fun s => do
    rankSteps (s.w a)
    match ctxOfRank s (s.w a).toNat with
    | some c => if (s.ctx c).state = .parked then .ok (finish ((act s c).setW d 0)) else .ok (finish (s.setW d 1))
    | none => .ok (finish (s.setW d 1))) s

/-- fack, mode 0 (R264, R279). -/
def execFackReplay (d a : WReg) (s : State) : Out := fackForm ackReplay d a s

/-- fack, mode 1 (R264, R279). -/
def execFackSkip (d a : WReg) (s : State) : Out := fackForm ackSkip d a s

/-- fack, mode 2 (R264, R279). -/
def execFackTerminate (d a : WReg) (s : State) : Out := fackForm ackTerminate d a s

/-- ctxstop and ctxgo (R265, R273): w[d] is the flag's former value, or 1 where the rank names no context. -/
def stopForm (flag : Bool) (d a : WReg) (s : State) : Out :=
  issue { priv := 1, top := topOf [d, a] } (fun s => do
    rankSteps (s.w a)
    match ctxOfRank s (s.w a).toNat with
    | some c =>
      .ok (finish ((s.modCtx c fun x => { x with stopped := flag }).setW d (if (s.ctx c).stopped then 1 else 0)))
    | none => .ok (finish (s.setW d 1))) s

/-- ctxstop (R265). -/
def execCtxstop (d a : WReg) (s : State) : Out := stopForm true d a s

/-- ctxgo (R265). -/
def execCtxgo (d a : WReg) (s : State) : Out := stopForm false d a s

/-! Translations. -/

/-- The stations of the package. -/
def stations : List Nat := List.range 32

/-- Entries that an invalidation names leave both levels of every station, and the walks in progress start afresh (R266, R347). -/
def invalidate (s : State) (p : Leaf → Bool) : State :=
  let t := stations.foldl (fun t n => let x := t.station n; t.setStation n { x with
    cache := x.cache.filter fun l => !p l, markers := x.markers.map fun m => { m with root := if m.walking then x.root else m.root } }) s
  (List.range 4).foldl (fun t y => { t with yards := mput [] t.yards y ((mget [] t.yards y).filter fun l => !p l) }) t

/-- xinv (R266): the issuer waits until every station has acknowledged. -/
def xinvForm (regs : List WReg) (p : State → Leaf → Bool) (s : State) : Out :=
  issue { priv := 2, top := topOf regs } (fun s =>
    let t := waitFor (invalidate s (p s)) (.acks stations) (some (heldLatch s true false))
    .ok (stations.foldl (fun t n => t.push (.stationAck s.cur.ctx n)) t)) s

/-- xinv, scope 0 (R266): the entry that covers an address of the translated space for an ASID. -/
def execXinvEntry (a b : WReg) (s : State) : Out :=
  xinvForm [a, b] (fun s => leafHits ((s.w a).toNat % 2 ^ 16) ((s.w b).toNat % 2 ^ 46)) s

/-- xinv, scope 1 (R266): every entry of an ASID. -/
def execXinvAsid (a b : WReg) (s : State) : Out := xinvForm [a, b] (fun s l => l.asid == (s.w a).toNat % 2 ^ 16) s

/-- xinv, scope 2 (R266): every entry. -/
def execXinvAll (a b : WReg) (s : State) : Out := xinvForm [a, b] (fun _ _ => true) s

/-- The step at which a waiting context goes on with its access. -/
def wakeOf (x : Ctx) (c : Nat) : Option Instr :=
  match x.wait with
  | .reply => some (.memoryReply c)
  | .accept => some (.postedWriteAccept c)
  | .flag => some (.flagIncrement c)
  | .matrix => some (.matrixKBlock c)
  | .wipe .. => some (.wipePassEnd c)
  | _ => none

/-- A source whose translation may go on (R346). -/
def wake (s : State) (src : Source) : State :=
  match src with
  | .ctx c => match wakeOf (s.ctx c) c with | some i => s.pushOnce i | none => s
  | .chan i n => modChan s i n fun x => { x with miss := none }
  | .release l => s.pushOnce (.deferredRelease l)

/-- A station brings its parked requests back to translation, as if newly arrived, and clears DROPPED (R346). -/
def replayStation (s : State) (n : Nat) : State :=
  let x := s.station n
  let t := s.setStation n { x with parked := [], dropped := false, markers := [] }
  x.parked.foldl (fun t r => wake t r.src) t

/-- xreplay (R266, R346). -/
def execXreplay (a : WReg) (s : State) : Out :=
  issue { priv := 2, top := topOf [a] } (fun s =>
    let v := (s.w a).toNat
    if v < 32 then .ok (finish (replayStation s v))
    else if v = 0xFF then .ok (finish (stations.foldl replayStation s))
    else .error (fltVal .capBounds 0 v)) s

/-- slotr (R267): the slot-table entry in force. -/
def execSlotr (d a : WReg) (s : State) : Out :=
  issue { priv := 2, top := topOf [d, a] } (fun s => do
    let v := s.w a
    need (v.extractLsb' 16 48 == 0) (fltVal .capBounds 0 v.toNat)
    let f (lo n : Nat) : Nat := (v.extractLsb' lo n).toNat
    .ok (finish (s.setW d (slotEntry s (4 * barnAt (f 0 5) (f 5 5) + f 10 2) (f 12 4))))) s

/-- wipe (R268): the issuer waits until the pass ends. -/
def execWipe (d : WReg) (ka : KReg) (s : State) : Out :=
  issue { priv := 2, top := topOf [d] } (fun s => do
    notK15 [ka]
    let k := s.k ka
    need (!k.isNull) (flt .capNull)
    need (k.kind == 1 && k.full && decide (k.base.toNat < 2 ^ 47)) (flt .capKind)
    .ok ((waitFor s (.wipe d k) (some (heldLatch s true false))).push (.wipePassEnd s.cur.ctx))) s

end Sys2Proof.Machine
end

