-- ==== Sys2Proof/Machine/EvMem.lean ====
section
/-! DEFINITION. Steps of the memory system: line fills (R89), replies, acceptance and performance of writes (R161, R295, R343), region locks
(R170), translation (R339 to R348), the end of a wipe (R268), and scrub (R439). -/

namespace Sys2Proof.Machine

/-! Lines. -/

/-- The exclusive-or of the 64 bytes of a line (R88). -/
def lineParity (l : Block) : BitVec 8 := (List.range 64).foldl (fun a i => a ^^^ l.extractLsb' (8 * i) 8) 0

/-- A fill that had to be repeated is counted (R89, R441). -/
def countRefill (s : State) (core : Nat) : State := s.modBarn (barnOfCore core) fun b => { b with parity := min (b.parity + 1) 4095 }

/-- What a line's name stands for: its location, whether its page is shared, and the world of the page (R303, R342). None: its translation is not
held any more. -/
def fillFrom (s : State) (core name : Nat) : Option (Nat × Bool × BitVec 8) :=
  if name < 2 ^ 64 then some (name, false, 0)
  else
    let va := (name - 2 ^ 64) % 2 ^ 50
    (cachedLeaf s (barnOfCore core) ((name - 2 ^ 64) / 2 ^ 50) va false).map fun l => (physLoc (l.pa + (va - l.va)), l.shared, l.world)

/-- Whether a region lock of another core's context covers a line (R171). -/
def lineLocked (s : State) (core loc : Nat) : Bool :=
  isCoreMem loc && (s.core (locCore loc)).locks.any fun l => coreOf l.holder ≠ core && meets l.start l.len loc 64

/-- LINE_FILL (R89): the line arrives with the errors `e1`; on a parity mismatch it is fetched once more, with the errors `e2`. A line that is
poisoned (R336), locked (R171) or no longer translated is not filled: its fetch finds that. A line that failed twice is kept only for the turn that
waits for it. -/
def execLineFill (core loc : Nat) (e1 e2 : BitVec 512) (s : State) : Out :=
  let due (w : Instr) : Bool := match w with | .lineFill c l _ _ => c == core && l == loc | _ => false
  if !s.work.any due then .next s
  else
    let t := { s with work := s.work.filter fun w => !due w }
    match fillFrom s core loc with
    | none => .next t
    | some (at_, shared, world) =>
    let t := verify t world at_ shared
    if unreadable t at_ || lineLocked s core at_ then .next t
    else
      let l : Block := BitVec.ofNat 512 (s.readLe at_ 64)
      let put (t : State) (f : FetchLine) : State := t.modCore core fun x => { x with
        lines := x.lines.filter (·.1 ≠ loc) ++ if f.bad && x.want ≠ some loc then [] else [(loc, f)] }
      if lineParity (l ^^^ e1) = 0 then .next (put t { line := l ^^^ e1, bad := false })
      else .next (put (countRefill t core) { line := l ^^^ e2, bad := lineParity (l ^^^ e2) ≠ 0 })

/-! Accesses that left the core. -/

/-- Whether a waiting context's access is held up by a transaction or at a station. -/
def heldUp (s : State) (c : Nat) : Bool := hasTx s c || requestParked s (.ctx c)

/-- MEMORY_REPLY (R161): the access of a waiting context is served, and its reply taken; a long form moves by one point (R207). -/
def execMemoryReply (c : Nat) (s : State) : Out :=
  let x := s.ctx c
  match x.acc with
  | some a =>
    if x.state = .waiting && x.wait = .reply && !heldUp s c then .next ((serve ((actFor s c a.ins).did (.memoryReply c)) a).getD s) else .next s
  | none => .next s

/-- POSTED_WRITE_ACCEPT (R343). -/
def execPostedWriteAccept (c : Nat) (s : State) : Out :=
  let x := s.ctx c
  match x.acc with
  | some a =>
    if x.state = .waiting && x.wait = .accept && !heldUp s c then
      .next ((acceptOne ((actFor s c a.ins).did (.postedWriteAccept c)) a).getD s)
    else .next s
  | none => .next s

/-- FLAG_INCREMENT (R168): once every earlier access is performed. -/
def execFlagIncrement (c : Nat) (s : State) : Out :=
  let x := s.ctx c
  match x.acc with
  | some a =>
    if x.state = .waiting && x.wait = .flag && !heldUp s c then .next ((serveOne ((actFor s c a.ins).did (.flagIncrement c)) a).getD s) else .next s
  | none => .next s

/-- WRITE_PERFORMED (R295). -/
def execWritePerformed (id : Nat) (s : State) : Out :=
  match s.posted.find? (·.id == id) with
  | some p => if performable s p then .next (performPosted (s.did (.writePerformed id)) p) else .next s
  | none => .next s

/-- LOCK_GRANT (R170): once the conditions of R170 hold; the order among waiting locks is that of their steps. -/
def execLockGrant (c : Nat) (s : State) : Out :=
  let x := s.ctx c
  match x.wait with
  | .lock start len =>
    if x.state = .waiting && lockFree s c start len then
      .next (finish (grantLock (actHeld (s.did (.lockGrant c)) c) c start len))
    else .next s
  | _ => .next s

/-! Stations. -/

/-- What a source's request needs translated: barn, ASID, world, virtual address, and whether it writes. -/
structure Need where
  barn : Nat
  asid : Nat
  world : BitVec 8
  va : Nat
  write : Bool
  deriving DecidableEq, Repr

/-- The request of a source that misses (R342, R344). -/
def needOf (s : State) (src : Source) : Option Need :=
  match src with
  | .ctx c => (s.ctx c).miss.map fun m => ⟨barnOf c, (s.ctx c).asid.toNat, (s.ctx c).world, m.1, m.2⟩
  | .chan i n => (chanOf s i n).miss.map fun m => ⟨barnOfCore i, (chanOf s i n).asid, (chanOf s i n).world, m.1, m.2⟩
  | .release l =>
    match s.launch? l with
    | some x => (x.releases.head?).map fun r =>
        ⟨barnOf (homeOf r.1), x.asid.toNat, x.world, (r.2.cap.base.toNat + r.2.off) % 2 ^ 46, true⟩
    | none => none

/-- TRANSLATION_MISS (R344, R345): a request that misses both levels starts a walk, parks behind a marker, or is refused by a full store. -/
def execTranslationMiss (n : Nat) (s : State) : Out :=
  let src := sourceOf n
  match needOf s src with
  | none => .next s
  | some q =>
    if requestParked s src then .next s
    else
      let t := s.did (.translationMiss n)
      if (cachedLeaf s q.barn q.asid q.va q.write).isSome then .next (wake t src)
      else
        let k := stationOf q.barn q.va
        let x := s.station k
        let g := q.va / 2 ^ 16
        let r : ParkedReq := { src := src, asid := q.asid, granule := g, world := q.world, write := q.write }
        if Config.parkedStore ≤ x.parked.length then
          .next (State.push (t.setStation k { x with refused := x.refused ++ [r] }) (.niRetry n))
        else if x.markers.any fun m => m.asid == q.asid && m.granule == g then .next (t.setStation k { x with parked := x.parked ++ [r] })
        else
          .next (State.push
            (t.setStation k { x with
              parked := x.parked ++ [r], markers := x.markers ++ [{ asid := q.asid, granule := g, walking := true, root := x.root }] })
            (.tableWalkDone k q.asid g))

/-- Adds a leaf to a cache of `n` entries, whose oldest entries give way. -/
def cacheLeaf (n : Nat) (c : List Leaf) (l : Leaf) : List Leaf :=
  let d := c.filter fun x => !(x.asid == l.asid && x.va == l.va && x.size == l.size)
  (d.drop (d.length + 1 - n)) ++ [l]

/-- The requests parked at a station that do not wait for a granule any more: those for it, and those behind a request of the same channel
(R345). -/
def Station.release (x : Station) (asid g : Nat) : List ParkedReq × List ParkedReq :=
  let out := x.parked.filter fun r => r.asid == asid && r.granule == g && r.behind == 0
  (out, x.parked.filter fun r => !out.any fun q => q == r || (r.behind ≠ 0 && q.src == r.src))

/-- TABLE_WALK_DONE (R341, R344 to R346, R348): the walk, from the root at which it started, installs its leaf in both levels and releases the
requests behind its marker, or stops and makes a fault entry, which names the first request of the marker: one parked only behind another granule is
none of them; an entry in a poisoned block is reported to the management core too. -/
def execTableWalkDone (k asid g : Nat) (s : State) : Out :=
  let x := s.station k
  let t := s.did (.tableWalkDone k asid g)
  let at_ (m : Marker) : Bool := m.asid == asid && m.granule == g
  match x.markers.find? (fun m => at_ m && m.walking), x.parked.find? (fun r => r.asid == asid && r.granule == g && r.behind == 0) with
  | none, _ => .next t
  | _, none => .next (t.setStation k { x with markers := x.markers.filter fun m => !at_ m })
  | some m, some r =>
    match walk s m.root asid (g * 2 ^ 16) r.world r.write with
    | .ok leaf =>
      let (out, rest) := x.release asid g
      let u := t.setStation k { x with
        cache := cacheLeaf Config.firstLevel x.cache leaf, parked := rest, markers := x.markers.filter fun m => !at_ m }
      let y := k / 8
      let u := { u with yards := mput [] u.yards y (cacheLeaf Config.secondLevel (mget [] u.yards y) leaf) }
      .next (out.foldl (fun u r => wake u r.src) u)
    | .error (cause, level) =>
      let t := if cause = 6 then verify t 0 (walkPoison s m.root asid (g * 2 ^ 16) level) false else t
      let t := if cause = 6 then { t with reports := t.reports ++ [{ station := k, asid := asid, granule := g }] } else t
      let markers := x.markers.map fun m => if at_ m then { m with walking := false } else m
      if Config.faultBuffer ≤ x.buffer.length then .next (t.setStation k { x with markers := markers, dropped := true })
      else
        let e : FaultEntry :=
          { asid := asid, granule := g, world := r.world, cause := cause, level := level, write := r.write, src := r.src }
        .next (t.setStation k { x with markers := markers, buffer := x.buffer ++ [e] })

/-- NI_RETRY (R345): a request refused by a full store comes back to translation. -/
def execNiRetry (n : Nat) (s : State) : Out :=
  let src := sourceOf n
  match stations.find? fun k => (s.station k).refused.any (·.src == src) with
  | some k =>
    let x := s.station k
    .next (State.push ((s.did (.niRetry n)).setStation k { x with refused := x.refused.filter (·.src ≠ src) }) (.translationMiss n))
  | none => .next s

/-- STATION_ACK (R266, R310, R347): once every write that was translated before the invalidation has been performed, also one to a version, every
read of a block that was translated before it has read its last word, and every line that was translated before it has been fetched. -/
def execStationAck (c k : Nat) (s : State) : Out :=
  let x := s.ctx c
  match x.wait, x.latch with
  | .acks left, some l =>
    let busy := (s.posted.any fun p => p.id < x.since && 2 ^ 64 ≤ p.loc && p.txid.isNone)
      || (s.ctxs.any fun q => q.2.since < x.since && (match q.2.acc.bind (·.at_) with | some (loc, _) => decide (2 ^ 64 ≤ loc) | none => false))
      || s.work.any fun w => match w with | .lineFill _ loc _ _ => decide (2 ^ 64 ≤ loc) | _ => false
    if x.state = .waiting && left.contains k && fMajor l.word == 0xF4 && !busy then
      let t := s.did (.stationAck c k)
      let rest := left.erase k
      .next (if rest = [] then finish (actHeld t c) else t.modCtx c fun y => { y with wait := .acks rest })
    else .next s
  | _, _ => .next s

/-- The leaf entry of a page that is mapped on first touch (R340, R341): where it lies, what it holds, and the size of its page. -/
def demandEntry (s : State) (root : Word) (asid va : Nat) : Option (Nat × Word × Nat) :=
  let base := (root.extractLsb' 19 41).toNat * 2 ^ 19
  let word (pa : Nat) : Word := BitVec.ofNat 64 (s.readLe (physLoc pa) 8)
  let at_ (level table : Nat) : Nat := table + 8 * levelIndex va level
  let leaf (level : Nat) (pa : Nat) : Option (Nat × Word × Nat) :=
    let e := word pa
    if entryLeaf e && !entryValid e && entryDemand e then some (pa, e, pageSize level) else none
  let next (pa : Nat) : Nat := ((word pa).extractLsb' 8 52).toNat * 2 ^ 8
  let p1 := at_ 1 (((word (base + 8 * asid)).extractLsb' 19 41).toNat * 2 ^ 19)
  if entryLeaf (word p1) then leaf 1 p1
  else
    let p2 := at_ 2 (next p1)
    if entryLeaf (word p2) then leaf 2 p2 else leaf 3 (at_ 3 (next p2))

/-- Zero is written to every byte and 0x0000 to every tag of a physical page, sealed under a world's keys (R336, R346). -/
def zeroPage (s : State) (world : BitVec 8) (pa size : Nat) : State :=
  let loc := physLoc pa
  let blocks := (List.range (size / 64)).map (loc / 64 + ·)
  let t := zeroSlots (zeroTags (zeroBytes s loc size) loc size) loc size
  let t := { t with
    seals := (t.seals.filter (·.1 < loc / 64)) ++ blocks.map (fun b => (b, some (sealOf s world))) ++ t.seals.filter fun p => (loc + size) / 64 ≤ p.1
    poison := t.poison.filter fun p => !(loc ≤ 64 * p.1 && 64 * p.1 < loc + size) }
  if t.lost loc then blocks.foldl (fun t b => t.setPoison (64 * b) false) t else t

/-- A demand entry once its page is mapped (R340): VALID is set, DEMAND is cleared, and PA names the page. -/
def mappedEntry (e : Word) (page : Nat) : Word :=
  BitVec.ofNat 64 (e.toNat / 2 ^ 60 * 2 ^ 60 + page / 2 ^ 16 % 2 ^ 44 * 2 ^ 16 + e.toNat % 2 ^ 16) &&& ~~~4#64 ||| 1#64

/-- The management core zero-fills and maps a page for a granule that is mapped on first touch (R346). The spec does not say which page its
firmware takes: it is a free one of HBM (log 20). -/
def mapDemand (s : State) (k asid g : Nat) : State :=
  match demandEntry s (s.station k).root asid (g * 2 ^ 16) with
  | some (pa, e, size) =>
    let page := Config.demandPage s.free % (Config.hbmTop / size) * size
    let t := zeroPage { s with free := s.free + 1 } (e.extractLsb' 8 8) page size
    reseal (t.writeLe (physLoc pa) 8 (mappedEntry e page).toNat) 0 (physLoc pa)
  | none => s

/-- The word that names a granule in FB_FAIL (R348). -/
def granuleWord (asid g : Nat) : Word := BitVec.ofNat 64 (asid % 2 ^ 16 * 2 ^ 48 + g % 2 ^ 30 * 2 ^ 16)

/-- FB_POP (R345, R346, R348): the read of the high word removes the oldest fault entry. The shipped firmware maps the page that an entry of cause
1 names and asks for a replay, and fails the granule of an entry of any other cause. -/
def execFbPop (k : Nat) (s : State) : Out :=
  let x := s.station k
  let t := (s.did (.fbPop k)).setStation k { x with buffer := x.buffer.tail }
  match x.buffer with
  | [] => .next t
  | e :: _ =>
    if e.cause = 1 then .next ((mapDemand t k e.asid e.granule).pushOnce (.stnReplayAll k))
    else .next (t.pushOnce (.fbFail k (granuleWord e.asid e.granule)))

/-- A released action leaves its queue; it failed at its target (R242). -/
def dropRelease (s : State) (l : Nat) : State := releaseDone (releaseFails s l) l

/-- A source's request fails (R346). A context that no longer asks for it, because an event came first, is left alone. -/
def failSource (s : State) (src : Source) (va : Nat) : State :=
  let f : FaultInfo := (fltAt .xltFault 0 (2 ^ 46 + va)).lateOf
  match src with
  | .ctx c =>
    match (s.ctx c).acc with
    | some a =>
      let t := actFor s c a.ins
      if a.op == .line then lineFault t a f else matrixLost t a f
    | none => if (s.ctx c).state = .waiting then raise (actHeld s c) f else s
  | .chan i n => if (chanOf s i n).state = 1 then stopChan s i n f else s
  | .release l => dropRelease s l

/-- Fails a granule: every request parked for it ends (R346). DESIGN CHOICE (log 30): the spec does not say what FB_FAIL does to a granule whose walk is
still in progress; the walk is discarded with its marker; unsafe. Reserved bits of the written word that are not zero are ignored (R6, R348, log 30). -/
def failGranule (s : State) (k : Nat) (v : Word) : State :=
  let asid := (v.extractLsb' 48 16).toNat
  let g := (v.extractLsb' 16 30).toNat
  let x := s.station k
  let (out, rest) := x.release asid g
  let t := s.setStation k { x with parked := rest, markers := x.markers.filter fun m => !(m.asid == asid && m.granule == g) }
  out.foldl (fun t r => failSource t r.src (match needOf s r.src with | some q => q.va | none => g * 2 ^ 16)) t

/-- FB_FAIL (R346, R348). -/
def execFbFail (k : Nat) (v : BitVec 64) (s : State) : Out := .next (failGranule (s.did (.fbFail k v)) k v)

/-- STN_REPLAY_ALL (R346, R348). -/
def execStnReplayAll (k : Nat) (s : State) : Out := .next (replayStation (s.did (.stnReplayAll k)) k)

/-- Every entry that a station uses is invalidated, at both levels (R348). -/
def invalidateStation (s : State) (k : Nat) : State :=
  let x := s.station k
  let t := s.setStation k { x with cache := [] }
  { t with yards := mput [] t.yards (k / 8) ((mget [] t.yards (k / 8)).filter fun l => l.size == 2 ^ 16 && l.va / 2 ^ 16 % 8 ≠ k % 8) }

/-- STN_INVALIDATE_ALL (R348). -/
def execStnInvalidateAll (k : Nat) (s : State) : Out := .next (invalidateStation (s.did (.stnInvalidateAll k)) k)

/-! Wipes and scrub. -/

/-- Writes one piece of a block with zero, and its tag with 0x0000 (R268, R427). A whole block is written as one unit, which ends its poison (R333);
a part is merged with its block, whose code has to verify (R337). The block is sealed afresh unless its page is shared (R336, R338). -/
def wipePiece (s : State) (by_ : Nat) (world : BitVec 8) (p : Nat × Nat × Bool) : State :=
  let zero (t : State) : State := (zeroSlots (zeroBytes t p.1 p.2.1) p.1 p.2.1).setTag p.1 0
  let sealed (t : State) : State := if p.2.2 then t else reseal t world p.1
  if p.2.1 = 64 then sealed ((zero s).setPoison p.1 false)
  else
    let t := verify s world p.1 p.2.2
    if t.poisoned p.1 then discard t by_ p.1 else sealed (zero t)

/-- Writes pieces of blocks and reads the blocks back: the state, and the blocks that are not overwritten and verified, which are retired (R268,
R427). -/
def wipePieces (s : State) (by_ : Nat) (world : BitVec 8) (ps : List (Nat × Nat × Bool)) : State × List Nat :=
  ps.foldl (fun (acc : State × List Nat) p =>
    let b := p.1 / 64
    let t := wipePiece acc.1 by_ world p
    if mget false acc.1.dead b || Config.blockFails b || t.poisoned p.1 then ({ t with dead := mput false t.dead b true }, acc.2 ++ [b])
    else (t, acc.2)) (s, [])

/-- The bytes and tags of the versions of a region become zero (R186, R268). -/
def wipeVersions (s : State) (k : Cap) : State :=
  let mine (loc : Nat) : Bool := versionLoc (regionKey k) 0 0 ≤ loc && loc < versionLoc (regionKey k + 1) 0 0
  if k.kind == 1 && k.versioned then { s with mem := s.mem.filter fun c => !mine c.1, tags := s.tags.filter fun c => !mine (64 * c.1) } else s

/-- The location of a byte of a buffer and whether its page is shared, or the virtual address that has to be translated first. -/
def wipeLoc (s : State) (c : Nat) (k : Cap) (addr : Nat) : Except Nat (Nat × Bool) :=
  match reach s c k addr true with
  | .here loc shared => .ok (loc, shared)
  | .miss _ _ va =>
    match walk s (s.station (stationOf (barnOf c) va)).root (s.ctx c).asid.toNat va (s.ctx c).world true with
    | .ok l => .ok (physLoc (l.pa + (va - l.va)), l.shared)
    | .error _ => .error va
  | .far j off => .ok (farLoc j off, true)

/-- The pieces of blocks that a range of addresses takes: address and bytes. -/
def piecesOf (base n : Nat) : List (Nat × Nat) :=
  (List.range (if n = 0 then 0 else (base % 64 + n + 63) / 64)).map fun i =>
    let lo := max base (base / 64 * 64 + 64 * i)
    (lo, min (base + n) (base / 64 * 64 + 64 * i + 64) - lo)

/-- The pieces of a buffer: location, bytes, and whether the page is shared. -/
def wipeRange (s : State) (c : Nat) (k : Cap) : Except Nat (List (Nat × Nat × Bool)) :=
  (piecesOf k.base.toNat k.length.toNat).mapM fun p => (wipeLoc s c k p.1).map fun l => (l.1, p.2, l.2)

/-- The address of a location in device physical terms: physical for HBM and the pool, and the mesh address for SRAM (R44, R294, R427). Where a version of
an exported region lies in the pool the spec does not say (log 21). -/
def physOf (loc : Nat) : Nat :=
  if 2 ^ 100 ≤ loc then (Config.versionPlace loc).toNat else if 2 ^ 64 ≤ loc then loc - 2 ^ 64 else loc

/-- The contiguous runs of some pieces, in ascending order. -/
def runsOf (ps : List (Nat × Nat)) : List (Nat × Nat) :=
  (sortBy (fun a b => a.1 ≤ b.1) ps).foldr (fun p acc =>
    match acc with
    | q :: r => if p.1 + p.2 = q.1 then (p.1, p.2 + q.2) :: r else p :: acc
    | [] => [p]) []

/-- The receipt of a range of locations, of which `bad` lists the excluded blocks (R427). -/
def makeReceipt (s : State) (world : BitVec 8) (start len : Nat) (bad : List Nat) : Receipt :=
  let out := (sortBy (fun a b => decide (a ≤ b)) bad).filter fun b => start < 64 * b + 64 && 64 * b < start + len
  { world := world, epoch := mget 0 s.epochs world.toNat, start := physOf start, len := len, covered := (piecesOf start len).length - out.length,
    excluded := sortBy (fun a b => decide (a ≤ b)) (out.map fun b => physOf (64 * b)) }

/-- The receipts of some pieces, one for each contiguous range (R427). -/
def receiptsOf (s : State) (world : BitVec 8) (ps : List (Nat × Nat)) (bad : List Nat) : List Receipt :=
  (runsOf ps).map fun p => makeReceipt s world p.1 p.2 bad

/-- The pieces of a buffer that a wipe writes, and the address at which it meets a withdrawn extent, if it does (R421); that of a version of a versioned
region is met at the region's base. -/
def wipeReach (s : State) (k : Cap) (ps : List (Nat × Nat × Bool)) : List (Nat × Nat × Bool) × Option Nat :=
  let versions := k.kind == 1 && k.versioned && s.extents.any fun e => meets (versionLoc (regionKey k) 0 0) (2 ^ 64) e.1 e.2.1
  if versions then ([], some k.base.toNat)
  else
    let ok := ps.takeWhile fun p => !withdrawn s p.1
    (ok, ((piecesOf k.base.toNat k.length.toNat)[ok.length]?).map (·.1))

/-- WIPE_PASS_END (R268, R427): w[d] receives the number of blocks that were not overwritten and verified, and a wipe that a world-0 context issued
has a receipt for each physical range. A page of the buffer belongs to the issuer's world, which translates it (R336, R341). The versions of a
versioned region go with its bytes. A pass that meets a withdrawn extent ends there, with POISON for the issuer (R421). The pass follows the issuer's earlier writes to the buffer (R297), and waits for a region lock (R171) and for a
multicast that has the buffer pinned (R258). -/
def execWipePassEnd (c : Nat) (s : State) : Out :=
  let x := s.ctx c
  match x.wait with
  | .wipe d k =>
    if x.state ≠ .waiting || heldUp s c then .next s
    else
      match wipeRange s c k with
      | .error va => .next (missAt (s.did (.wipePassEnd c)) c va true)
      | .ok ps =>
        let bs := ps.map fun p => (p.1, p.2.1)
        if bs.any (fun p => lockedOut s c p.1 p.2) || pinnedSource s bs || postedAt s c (bs ++ bs.map fun p => (tagLoc (p.1 / 64 * 64), 64)) then .next s
        else
        let (ps, gone) := wipeReach s k ps
        match gone with
        | some a => .next (raise (actHeld (wipePieces (s.did (.wipePassEnd c)) (barnOf c) x.world ps).1 c) (fltAt .poison 0 a).lateOf)
        | none =>
        let (t, bad) := wipePieces (wipeVersions (s.did (.wipePassEnd c)) k) (barnOf c) x.world ps
        let t := if x.world = 0 then { t with receipts := t.receipts ++ receiptsOf s k.world bs bad } else t
        .next (finish ((actHeld t c).setW d (BitVec.ofNat 64 bad.length)))
  | _ => .next s

/-- Single-bit errors that the codes of a barn's memories have corrected since the last scrub of one of its blocks, by scrub or on demand (R333,
R439, R441, log 21). -/
def countCorrected (s : State) (b : Nat) : State :=
  { s.modBarn b fun x => { x with corr := min (x.corr + Config.softErrors s.free) 1048575 } with free := s.free + 1 }

/-- SCRUB_MAINTENANCE_SLOT (R439): a word is read, corrected and rewritten; no value changes. -/
def execScrubMaintenanceSlot (core bank : Nat) (s : State) : Out :=
  .next (countCorrected (s.did (.scrubMaintenanceSlot core bank)) (barnOfCore core))

/-- SCRUB_BLOCK (R439, R333, R336, R338): a block is read, corrected and rewritten; an uncorrectable one is poisoned. For a block of the pool the
step stands for a response of the host's memory that carries the poison indication (log 21). -/
def execScrubBlock (loc : Nat) (uncorrectable : Bool) (s : State) : Out :=
  let t := s.did (.scrubBlock loc uncorrectable)
  let t := if isSram loc then countCorrected t (locBarn loc) else t
  .next (if uncorrectable then t.setPoison loc true else t)

end Sys2Proof.Machine
end

