-- ==== Sys2Proof/Machine/EvSched.lean ====
section
/-! DEFINITION. Steps of the scheduler: events and fault records (R276, R283, R284), timers and sleep (R36, R37, R155, R367, R368, R437), timing
replays (R440), the slot table (R359, R360), context commands (R288, R290, R358), and the release of deferred actions (R242). -/

namespace Sys2Proof.Machine

/-! Events. -/

/-- Whether the word of a waiting instruction is an interruptible wait (R284): recv, trecv, gvtwait, gwait, cpwait, hpop and hpush. -/
def interruptible (w : InstWord) : Bool :=
  [(0xC0, 0x02), (0xD0, 0x02), (0xD2, 0x01), (0xD8, 0x02), (0xE0, 0x02), (0xDA, 0x00), (0xDA, 0x01)].contains
    ((fMajor w).toNat, (fFunc w).toNat)

/-- The event that a context would take at its turn (R281, R284): the one whose entry is replayed, or the lowest pending one. -/
def eventFor (x : Ctx) : Option Nat :=
  if x.stopped then none
  else
    match x.state, x.latch with
    | .ready, some l => l.entry
    | .ready, none => x.deliverable
    | .waiting, some l => if x.wait == .cond && x.rolling.isNone && interruptible l.word then x.deliverable else none
    | _, _ => none

/-- A context on whose behalf an event acts at its program counter. -/
def actAt (s : State) (c : Nat) : State :=
  { s with cur := { Issue.none with ctx := c, codept := (s.ctx c).pc, pos := s.cur.pos } }

/-- EVENT_DELIVERY (R284, R279): the vector is checked by R99, and the handler entered; on a failure the context parks with EVENTRY set. DEDUCED
(log 28): the entry meets a line whose parity failed twice as a transfer does. -/
def execEventDelivery (c : Nat) (s : State) : Out :=
  let x := s.ctx c
  match eventFor x with
  | none => .next s
  | some e =>
    let t := actAt (s.did (.eventDelivery c)) c
    let fail (f : FaultInfo) : Out := .next (raiseEntry (t.modMe fun x => { x with acc := none }) e x.pc f)
    if x.evtVec.toNat % 64 ≠ 0 then fail (flt .badTarget)
    else
      let line : Int := (x.evtVec.toNat / 64 + (e - 1) : Nat)
      match lookLine t (t.k 15) line 0 with
      | .error f => fail f
      | .ok (.absent loc) => .next (awaitFill t loc)
      | .ok (.away _) => .next (awaitLine t (t.k 15) line { heldLatch t false true with entry := some e })
      | .ok .locked => .next (spendTurn t)
      | .ok (.held loc l) =>
        if l.bad then .next (raiseEntry ((dropLine t t.myCore loc).modMe fun x => { x with acc := none }) e x.pc (fltAt .illegal 2 0))
        else if enterable l.line 0 then
          .next (t.modMe fun y => { y with
            state := .ready, wait := .none, acc := none, latch := none, inEvent := true, evtRet := BitVec.ofNat 64 x.pc,
            events := y.events &&& ~~~(1#6 <<< e), pc := 64 * line.toNat })
        else fail (flt .badTarget)

/-! Fault records. -/

/-- The payload of a fault record (R277). -/
def recordPayload (r : Record) (rank : BitVec 6) (seq : BitVec 32) : BitVec 384 :=
  BitVec.ofNat 384 (r.late.toNat + 2 * r.entry.toNat + 4 * r.inEvent.toNat + 2 ^ 8 * rank.toNat + 2 ^ 24 * r.paired.toNat + 2 ^ 32 * r.code.toNat
    + 2 ^ 48 * r.detail.toNat + 2 ^ 64 * seq.toNat + 2 ^ 96 * r.insn.toNat + 2 ^ 192 * r.codept.toNat + 2 ^ 256 * r.progress.toNat
    + 2 ^ 320 * r.addr.toNat)

/-- The supervisor of a context's launch on its core. -/
def supervisorOf (s : State) (c : Nat) : Option Nat :=
  (ctxsOfCore (coreOf c)).find? fun n => (s.ctx n).sup && (s.ctx n).state ≠ .absent && (s.ctx n).launch == (s.ctx c).launch

/-- Whether a context's supervisor has halted or ended (R275). -/
def supervisorLost (s : State) (c : Nat) : Bool :=
  let x := s.ctx c
  !x.sup && !x.sys && (match supervisorOf s c with | some n => (s.ctx n).state == .halted || (s.ctx n).state == .ended | none => false)

/-- The port of the ring that takes a context's fault records (R274, R275): the one that FAULT_RING names, or the one of its lost supervisor's
records. -/
def faultPort (s : State) (c : Nat) : Nat :=
  let own := (s.ctx c).faultRing
  let r := if supervisorLost s c then (match supervisorOf s c with | some n => (s.ctx n).faultRing | none => own) else own
  (r &&& 0xFFFFFFFFFFC0#64).toNat

/-- FAULT_RECORD_POST (R276): the earliest unposted record of a core is posted once its ring has room. The record of a context whose supervisor
is lost ends its launch (R275, R293). DESIGN CHOICE (log 30): the earlier records of a launch's contexts come first on a core though they wait for
another ring, as a supervisor's does that is bound for the system ring; safe. -/
def execFaultRecordPost (c : Nat) (s : State) : Out :=
  let x := s.ctx c
  match x.record with
  | none => .next s
  | some r =>
    let port := faultPort s c
    let ring := s.ring port
    let earlier := s.ctxs.any fun p => p.1 ≠ c && coreOf p.1 == coreOf c && p.2.record.isSome && p.2.since < x.since && p.2.launch == x.launch
    if earlier || !ring.live || ring.timed || lockedAny s port ring.length || (ringAway s port && numOf ring.owner < 62) || ring.cells ≤ ring.slots.length then .next s
    else
      let slot : Slot :=
        { state := .pending, vrt := 0, tag := 0xFFFF, defer_ := false, cap := false, len := 48,
          payload := recordPayload r x.rank (s.core (coreOf c)).posted, side := Cap.null, took := Cap.null, sender := c, remote := none }
      let t := addSlot ((s.did (.faultRecordPost c)).modCtx c fun y => { y with record := none }) port slot
      let t := t.modCore (coreOf c) fun k => { k with posted := k.posted + 1 }
      .next (if supervisorLost s c then terminateLaunch t x.launch 0x84 else t)

/-! Timers and sleep. -/

/-- TIMER (R37). -/
def execTimer (c : Nat) (s : State) : Out := .next (fireTimer (s.did (.timer c)) c)

/-- SLEEP_EXPIRY (R155). -/
def execSleepExpiry (c : Nat) (s : State) : Out :=
  let x := s.ctx c
  match x.state, x.wait with
  | .waiting, .sleep (some 0) =>
    .next ((s.did (.sleepExpiry c)).modCtx c fun y => { y with state := .ready, wait := .none, pc := nextPoint y.pc })
  | _, _ => .next s

/-- Whether a core is idle (R18). A context whose wait an event ends at its next turn keeps the core awake (R284, log 22). -/
def coreIdle (s : State) (i : Nat) : Bool :=
  !(s.ctxs.any fun p => coreOf p.1 == i && !p.2.stopped && (p.2.state == .ready || (eventFor p.2).isSome))

/-- The idle cycles after which a core enters a depth (R367). -/
def depthDelay (x : Core) (d : Nat) : Nat := if d = 0 then 0 else if d = 1 then 16 * x.entryDelay.toNat else 128 * x.entryDelay.toNat

/-- Whether a core may enter a depth now (R36, R367). -/
def depthDue (s : State) (i d : Nat) : Bool :=
  let x := s.core i
  coreIdle s i && d ≤ x.maxDepth.toNat && depthDelay x d ≤ x.idle

/-- SLEEP_DEPTH_ENTRY (R36, R367): depth 2 is entered by the four cores of a barn together. -/
def execSleepDepthEntry (i : Nat) (s : State) : Out :=
  let d := match (s.core i).depth with | none => 0 | some n => n + 1
  let t := s.did (.sleepDepthEntry i)
  if d < 2 then
    if depthDue s i d then .next (t.modCore i fun x => { x with depth := some d }) else .next s
  else if d = 2 && (coresOfBarn (barnOfCore i)).all fun j => depthDue s j 2 then
    .next ((coresOfBarn (barnOfCore i)).foldl (fun t j => t.modCore j fun x => { x with depth := some 2 }) t)
  else .next s

/-- CORE_WAKE (R18, R368): a core whose barn was power-gated waits for the exit test; a package that slept runs again (R436). -/
def execCoreWake (i : Nat) (s : State) : Out :=
  match (s.core i).depth with
  | none => .next s
  | some d =>
    if coreIdle s i then .next s
    else
      let t := s.did (.coreWake i)
      let t := if t.power = .sleep then { t with power := .run } else t
      let b := barnOfCore i
      if d < 2 then .next (t.modCore i fun x => { x with depth := none, idle := 0 })
      else if (s.barn b).testDue then .next t
      else .next ((t.modBarn b fun x => { x with testDue := true }).push (.exitTest b true))

/-- EXIT_TEST (R437, R368): a barn that passes is offered to the dispatcher; one that fails is retired, which BARNS_OK shows (R431), and its launch is
moved. The management core may order it for a barn that is reported for its replays (R440). -/
def execExitTest (b : Nat) (pass : Bool) (s : State) : Out :=
  if !(s.barn b).testDue && !s.slow.contains b then .next s
  else
    let t := ((s.did (.exitTest b true)).did (.exitTest b false)).modBarn b fun x => { x with testDue := false, retired := x.retired || !pass }
    let t := { t with slow := t.slow.filter (· ≠ b) }
    if pass then
      .next (if (s.barn b).testDue then (coresOfBarn b).foldl (fun t i => t.modCore i fun x => { x with depth := none, idle := 0 }) t else t)
    else
      let t := if (s.barn b).retired then t else { t with boot := { t.boot with barnsOk := t.boot.barnsOk - 1 } }
      let l := (s.barn b).launch
      .next (if (s.launch? l).isSome then t.pushOnce (.paddockPreempt l) else t)

/-- TIMING_REPLAY (R440, R441): the barn re-executes a cycle, which takes two arithmetic cycles of each of its cores. A barn that replays more than
1,024 times in 2^20 cycles is reported to the management core. -/
def execTimingReplay (b : Nat) (s : State) : Out :=
  let t := (s.did (.timingReplay b)).modBarn b fun x => { x with treplay := min (x.treplay + 1) 1048575, replays := x.replays + 1 }
  let t := if (s.barn b).replays = 1024 && !t.slow.contains b then { t with slow := t.slow ++ [b] } else t
  .next (((coresOfBarn b).filter fun i => s.cores.any (·.1 == i)).foldl (fun t i => t.modCore i fun x => { x with hold := x.hold + 2 }) t)

/-! The slot table. -/

/-- SLOT_TABLE_TAKES_EFFECT (R16, R359): the table as it was when it was committed. -/
def execSlotTableTakesEffect (i : Nat) (s : State) : Out :=
  match (s.core i).commit with
  | some table =>
    if (s.core i).rot % 16 = 0 then .next ((s.did (.slotTableTakesEffect i)).modCore i fun x => { x with slots := table, commit := none }) else .next s
  | none => .next s

/-- The reserved bits of a slot-table entry, and MODE 3 (R359). -/
def entryOk (e : Word) : Bool := slotMode e ≠ 3 && e.extractLsb' 16 48 == 0 && e.extractLsb' 12 2 == 0 && e.extractLsb' 6 4 == 0

/-- The entries of a table with their positions. -/
def tableEntries (t : Vector Word 16) : List (Nat × Word) := (List.range 16).zip t.toList

/-- Whether a staged table may be committed (R359). -/
def tableOk (s : State) (i : Nat) (t : Vector Word 16) : Bool :=
  let es := tableEntries t
  es.all fun p =>
    let e := p.2
    let x := s.ctx (64 * i + slotCtx e)
    let others := es.filter fun q => q.1 ≠ p.1 && slotMode q.2 ≠ 0 && slotCtx q.2 == slotCtx e
    entryOk e &&
      (if slotMode e = 1 then x.state ≠ .absent && x.pool == 0xF && others.isEmpty
       else if slotMode e = 2 then x.state ≠ .absent && x.pool.toNat == slotPool e && !(others.any fun q => slotMode q.2 == 2)
       else true)

/-- SLOT_COMMIT (R359): the staged entries, as they were at the write, are refused whole with ERRCODE 5, or takes effect when the rotation counter is 0. -/
def execSlotCommit (i : Nat) (s : State) : Out :=
  let x := s.core i
  let table := x.committing.head?.getD x.staged
  let t := (s.did (.slotCommit i)).modCore i fun x => { x with committing := x.committing.tail }
  let t := if x.committing.tail.isEmpty then t else t.pushOnce (.slotCommit i)
  if tableOk s i table then .next ((t.modCore i fun x => { x with commit := some table }).pushOnce (.slotTableTakesEffect i))
  else .next (t.modCore i fun x => { x with err := true, errCode := 5 })

/-! The rotation (R360). -/

/-- The wait of a context at its core's cycle. -/
def waitOf (s : State) (c : Nat) : Nat :=
  let x := s.ctx c
  (s.core (coreOf c)).rot - (match x.lastIssue with | some n => n | none => x.resident)

/-- The context of greatest wait, the lowest number on a tie. -/
def longest (s : State) (cs : List Nat) : Option Nat := cs.find? fun c => cs.all fun d => waitOf s d < waitOf s c || (waitOf s d == waitOf s c && c ≤ d)

/-- The members of a pool that are Ready. -/
def readyMembers (s : State) (i pool : Nat) : List Nat :=
  (ctxsOfCore i).filter fun c => (s.ctx c).state == .ready && (s.ctx c).pool.toNat == pool

/-- The binding of a floating position moves (R360): to the Ready member of its pool, other than the issuer and not named by any other entry,
with the greatest wait. -/
def moveBinding (s : State) (i p : Nat) (issuer : Option Nat) : State :=
  let e := slotEntry s i p
  if slotMode e ≠ 2 then s
  else
    let es := tableEntries (s.core i).slots
    let free (c : Nat) : Bool := issuer ≠ some c && !(es.any fun q => q.1 ≠ p && slotMode q.2 ≠ 0 && slotCtx q.2 == numOf c)
    match longest s ((readyMembers s i (slotPool e)).filter free) with
    | some y => s.modCore i fun x => { x with slots := vset x.slots p ((e &&& ~~~(0x3F#64)) ||| BitVec.ofNat 64 (numOf y)) }
    | none => s

/-- UNUSED_TURN (R360): no context issues; the binding of a floating position still moves. -/
def execUnusedTurn (i : Nat) (s : State) : Out := .next (moveBinding (s.did (.unusedTurn i)) i ((s.core i).rot % 16) none)

/-! Context commands. -/

/-- The requests that a context has at stations are withdrawn. -/
def unparkCtx (s : State) (c : Nat) : State :=
  let keep (r : ParkedReq) : Bool := r.src ≠ .ctx c
  s.stations.foldl (fun t p => t.setStation p.1 { p.2 with parked := p.2.parked.filter keep, refused := p.2.refused.filter keep })
    ((s.did (.translationMiss c)).did (.niRetry c))

/-- A context stops with its instruction in the latch, and reissues it as a replay does (R286). -/
def stopIn (s : State) (c : Nat) (l : Latch) : State :=
  ((unparkCtx s c).modCore (coreOf c) fun k => { k with tents := k.tents.erase c }).modCtx c fun y =>
    { y with state := .ready, wait := .none, acc := none, miss := none, latch := some { l with replay := true } }

/-- A message that waits for room, or for its receiver, is withdrawn with its send (R231, R288). -/
def withdrawSend (s : State) (m : Msg) : State :=
  let t := if m.kind = .timed then
      (modLog (countReceived s m) m.from_ fun es => es.filter fun e => e.vrt ≠ m.vrt).modCtx m.from_ fun x => { x with seq := x.seq - 1 }
    else s
  (dropMsg (returnCap t m) m.id).did (arrivalOf m) |>.did (.moveByteCopy m.id) |>.did (.backPressureResend m.id)

/-- Whether a write of an actor waits for room in its loft (R318). -/
def lacksRoom (s : State) (c : Nat) (a : Access) : Bool :=
  let t := actFor s c a.ins
  (primOf t a.op).writes && (match reach t c a.k a.addr true with
    | .here loc _ => (match guardWrite t c loc with | .ok none => true | _ => match guardFlag t a with | .ok none => true | _ => false)
    | _ => false)

/-- A context at rest, as an eviction leaves it (R286, R288): a condition wait is withdrawn, as one for room in the loft is (R318), and a long form
stops with its instruction in the latch; the recall of a message stays under way (R240), and a held exit does, which its hleave finds when it issues
again (R409); none while its instruction is still in flight or a write of its is not performed. -/
def atRest (s : State) (c : Nat) : Option State :=
  let x := s.ctx c
  if hasPosted s c || hasTx s c || (s.core (coreOf c)).vents.any (·.ctx == c) || x.state = .transfer then none
  else if x.state ≠ .waiting then
    some (if x.acc.isSome then (unparkCtx s c).modCtx c fun y => { y with acc := none, miss := none } else s)
  else
    match x.wait, x.acc, x.latch with
    | .cond, _, some l => some (stopIn s c l)
    | .lock .., _, some l => some (stopIn (s.did (.lockGrant c)) c l)
    | .sleep _, _, _ => some s
    | .recall .., _, _ => some s
    | .acks _, _, some l =>
      match hitchOf s x.launch with
      | some h => if h.stage = .exitWait && h.leaver = some c then some (stopIn (setHitch s { h with leaver := none }) c l) else none
      | none => none
    | .reply, some a, _ => if lacksRoom s c a then some (stopIn (s.did (.memoryReply c)) c a.ins) else if a.op.isLong || a.op == .line then some (stopIn (s.did (.memoryReply c)) c a.ins |> unlatched a) else none
    | .accept, some a, _ => if lacksRoom s c a then some (stopIn (s.did (.postedWriteAccept c)) c a.ins) else none
    | .matrix, some a, _ => if s.work.contains (.matrixComplete c) then none else some (stopIn (s.did (.matrixKBlock c)) c a.ins)
    | .ring id, _, some l =>
      match msgOf s id with
      | some m => if msgOut s m || copying s m then none else some (stopIn (withdrawSend s m) c l)
      | none => none
    | _, _, _ => none
where
  /-- A fetch leaves no instruction in the latch. -/
  unlatched (a : Access) (t : State) : State := if a.ins.noWord then t.modCtx c fun y => { y with latch := none } else t

/-- Whether a position in force names a context (R357). -/
def bound (s : State) (c : Nat) : Bool :=
  (tableEntries (s.core (coreOf c)).slots).any fun p => slotMode p.2 ≠ 0 && slotCtx p.2 == numOf c

/-- The state codes of R357. -/
def CtxState.code : CtxState → Nat
  | .absent => 0 | .ready => 1 | .waiting => 2 | .parked => 3 | .halted => 4 | .ended => 5 | .transfer => 6
def CtxState.ofCode (n : Nat) : CtxState :=
  match n with | 1 => .ready | 2 => .waiting | 3 => .parked | 4 => .halted | 5 => .ended | 6 => .transfer | _ => .absent

/-- A context command is refused (R358). -/
def cmdError (s : State) (i code : Nat) : State :=
  (s.modCore i fun x => { x with busy := true, err := true, errCode := code }).push (.ctxCmdComplete i)
/-- A context command runs to its end. -/
def cmdDone (s : State) (i : Nat) : State := (s.modCore i fun x => { x with busy := true, err := false, errCode := 0 }).push (.ctxCmdComplete i)

/-- Whether a command is ignored, because another one runs (R358). -/
def cmdIgnored (s : State) (i : Nat) (ev : Instr) : Bool := (s.core i).busy && !s.work.contains ev

/-- The contexts that a core's units, the rings and the launches name take other names (R288). -/
def renameCtx (s : State) (i : Nat) (f : Nat → Nat) : State :=
  let box (m : Mailbox) : Mailbox := { m with by_ := f m.by_ }
  let arrival (a : Arrival) : Arrival := { a with ctx := f a.ctx }
  let t := s.modBarn (barnOfCore i) fun b => { b with
    tileLock := b.tileLock.map (·.map f), tileClaim := b.tileClaim.map (·.map f), tileWait := b.tileWait.map (·.map f) }
  let t := t.modCore i fun x => { x with
    queues := x.queues.map fun q => q.map fun e => { e with by_ := f e.by_ }
    boxes := x.boxes.map (·.map box), served := x.served.map fun b => (b.1, box b.2)
    chans := x.chans.map fun x => { x with starter := f x.starter, charged := x.charged.map f, mailbox := x.mailbox.map box }
    gates := x.gates.map fun g => { g with counted := g.counted.map arrival, waiting := g.waiting.map arrival } }
  { t with
    rings := t.rings.map fun r => (r.1, { r.2 with owner := f r.2.owner, slots := r.2.slots.map fun x => { x with sender := f x.sender } })
    launches := t.launches.map fun l => (l.1, { l.2 with releases := l.2.releases.map fun r => (f r.1, r.2) })
    hitches := t.hitches.map fun h => { h with leaver := h.leaver.map f, line := h.line.map fun e => (f e.1, e.2) } }

/-- The words of a bind record (R358). -/
def bindWords (x : Ctx) : List Word :=
  let st := (ctxStatus x) &&& ~~~(0x60#64)
  let w1 : Nat := x.asid.toNat * 2 ^ 48 + x.world.toNat * 2 ^ 40 + x.wsize * 2 ^ 32 + x.wbase * 2 ^ 20 + x.prio.toNat * 2 ^ 18 + x.pool.toNat * 2 ^ 12
  let w3 : Nat := x.actorId.toNat + x.rank.toNat * 2 ^ 18 + 2 ^ 32 * (x.loft.base / 64 % 2 ^ 15 + 2 ^ 16 * (x.loft.length / 64 % 2 ^ 15))
  [st, BitVec.ofNat 64 w1, x.faultRing, BitVec.ofNat 64 w3]
    ++ (List.range 4).map fun i => BitVec.ofNat 64 ((vat 0 x.lvl (2 * i)).toNat + 2 ^ 32 * (vat 0 x.lvl (2 * i + 1)).toNat)

/-- The remaining count of a sleep, in cycles; 0 says that only an event ends it (R290, log 17). -/
def sleepLeft (w : Wait) : Nat := match w with | .sleep (some n) => max n 1 | _ => 0

/-- The index and the location of the 48-byte slot that keeps an unposted record (R290, log 17): for an actor in its loft after the records there,
and otherwise in the system page of its image after the window. -/
def recordSlot (x : Ctx) (barn adr : Nat) : Nat × Nat :=
  if x.actor then
    let n := (x.loft.used + 47) / 48
    (n, barnLoc barn (x.loft.base + 48 * n))
  else
    let n := (adr % 2 ^ 16 + 64 + 448 + 64 * x.wsize + 47) / 48
    (n, physLoc (adr / 2 ^ 16 * 2 ^ 16 + 48 * n))

/-- The words of a context image but for the window (R290); `slot` is the index of its unposted record. -/
def imageWords (x : Ctx) (slot : Nat) : List Word :=
  let s0 : Nat := x.state.code + 8 * x.stopped.toNat + 2 ^ 8 * (x.events.toNat / 2) + 2 ^ 16 * x.evtEn.toNat + 2 ^ 17 * x.inEvent.toNat
  let lw := match x.latch with | some l => l.word.toNat | none => 0
  let lf := match x.latch with | some l => 1 + 2 * l.replay.toNat + 4 * l.paired.toNat | none => 0
  [BitVec.ofNat 64 s0, BitVec.ofNat 64 x.pc, x.progress, BitVec.ofNat 64 lw,
    BitVec.ofNat 64 (lw / 2 ^ 64 + 2 ^ 32 * (lf + 8 * x.record.isSome.toNat)), x.evtVec, x.evtRet, x.timerCmp, x.ufc0, x.ufc1, x.lvt, x.floor,
    x.ckMask.setWidth 64, x.seq.setWidth 64, BitVec.ofNat 64 (sleepLeft x.wait),
    BitVec.ofNat 64 (if x.record.isSome then slot else 0)]
    ++ ((List.range 7).map fun i => vat 0 x.m (i + 1)) ++ [0]
    ++ (x.k.toList.map fun k => [k.bits.extractLsb' 0 64, k.bits.extractLsb' 64 64]).flatten

/-- The window of a context. -/
def windowOf (s : State) (c : Nat) : List Word := (List.range (8 * (s.ctx c).wsize)).map (s.regOf c)

/-- Writes bytes of a world to memory from a location, block by block, without the tags: each is merged with its block, whose code has to verify (R337),
and discarded at one that is poisoned (R333); the block is sealed afresh (R336). -/
def writeSealed (s : State) (world : BitVec 8) (barn loc n v : Nat) : State :=
  (cutAt 64 loc n).foldl (fun t p => reseal (storeBy (verify t world p.1 false) barn p.1 p.2 (v / 2 ^ (8 * (p.1 - loc)))) world p.1) s

/-- The block-aligned place at which the management core puts the image of a context of a paddock that it pre-empts (R290): the spec gives it no address
(log 4). -/
def imagePlace (n c : Nat) : Nat := Config.imagePage n c % (Config.hbmTop / 2 ^ 16) * 2 ^ 16

/-- Writes a context's bind record and image (R290, R358), and the record that is not posted. -/
def imageBytes (s : State) (c adr : Nat) : State :=
  let x := s.ctx c
  let (slot, loc) := recordSlot x (barnOf c) adr
  let ws := bindWords x ++ imageWords x slot ++ windowOf s c
  let t := writeSealed s x.world (barnOf c) (physLoc adr) (8 * ws.length) (packLanes 64 (ws.map (·.toNat)))
  match x.record with
  | some r => writeSealed t x.world (barnOf c) loc 48 (recordPayload r x.rank 0).toNat
  | none => t

/-- The image of a context that is evicted, with what the bytes do not show (log 17). -/
def writeImage (s : State) (c adr : Nat) : State :=
  let t := imageBytes s c adr
  { t with images := mput Ctx.reset t.images adr (s.ctx c) }

/-- Event `e` becomes pending for the contexts of a launch that are away: evicted, where their images show it, and pre-empted with their paddock
(R283, R290). -/
def pendAway (s : State) (n e : Nat) : State :=
  let t := (s.images.filter fun p => p.2.launch == n && !p.2.sup).foldl (fun t p =>
    { shown t (barnOf (homeOf (imageName s p.1))) p.1 (p.2.pend e) with images := mput Ctx.reset t.images p.1 (p.2.pend e) }) s
  match s.launch? n with
  | some l =>
    if l.stage = .saved then
      ((l.saved.filter fun p => !p.2.sup).foldl (fun t p => shown t (barnOf p.1) (imagePlace n p.1) (p.2.pend e)) t).modLaunch n fun l => { l with
        saved := l.saved.map fun p => (p.1, if p.2.sup then p.2 else p.2.pend e) }
    else t
  | none => t
where
  /-- The words of an image that show its events, its program counter and its sleep. -/
  shown (t : State) (barn adr : Nat) (x : Ctx) : State :=
    let put (t : State) (o v : Nat) : State := writeSealed t x.world barn (physLoc (adr + 64 + o)) 8 v
    put (put (put t 0 ((imageWords x 0).getD 0 0).toNat) 8 x.pc) 112 (sleepLeft x.wait)

/-- CTX_SAVE (R288, R358): the context is stopped, and once it is at rest its lock is released and its image is in transfer; the image keeps the
stopped flag as it was before the command (log 17). -/
def execCtxSave (i : Nat) (n : BitVec 6) (adr : Nat) (s : State) : Out :=
  let ev : Instr := .ctxSave i n adr
  let c := 64 * i + n.toNat
  let x := s.ctx c
  if cmdIgnored s i ev then .next s
  else if x.state = .absent then .next (cmdError (s.did ev) i 4)
  else if (s.core i).moving.isNone && bound s c then .next (cmdError (s.did ev) i 3)
  else
    let m : Moving := match (s.core i).moving with
      | some m => m
      | none => { ctx := c, state := x.state, stopped := x.stopped, save := some adr }
    let t := (s.modCtx c fun y => { y with stopped := true }).modCore i fun k => { k with busy := true, moving := some m }
    match atRest t c with
    | none => .next (t.pushOnce ev)
    | some u =>
      let u := u.modCore i fun k => { k with moving := some { m with state := (u.ctx c).state } }
      .next (cmdDone ((releaseLock (u.did ev) c).modCtx c fun y => { y with state := .transfer }) i)

/-- Whether a window of a core keeps R7: its bounds, and no overlap with that of another resident context. -/
def windowFits (s : State) (i wbase wsize : Nat) : Bool :=
  1 ≤ wsize && wsize ≤ 16 && wbase % 8 = 0 && wbase + 8 * wsize ≤ Config.fileRegs &&
    (ctxsOfCore i).all fun c => (s.ctx c).state == .absent || !meets (s.ctx c).wbase (8 * (s.ctx c).wsize) wbase (8 * wsize)

/-- A fault record from its payload (R277, R290). -/
def recordFrom (v : Nat) : Record :=
  let f (lo n : Nat) : Nat := v / 2 ^ lo % 2 ^ n
  { addr := BitVec.ofNat 64 (f 320 64), progress := BitVec.ofNat 64 (f 256 64), codept := BitVec.ofNat 64 (f 192 64), insn := BitVec.ofNat 96 (f 96 96),
    detail := BitVec.ofNat 8 (f 48 8), code := BitVec.ofNat 8 (f 32 8), paired := f 24 1 == 1, inEvent := f 2 1 == 1, entry := f 1 1 == 1,
    late := f 0 1 == 1 }

/-- Where an image says that the record of its context stands (R290, log 17). -/
def imageRecord (s : State) (core adr : Nat) : Nat :=
  let w (o : Nat) : Word := BitVec.ofNat 64 (s.readLe (physLoc (adr + o)) 8)
  let slot := 48 * (w 184).toNat
  if (w 0).getLsbD 1 then barnLoc (barnOfCore core) (64 * ((w 24).extractLsb' 32 15).toNat + slot) else physLoc (adr / 2 ^ 16 * 2 ^ 16 + slot)

/-- The blocks of an image, with those of its record, are read: each has to verify (R336), and a poisoned one has no bytes to give (R333). -/
def imageRead (s : State) (core adr : Nat) : State × Bool :=
  let w (o : Nat) : Word := BitVec.ofNat 64 (s.readLe (physLoc (adr + o)) 8)
  let blocks := ((List.range (8 + ((w 0).extractLsb' 8 5).toNat)).map fun j => physLoc (adr + 64 * j))
    ++ (if (w 96).getLsbD 35 then (cutAt 64 (imageRecord s core adr) 48).map (·.1) else [])
  let t := blocks.foldl (fun t b => verify t ((w 8).extractLsb' 40 8) b false) s
  (t, !blocks.any (unreadable t))

/-- The context that a bind record and an image at an address describe (R290, R357, R358). `h` is what the image does not show (log 17). DESIGN CHOICE
(log 30): R6 leaves what a reserved bit of a record does to its table, and that of the bind record states nothing: such bits are ignored; unsafe. -/
def readImage (s : State) (core adr : Nat) (h : Ctx) : Ctx :=
  let w (o : Nat) : Word := BitVec.ofNat 64 (s.readLe (physLoc (adr + o)) 8)
  let st := w 0
  let bd := w 8
  let im (o : Nat) : Word := w (64 + o)
  let s0 := im 0
  let lf := (im 32).extractLsb' 32 32
  let f (v : Word) (lo n : Nat) : Nat := (v.extractLsb' lo n).toNat
  let sys := st.getLsbD 3
  let state := CtxState.ofCode (f s0 0 3)
  let latch : Option Latch :=
    if lf.getLsbD 0 then
      let l := h.latch.getD { word := 0, codept := f (im 8) 0 64, paired := false, replay := false, noWord := false, entry := none, ops := [] }
      some { l with word := BitVec.ofNat 96 (f (im 24) 0 64 + 2 ^ 64 * f (im 32) 0 32), replay := lf.getLsbD 1, paired := lf.getLsbD 2 }
    else none
  { h with
    state := state, stopped := s0.getLsbD 3, pc := f (im 8) 0 64, wbase := f bd 20 11, wsize := f st 8 5, prio := bd.extractLsb' 18 2,
    world := bd.extractLsb' 40 8, asid := bd.extractLsb' 48 16, pool := bd.extractLsb' 12 4, levels := f st 16 8, inEvent := s0.getLsbD 17,
    evtEn := s0.getLsbD 16, sys := sys, sup := st.getLsbD 2, actor := st.getLsbD 1, repro := st.getLsbD 0,
    lvl := Vector.ofFn fun i : Fin 8 => (w (32 + 8 * (i.val / 2))).extractLsb' (32 * (i.val % 2)) 32, faultRing := w 16,
    actorId := (w 24).extractLsb' 0 18, rank := (w 24).extractLsb' 18 6,
    k := Vector.ofFn fun i : Fin 16 =>
      Cap.ofBits (BitVec.ofNat 128 (s.readLe (physLoc (adr + 64 + 192 + 16 * i.val)) 16)) (vat Cap.null h.k i.val).stag,
    m := Vector.ofFn fun i : Fin 8 => if i.val = 0 then 0 else im (128 + 8 * (i.val - 1)), latch := latch, progress := im 16, timerCmp := im 56,
    evtVec := im 40, evtRet := im 48, events := BitVec.ofNat 6 (2 * f s0 8 5), ufc0 := im 64, ufc1 := im 72, lvt := im 80, floor := im 88,
    ckMask := (im 96).extractLsb' 0 16, seq := (im 104).extractLsb' 0 10,
    loft := { h.loft with base := 64 * f (w 24) 32 15, length := 64 * f (w 24) 48 15 },
    record := if lf.getLsbD 3 then some { recordFrom (s.readLe (imageRecord s core adr) 48) with value := (h.record.map (·.value)).getD false } else none,
    wait := if state ≠ .waiting then .none else match h.wait with
      | .recall .. => h.wait
      | _ => .sleep (if im 112 = 0 then none else some (im 112).toNat),
    launch := if sys then 0 else (s.barn (barnOfCore core)).launch, resident := (s.core core).rot, lastIssue := none }

/-- CTX_LOAD (R358): a context is created or re-homed; it takes the state that its image holds when the command ends. DESIGN CHOICE (log 30): R358 names no
error for an image that cannot be read (R333, R336); ERR is set with ERRCODE 0, and nothing is loaded; unsafe. -/
def execCtxLoad (i : Nat) (n : BitVec 6) (adr : Nat) (s : State) : Out :=
  let ev : Instr := .ctxLoad i n adr
  let c := 64 * i + n.toNat
  let t := (imageRead (s.did ev) i adr).1
  if cmdIgnored s i ev then .next s
  else if (s.ctx c).state ≠ .absent then .next (cmdError (s.did ev) i 1)
  else if !(imageRead s i adr).2 then .next (cmdError t i 0)
  else
    let x := readImage s i adr (mget Ctx.reset s.images adr)
    if !windowFits s i x.wbase x.wsize then .next (cmdError t i 2)
    else
      let u := (t.setCtx c { x with state := .transfer }).setRegsOf c 0 ((List.range (8 * x.wsize)).map fun j => BitVec.ofNat 64 (s.readLe (physLoc (adr + 64 + 448 + 8 * j)) 8))
      let u := if x.record.isSome then u.pushOnce (.faultRecordPost c) else u
      let u := renameCtx { u with images := mput Ctx.reset u.images adr Ctx.reset } i fun k => if namesImage adr k then c else k
      .next (cmdDone (u.modCore i fun k => { k with moving := some { ctx := c, state := x.state, stopped := x.stopped, save := none } }) i)

/-- A context becomes absent, and its capabilities leave its core with it (R303, R178). -/
def capsLeave (s : State) (c : Nat) : State := (s.ctx c).k.toList.foldl (fun t k => leavesCore t (coreOf c) k) (s.setCtx c Ctx.reset)

/-- CTX_RELEASE (R358). -/
def execCtxRelease (i : Nat) (n : BitVec 6) (s : State) : Out :=
  let ev : Instr := .ctxRelease i n
  let c := 64 * i + n.toNat
  let t := s.did ev
  if cmdIgnored s i ev then .next s
  else
    match (s.ctx c).state with
    | .absent => .next (cmdError t i 4)
    | .halted | .ended => .next (cmdDone (capsLeave t c) i)
    | _ => .next (cmdDone t i)

/-- The image of a command is in place (R290, R357, R358): a saved context is absent, and what names it names its image; a loaded one has the state
of its image. -/
def endTransfer (s : State) (i : Nat) (m : Moving) : State :=
  match (s.ctx m.ctx).state, m.save with
  | .transfer, some adr =>
    let t := writeImage (s.modCtx m.ctx fun y => { y with state := m.state, stopped := m.stopped }) m.ctx adr
    let t := (t.did (.sleepExpiry m.ctx)).did (.faultRecordPost m.ctx)
    renameCtx (capsLeave t m.ctx) i fun k => if k = m.ctx then evictedName k adr else k
  | .transfer, none => checkOver (s.modCtx m.ctx fun y => { y with state := m.state }) (s.ctx m.ctx).launch
  | _, _ => s

/-- CTX_CMD_COMPLETE (R358): BUSY clears. -/
def execCtxCmdComplete (i : Nat) (s : State) : Out :=
  let x := s.core i
  if !x.busy then .next s
  else
    let t := (s.did (.ctxCmdComplete i)).modCore i fun x => { x with busy := false, moving := none }
    .next (match x.moving with | some m => endTransfer t i m | none => t)

/-! Releases (R242, R327). -/

/-- The route of a released store: that of its actor, whose window is its launch's hitch (R242, R249). -/
def releaseRoute (s : State) (n c : Nat) (k : Cap) (addr : Nat) : Route :=
  match place (coreOf c) addr with
  | .window j off =>
    match hitchOf s n, s.launch? n with
    | some h, some l => if h.me == j then .here (sliceLoc l off) else .member j off
    | _, _ => .member j off
  | _ => routeOf s c k addr

/-- The released store of an actor at home at context `c`, kind 0 (R241, R242): performed, dropped as failed, or waiting. -/
def releaseStore (s : State) (n c : Nat) (d : Deferred) : Option State :=
  let addr := d.cap.base.toNat + d.off
  let v := ((d.words.head?).getD 0).toNat
  let asid := ((s.launch? n).map (·.asid.toNat)).getD 0
  let world := ((s.launch? n).map (·.world)).getD 0
  let at_ (loc : Nat) (shared : Bool) : Option State :=
    let t := verify s world loc shared
    let reaches := !isSram loc || locBarn loc == barnOf c || (s.barn (locBarn loc)).world == world
    if !reaches || s.blockStashed loc || unreadable t loc then some (dropRelease t n)
    else if lockedAny s loc 8 || pinnedSource s [(loc, 8)] then none
    else
      let u := storeAt t loc 8 v
      some (releaseDone (if shared then u else reseal u world loc) n)
  match releaseRoute s n c d.cap addr with
  | .here loc => at_ loc false
  | .xlat va =>
    match cachedLeaf s (barnOf c) asid va true with
    | some l => at_ (leafLoc s d.cap addr l va) l.shared
    | none => some (s.pushOnce (.translationMiss (Source.release n).num))
  | .member j off =>
    match hitchOf s n with
    | none => some (dropRelease s n)
    | some h =>
      if h.memberOf j == .gone || h.attachOf j == .detached || h.attachOf j == .joining then some (dropRelease s n)
      else
        let p := primPacket (packetTo s h j (srcField (coreOf c) (numOf c))) off none (.write 8 v)
        some { sendPacket s p with txs := s.txs ++ [(s.stamp % 2 ^ 14, .release n, j)], stamp := s.stamp + 1 }

/-- The message of a released send, kind 1 (R241); one to the port of the own member that has left fails (R242, R449). -/
def releaseSend (s : State) (n c : Nat) (d : Deferred) : State :=
  let payload := BitVec.ofNat 384 (packLanes 64 (d.words.map (·.toNat)))
  let own := match hitchOf s n with | some h => h.me == (d.cap.base.toNat - 2 ^ 47) / 2 ^ 40 | none => false
  let port := if 2 ^ 47 ≤ d.cap.base.toNat && !own then d.cap.base.toNat else portOf d.cap
  if goneEnd s n d.cap then dropRelease s n else emit s { Msg.plain .untimed c port with tag := d.cap.stag, len := d.len, payload := payload, launch := n, defer_ := true }

/-- A notification record (R416, R417). -/
def notification (n : Nat) (d : Deferred) : CRecord :=
  { kind := 4, status := 0, res := 0, tag := 0, launch := n, d0 := d.words.getD 0 0, d1 := d.words.getD 1 0 }

/-- Whether a completion ring is full, though its host may have read from it (R417). -/
def ringFull (s : State) (q : Nat) : Bool :=
  let x := s.queue q
  decide (2 ^ (x.csize.toNat + 6) ≤ x.unread) && decide (2 ^ (x.csize.toNat + 6) ≤ x.unread - min x.unread (Config.hostReads s.free))

/-- Whether the target of a released action is away with its launch's paddock (R242, R291). -/
def releaseAway (l : Launch) (d : Deferred) : Bool :=
  l.stage == .saved && (match d.kind with
    | 0 => decide (d.cap.base.toNat < 2 ^ 46)
    | 1 => l.savedRings.any (·.1 == portOf d.cap)
    | _ => false)

/-- A completion record is handed to its queue's service core (R417). -/
def postRecord (s : State) (q : Nat) (r : CRecord) : State :=
  let x := s.queue q
  (s.setQueue q { x with waiting := x.waiting ++ [r] }).pushOnce (.completionRecord q)

/-- DEFERRED_RELEASE (R242, R327): the first released action of a launch is performed at its target, once the earlier accesses of its actor are
performed; it waits for a full ring or queue, or fails and is dropped. -/
def execDeferredRelease (n : Nat) (s : State) : Out :=
  let t := s.did (.deferredRelease n)
  match s.launch? n with
  | none => .next s
  | some l =>
    match l.releases with
    | [] => .next t
    | (c, d) :: _ =>
      let out := (s.msgs.any fun m => m.launch == n && m.defer_) || (s.txs.any fun x => x.2.1 == .release n) || requestParked s (.release n)
      if out || releaseAway l d || !earlierDone s c d.order then .next s
      else
        match d.kind with
        | 0 => .next ((releaseStore t n (homeOf c) d).getD s)
        | 1 => .next (releaseSend t n (homeOf c) d)
        | _ => if (s.queue d.off).waiting.isEmpty && !ringFull s d.off then .next (releaseDone (postRecord t d.off (notification n d)) n) else .next s

end Sys2Proof.Machine
end

