-- ==== Sys2Proof/Machine/Launch.lean ====
section
/-! DEFINITION. Launch records and the placement of a launch (R48 to R53, R349 to R359, R397, R402 to R404, R442, R447). Where the scheduler
puts what it makes is its own choice (log 18). -/

namespace Sys2Proof.Machine

/-! Launch records (R352 to R354). -/

/-- `n` bytes at a byte offset of a record. -/
def field (r off n : Nat) : Nat := r / 2 ^ (8 * off) % 2 ^ (8 * n)
/-- Bits of a number. -/
def bitsOf (v lo n : Nat) : Nat := v / 2 ^ lo % 2 ^ n

/-- A record that breaks its layout: it has no level, so it is refused (R350). -/
def LaunchRec.bad : LaunchRec :=
  { repro := false, actor := false, wsize := 0, prio := 0, pinned := 0, kregs := 0, code := 0, codeLen := 0, entry := 0, supEntry := 0,
    grace := 0, data := 0, dataLen := 0, loftLen := 0, hitch := 0, levels := [], init := [] }

/-- A level entry (R353). -/
def levelAt (r i : Nat) : Level :=
  let o := 64 + 16 * i
  { domain := bitsOf (field r o 1) 0 4, skreg := bitsOf (field r o 1) 4 4, countX := field r (o + 2) 2, countY := field r (o + 4) 2,
    scope := field r (o + 8) 8 }
def levelClean (r i : Nat) : Bool := field r (64 + 16 * i + 1) 1 == 0 && field r (64 + 16 * i + 6) 2 == 0

/-- An initialisation entry (R354): register and value. -/
def initAt (r levels j : Nat) : Nat × Word :=
  let o := 64 + 16 * levels + 16 * j
  (bitsOf (field r o 1) 0 7, BitVec.ofNat 64 (field r (o + 8) 8))
def initClean (r levels j : Nat) : Bool :=
  let o := 64 + 16 * levels + 16 * j
  bitsOf (field r o 1) 7 1 == 0 && field r (o + 1) 7 == 0

/-- Bytes that a record takes, by its header. -/
def recordBytes (r : Nat) : Nat := 64 + 16 * field r 1 1 + 16 * field r 7 1

/-- A launch record from its bytes as a little-endian number (R352 to R354). -/
def parseRecord (r : Nat) : LaunchRec :=
  let n := field r 1 1
  let m := field r 7 1
  let h := field r 48 8
  let clean := field r 0 1 == 1 && bitsOf (field r 2 1) 2 6 == 0 && bitsOf (field r 4 1) 2 6 == 0 && field r 56 8 == 0
    && bitsOf h 39 1 == 0 && bitsOf h 47 17 == 0 && (List.range n).all (levelClean r) && (List.range m).all (initClean r n)
  if !clean then LaunchRec.bad
  else
    { repro := (field r 2 1).testBit 0, actor := (field r 2 1).testBit 1, wsize := field r 3 1, prio := BitVec.ofNat 2 (field r 4 1),
      pinned := field r 5 1, kregs := BitVec.ofNat 8 (field r 6 1), code := field r 8 8, codeLen := field r 16 4, entry := field r 20 4,
      supEntry := field r 24 4, grace := field r 28 4, data := field r 32 8, dataLen := field r 40 4, loftLen := field r 44 4,
      hitch := BitVec.ofNat 64 h, levels := (List.range n).map (levelAt r), init := (List.range m).map (initAt r n) }

namespace LaunchRec

/-- Registers that roles name (R352): the supervisor's fault ring, and the data buffer of the lead context. -/
def supReg (d : LaunchRec) : Nat := (d.kregs.extractLsb' 0 4).toNat
def dataReg (d : LaunchRec) : Nat := (d.kregs.extractLsb' 4 4).toNat
/-- The HITCH field. -/
def hitched (d : LaunchRec) : Bool := match d.levels with | l :: _ => l.domain == 6 | [] => false
def hitchId (d : LaunchRec) : Nat := (d.hitch.extractLsb' 0 32).toNat
def member (d : LaunchRec) : Nat := (d.hitch.extractLsb' 32 7).toNat
def members (d : LaunchRec) : Nat := (d.hitch.extractLsb' 40 7).toNat + 1

end LaunchRec

/-- The rectangle that levels take, in barns (R351): a package level takes the whole mesh, and more than there is where the levels inside it do not
fit (R350). -/
def dims : List Level → Nat × Nat
  | [] => (1, 1)
  | l :: r =>
    let (w, h) := dims r
    match l.domain with
    | 6 => (w, h)
    | 5 => (max 32 w, max 32 h)
    | 4 => if l.countX ≤ 1 then (16, 16) else if l.countX = 2 then (32, 16) else (32, 32)
    | 3 | 2 => (l.countX * w, l.countY * h)
    | _ => (1, 1)

/-- Whether the levels inside a yard level fit one yard (R350). -/
def yardsFit : List Level → Bool
  | [] => true
  | l :: r => (l.domain ≠ 4 || ((dims r).1 ≤ 16 && (dims r).2 ≤ 16)) && yardsFit r

/-- The order of the domains (R49). -/
def ranksOk : List Level → Bool
  | [] => false
  | [l] => l.domain == 0
  | a :: b :: r => a.domain ≤ 6 && (b.domain < a.domain || (a.domain == 3 && b.domain == 3)) && ranksOk (b :: r)

/-- The counts and the scope of a level (R353). -/
def levelOk (d : LaunchRec) (l : Level) : Bool :=
  1 ≤ l.countX && 1 ≤ l.countY && (l.countY == 1 || l.domain == 2 || l.domain == 3) && l.scope % 64 == 0
    && (match l.domain with
        | 6 => l.countX == d.members && d.member < d.members
        | 5 => l.countX == 1
        | 4 => l.countX ≤ 4
        | 1 => l.countX ≤ 4
        | _ => true)

/-- Launch contexts of one core: the count of the context level (R353). -/
def ctxsPerCore (d : LaunchRec) : Nat := ((d.levels.getLast?).map fun l => l.countX * l.countY).getD 0

/-- The registers that roles name for the lead context; a data register counts when the launch has a data image or a region. -/
def leadRegs (d : LaunchRec) (data : Bool) : List Nat :=
  ((d.levels.filter (·.scope ≠ 0)).map (·.skreg)) ++ (if data then [d.dataReg] else [])

/-- The registers that a launch record may not name (R353, R397, R442, R447). -/
def regsOk (d : LaunchRec) (data : Bool) : Bool :=
  let named := (d.levels.map (·.skreg)) ++ [d.dataReg]
  (leadRegs d data).Nodup && !(leadRegs d data).contains 15 && !(d.levels.any (·.skreg == 15)) && d.supReg ≠ 15 && !named.contains 12
    && (!d.actor || !(named.contains 10 || named.contains 11 || d.supReg == 10 || d.supReg == 11))
    && (!d.hitched || !(named.contains 13 || named.contains 14))

/-- The limits of the launch record tables (R352 to R354). -/
def limitsOk (d : LaunchRec) : Bool :=
  1 ≤ d.levels.length && d.levels.length ≤ 8 && 1 ≤ d.wsize && d.wsize ≤ 16 && d.pinned ≤ 14 && d.init.length ≤ 64
    && d.init.all (fun p => p.1 < 8 * d.wsize) && d.code % 64 == 0 && d.codeLen % 64 == 0 && d.codeLen ≠ 0 && d.data % 64 == 0
    && d.dataLen % 64 == 0 && (d.dataLen ≠ 0 || d.data == 0) && d.loftLen % 64 == 0 && (d.actor || d.loftLen == 0)
    && (d.hitched || d.hitch == 0) && ctxsPerCore d ≤ 61 && (ctxsPerCore d + 1) * 8 * d.wsize ≤ 1984

/-- The checks of R350. -/
def recordOk (d : LaunchRec) (data : Bool) : Bool :=
  limitsOk d && ranksOk d.levels && d.levels.all (levelOk d) && yardsFit d.levels && decide ((dims d.levels).1 ≤ 32)
    && decide ((dims d.levels).2 ≤ 32) && regsOk d data

/-! Contexts and where they run (R53, R273, R351). -/

/-- A launch context: its index at every level, its barn within the paddock, and its core. -/
structure Site where
  idx : List Nat
  x : Nat
  y : Nat
  core : Nat
  deriving DecidableEq, Repr

/-- The instances of a level: index, and displacement by barns and by cores. -/
def instances (l : Level) (w h member : Nat) : List (Nat × Nat × Nat × Nat) :=
  match l.domain with
  | 6 => [(member, 0, 0, 0)]
  | 4 => (List.range l.countX).map fun i => (i, 16 * (i % 2), 16 * (i / 2), 0)
  | 3 | 2 => (List.range (l.countX * l.countY)).map fun i => (i, i % l.countX * w, i / l.countX * h, 0)
  | 1 => (List.range l.countX).map fun i => (i, 0, 0, i)
  | 0 => (List.range l.countX).map fun i => (i, 0, 0, 0)
  | _ => [(0, 0, 0, 0)]

/-- The contexts of a launch in launch-coordinate order. -/
def sites (member : Nat) : List Level → List Site
  | [] => [{ idx := [], x := 0, y := 0, core := 0 }]
  | l :: r =>
    ((instances l (dims r).1 (dims r).2 member).map fun p =>
      (sites member r).map fun t => { idx := p.1 :: t.idx, x := t.x + p.2.1, y := t.y + p.2.2.1, core := t.core + p.2.2.2 }).flatten

/-- The launch index (R442). -/
def launchIndex (levels : List Level) (idx : List Nat) : Nat :=
  (levels.zip idx).foldl (fun a p => a * (p.1.countX * p.1.countY) + p.2) 0

/-- Whether a context is the lead context of its instance of level `i` (R51). -/
def leadAt (t : Site) (i : Nat) : Bool := (t.idx.drop (i + 1)).all (· == 0)
/-- Whether a context is the lead context of its launch; the index of a hitch level is the member number. -/
def leadOf (d : LaunchRec) (t : Site) : Bool := if d.hitched then (t.idx.drop 1).all (· == 0) else t.idx.all (· == 0)

/-- A launch as it is laid out: its record, its number, the paddock's corner, its contexts, and the base of its virtual addresses. -/
structure Plan where
  d : LaunchRec
  n : Nat
  x : Nat
  y : Nat
  sites : List Site
  codeVa : Nat

def Plan.width (p : Plan) : Nat := (dims p.d.levels).1
def Plan.height (p : Plan) : Nat := (dims p.d.levels).2
def Plan.coreOf (p : Plan) (t : Site) : Nat := 4 * barnAt (p.x + t.x) (p.y + t.y) + t.core
/-- The cores on which the launch has contexts, and the contexts of one of them in rank order (R52, R273). -/
def Plan.cores (p : Plan) : List Nat := (p.sites.map p.coreOf).eraseDups
def Plan.onCore (p : Plan) (i : Nat) : List Site := p.sites.filter fun t => p.coreOf t == i
/-- The number of a context on its core, from 1 (R356). -/
def Plan.number (p : Plan) (t : Site) : Nat := 1 + (p.onCore (p.coreOf t)).idxOf t
def Plan.key (p : Plan) (t : Site) : Nat := 64 * p.coreOf t + p.number t
def Plan.lead (p : Plan) : Site := (p.sites.find? (leadOf p.d)).getD { idx := [], x := 0, y := 0, core := 0 }
/-- The barns of the paddock in row-major order. -/
def Plan.barns (p : Plan) : List Nat :=
  ((List.range p.height).map fun y => (List.range p.width).map fun x => barnAt (p.x + x) (p.y + y)).flatten

/-- The plan of a launch at a corner. -/
def planOf (d : LaunchRec) (n x y codeVa : Nat) : Plan := { d := d, n := n, x := x, y := y, sites := sites d.member d.levels, codeVa := codeVa }

/-! Where the scheduler puts what it makes (log 18). -/

/-- Rounds up to whole blocks, and to whole granules. -/
def upBlock (n : Nat) : Nat := (n + 63) / 64 * 64
def upPage (n : Nat) : Nat := (n + 65535) / 65536 * 65536

/-- What the scheduler makes in a memory. -/
inductive Piece where
  | faultRing (core : Nat)
  | launchRing
  | timedRing (t : Site)
  | peers (t : Site)
  | scope (i : Nat) (t : Site)
  | loft (t : Site)
  | hitchPort
  | code (barn : Nat)
  deriving DecidableEq, Repr

/-- Bytes of a ring of `n` slots (R226). -/
def ringBytes (n : Nat) : Nat := upBlock (64 + 80 * n)

/-- Bytes that a piece takes. -/
def Plan.size (p : Plan) : Piece → Nat
  | .faultRing i => ringBytes ((p.onCore i).length + 1)
  | .launchRing => ringBytes (min p.sites.length 4096)
  | .timedRing _ => 5184
  | .peers _ => upBlock (16 * p.sites.length)
  | .scope i _ => (p.d.levels.getD i { domain := 0, skreg := 0, countX := 0, countY := 0, scope := 0 }).scope
  | .loft _ => p.d.loftLen
  | .hitchPort => ringBytes 64
  | .code _ => p.d.codeLen

/-- The scopes of levels of some domains whose lead contexts satisfy a predicate. -/
def Plan.scopes (p : Plan) (domains : List Nat) (q : Site → Bool) : List Piece :=
  (((List.range p.d.levels.length).zip p.d.levels).filter fun l => domains.contains l.2.domain && l.2.scope ≠ 0).map (fun l =>
    (p.sites.filter fun t => leadAt t l.1 && q t).map fun t => Piece.scope l.1 t) |>.flatten

/-- The pieces of a core's memory, of a barn's memory, and of translated memory, in the order of their addresses. -/
def Plan.corePieces (p : Plan) (i : Nat) : List Piece :=
  let here := p.onCore i
  p.scopes [0, 1] (fun t => p.coreOf t == i) ++ (if p.coreOf p.lead = i then [.launchRing] else [])
    ++ (if p.d.actor then here.map .timedRing ++ here.map .peers else []) ++ [.faultRing i]
def Plan.barnPieces (p : Plan) (b : Nat) : List Piece :=
  p.scopes [2, 3] (fun t => barnOfCore (p.coreOf t) == b) ++ (if p.d.hitched && barnAt p.x p.y = b then [.hitchPort] else [])
    ++ (if p.d.actor then (p.sites.filter fun t => barnOfCore (p.coreOf t) == b).map .loft else [])
def Plan.virtPieces (p : Plan) : List Piece :=
  p.barns.map .code ++ p.scopes [4, 5] (fun _ => true)
/-- Whether a piece is a scope. -/
def Piece.isScope : Piece → Bool
  | .scope _ _ => true
  | _ => false

/-- The offset of a piece among the pieces that start at `o`, and where they end; `up` rounds a size. -/
def offsetIn (p : Plan) (up : Nat → Nat) (q : Piece) : List Piece → Nat → Nat
  | [], o => o
  | x :: xs, o => if x = q then o else offsetIn p up q xs (o + up (p.size x))
def endOf (p : Plan) (up : Nat → Nat) (xs : List Piece) (o : Nat) : Nat := xs.foldl (fun o x => o + up (p.size x)) o

/-- The pieces of a core's memory start in its shared half when they fit there, and otherwise where the tenant's part starts. -/
def Plan.coreStart (p : Plan) (i : Nat) : Nat :=
  if endOf p upBlock (p.corePieces i) 0x40000 ≤ Config.coreBytes then 0x40000 else Config.worldZeroPart
def Plan.coreOff (p : Plan) (i : Nat) (q : Piece) : Nat := offsetIn p upBlock q (p.corePieces i) (p.coreStart i)
def Plan.barnOff (p : Plan) (b : Nat) (q : Piece) : Nat := offsetIn p upBlock q (p.barnPieces b) 0
/-- Code copies lie where the firmware puts them (R355); scopes lie where every launch has them (log 18). -/
def Plan.virtOff (p : Plan) (q : Piece) : Nat :=
  offsetIn p upPage q (p.virtPieces.filter fun x => x.isScope == q.isScope) (if q.isScope then Config.scopeVa else p.codeVa)
/-- The ranges of translated memory that a launch takes. -/
def Plan.virtRanges (p : Plan) : List (Nat × Nat) := p.virtPieces.map fun q => (p.virtOff q, upPage (p.size q))

/-- Whether everything fits its memory: the tenant's part of core memory (R40), barn memory below the receive pool (R371) or the slice
(R403). -/
def Plan.fits (p : Plan) : Bool :=
  (p.cores.all fun i => endOf p upBlock (p.corePieces i) Config.worldZeroPart ≤ Config.coreBytes)
    && (p.barns.all fun b => endOf p upBlock (p.barnPieces b) 0 ≤ if p.d.hitched then 0x100000 else Config.poolBase)

/-- The barns of a paddock are free, not retired, and lie where R50 asks (R351, R431), and the windows of a core's launch leave room beside those of
its system contexts (R7). -/
def Plan.free (p : Plan) (s : State) : Bool :=
  p.x + p.width ≤ 32 && p.y + p.height ≤ 32
    && (!(p.d.levels.any fun l => l.domain == 4 || l.domain == 5) || (p.x % 16 == 0 && p.y % 16 == 0))
    && (p.barns.all fun b => !(s.barn b).retired && (s.barn b).launch == 0)
    && p.cores.all fun i => [62, 63].all fun m =>
      let x := s.ctx (64 * i + m)
      x.state == .absent || !meets x.wbase (8 * x.wsize) 0 (8 * p.d.wsize * ((p.onCore i).length + 1))

/-- The translated memory of a launch is free: no launch of its ASID that is not closed holds a part of it, and its code copies lie beside its
scopes. -/
def Plan.freeVirt (p : Plan) (s : State) (asid : BitVec 16) : Bool :=
  let mine := p.virtRanges
  let held := ((s.launches.filter fun x => x.1 ≠ p.n && x.2.stage ≠ .closed && x.2.asid == asid).map fun x => x.2.buffers.map fun b => (b.1, upPage b.2)).flatten
  let (scopes, codes) := mine.partition fun r => Config.scopeVa ≤ r.1
  !touches held mine && !touches scopes codes && codes.length == p.barns.length

/-! Translated memory as the firmware and the service cores reach it. -/

/-- The location of a virtual byte of a world, at the stations of a yard, and whether its page is shared (R339 to R341). -/
def virtAt (s : State) (yard asid : Nat) (world : BitVec 8) (va : Nat) (write : Bool) : Option (Nat × Bool) :=
  match walk s (s.station (8 * yard)).root asid va world write with
  | .ok l =>
    let loc := physLoc (l.pa + (va - l.va))
    if (unreadable s loc || (!l.shared && badSeal s world loc)) && !write then none else some (loc, l.shared)
  | .error _ => none

/-- The location of a virtual byte of a world. -/
def virtLoc (s : State) (yard asid : Nat) (world : BitVec 8) (va : Nat) (write : Bool) : Option Nat := (virtAt s yard asid world va write).map (·.1)

/-- `n` bytes of a world from a virtual address, as a number; none where one cannot be read. -/
def virtRead (s : State) (yard asid : Nat) (world : BitVec 8) (va : Nat) : Nat → Option (List Byte)
  | 0 => some []
  | n + 1 => do
    let loc ← virtLoc s yard asid world va false
    let rest ← virtRead s yard asid world (va + 1) n
    pure (s.readByte loc :: rest)

/-- The block tag at a virtual address. -/
def virtTag (s : State) (yard asid : Nat) (world : BitVec 8) (va : Nat) : BitVec 16 :=
  match virtLoc s yard asid world va false with | some loc => s.tag loc | none => 0

/-- Writes a whole block, bytes and tag, sealed for the world unless its page is shared (R333, R336, R338); a withdrawn extent takes no write (R421). -/
def wholeBlock (s : State) (world : BitVec 8) (loc : Nat) (shared : Bool) (v : Nat) (t : BitVec 16) : State :=
  if withdrawn s loc then s
  else
    let u := blockAt (zeroSlots s loc 64) loc v t
    if shared then u else reseal u world loc

/-- Writes whole blocks from a virtual address. None where one is not mapped for writes, or a shared page is to hold a tag (R338). -/
def virtBlocks (s : State) (yard asid : Nat) (world : BitVec 8) (va : Nat) : List (Nat × BitVec 16) → Option State
  | [] => some s
  | (v, t) :: r =>
    match virtAt s yard asid world va true with
    | some (loc, shared) => if shared && t ≠ 0 then none else virtBlocks (wholeBlock s world loc shared v t) yard asid world (va + 64) r
    | none => none

/-- The blocks of an image: bytes and tags (R112). -/
def imageBlocks (s : State) (yard asid : Nat) (world : BitVec 8) (va len : Nat) : Option (List (Nat × BitVec 16)) :=
  (List.range (len / 64)).mapM fun i =>
    (virtRead s yard asid world (va + 64 * i) 64).map fun bs => (bytesLe bs, virtTag s yard asid world (va + 64 * i))

/-! Making a launch. -/

/-- A barn of a paddock is put in the state of R351, and assigned; the part of world 0 keeps its contents (R40). Its slot tables name no launch
context, so none issues before its own table takes effect (R17, R358). -/
def clearBarn (s : State) (b : Nat) (world : BitVec 8) (launch : Nat) : State :=
  let mine (loc : Nat) : Bool := isSram loc && locBarn loc == b && !(isCoreMem loc && locOff loc < Config.worldZeroPart)
  let t := { s with
    mem := s.mem.filter fun c => !mine c.1, tags := s.tags.filter fun c => !mine (64 * c.1), slots := s.slots.filter fun c => !mine (16 * c.1),
    poison := s.poison.filter fun c => !mine (64 * c.1), rings := s.rings.filter fun r => !mine r.1,
    tiles := s.tiles.filter fun c => c.1 / (8 * 32 * 256) ≠ b,
    regs := s.regs.filter fun r => !(r.1 / Config.fileRegs / 4 == b && r.1 % Config.fileRegs < 1984),
    ctxs := s.ctxs.filter fun p => !(barnOf p.1 == b && numOf p.1 < 62) }
  let t := (coresOfBarn b).foldl (fun t i => t.modCore i fun x => { x with
    slots := x.slots.map fun e => if slotMode e ≠ 0 && slotCtx e < 62 then 0 else e, commit := none, committing := [],
    queues := Core.reset.queues, boxes := Core.reset.boxes, served := [], chans := Core.reset.chans, gates := Core.reset.gates, locks := [],
    vents := [], tents := [], lines := [], posted := 0 }) t
  t.modBarn b fun x => { x with
    world := world, launch := launch, tileLock := Barn.reset.tileLock, tileClaim := Barn.reset.tileClaim, tileWait := Barn.reset.tileWait,
    pool := [], landing := [] }

/-- A ring that the scheduler makes: its receive end has generation 1 (R226, R274, R442, R447). -/
def makeRing (s : State) (loc cells bytes owner launch : Nat) (world : BitVec 8) (timed fault : Bool) (issued : Nat) : State :=
  s.setRing loc
    { Ring.reset with
      live := true, timed := timed, cells := cells, origin := loc, gen := 1, world := world, saved := 0x3B, length := bytes,
      reserve := 32768 - issued, issued := issued, owner := owner, launch := launch, fault := fault }
def receiveEnd (loc bytes : Nat) (world : BitVec 8) : Cap :=
  { Cap.null with world := world, gen := 1, count := 32768, kind := 4, rights := 0x11, length := BitVec.ofNat 32 (bytes - 64),
                  base := BitVec.ofNat 48 (loc + 64) }
def sendEnd (base : Nat) (world : BitVec 8) (tag : Nat) : Cap :=
  { Cap.null with world := world, gen := 1, count := 1, kind := 4, rights := 0x10, length := 64, base := BitVec.ofNat 48 base,
                  stag := BitVec.ofNat 16 tag }
/-- A whole owned buffer with the rights of R442 or R447. DESIGN CHOICE (log 28): R353 sets no limit to SCOPE, and the length of R26 has 32 bits; a
scope of 2^32 bytes or more gets a capability of its length modulo 2^32; unsafe. -/
def ownedCap (actor : Bool) (base len : Nat) (world : BitVec 8) : Cap :=
  { Cap.null with world := world, count := 32768, kind := 1, rights := if actor then 0x7B else 0x3B, length := BitVec.ofNat 32 len,
                  base := BitVec.ofNat 48 base }
/-- The execute fraction of a code copy (R355). -/
def codeCap (p : Plan) (barn : Nat) (world : BitVec 8) : Cap :=
  { Cap.null with world := world, count := 128, kind := 5, rights := 0x05, length := BitVec.ofNat 32 p.d.codeLen,
                  base := BitVec.ofNat 48 (2 ^ 46 + p.virtOff (.code barn)) }

/-- The base of a scope buffer (R48). -/
def Plan.scopeBase (p : Plan) (i : Nat) (t : Site) : Nat :=
  let b := barnOfCore (p.coreOf t)
  match (p.d.levels.getD i { domain := 0, skreg := 0, countX := 0, countY := 0, scope := 0 }).domain with
  | 0 | 1 => p.coreOff (p.coreOf t) (.scope i t)
  | 2 => 0x1000000 + p.barnOff b (.scope i t)
  | 3 => barnLoc b (p.barnOff b (.scope i t))
  | _ => 2 ^ 46 + p.virtOff (.scope i t)

/-- The window capability of a member (R404). -/
def windowCap (gen : BitVec 12) (scope : Nat) (world : BitVec 8) : Cap :=
  { Cap.null with world := world, gen := gen, count := 32768, kind := 6, rights := 0x3B, length := BitVec.ofNat 32 scope, base := BitVec.ofNat 48 (2 ^ 47) }

/-- LVLi of a launch context, and of a supervisor (R53, R356, R449). -/
def lvlOf (d : LaunchRec) (idx : List Nat) (sup : Bool) : Vector (BitVec 32) 8 :=
  Vector.ofFn fun i : Fin 8 =>
    match d.levels[i.val]?, idx[i.val]? with
    | some l, some n => BitVec.ofNat 32 (l.countX * l.countY % 65536 * 65536 + if sup && i.val + 1 == d.levels.length then 0xFFFF else n % 65536)
    | _, _ => 0

/-- The actor identifier of a context (R39, R400). -/
def actorIdOf (p : Plan) (t : Site) : Nat := (if p.d.hitched then p.d.member * 2048 else 0) + p.sites.idxOf t

/-- The sender tag of a context on the launch ring (R442). -/
def senderTag (p : Plan) (t : Site) : Nat := launchIndex p.d.levels t.idx

/-- The location of the launch ring and of a timed ring. -/
def Plan.launchRingLoc (p : Plan) : Nat := coreLoc (p.coreOf p.lead) (p.coreOff (p.coreOf p.lead) .launchRing)
def Plan.timedRingLoc (p : Plan) (t : Site) : Nat := coreLoc (p.coreOf t) (p.coreOff (p.coreOf t) (.timedRing t))
def Plan.hitchPortLoc (p : Plan) : Nat := barnLoc (barnAt p.x p.y) (p.barnOff (barnAt p.x p.y) .hitchPort)

/-- The hitch-form send end in the lead context's k13 (R397, R449). -/
def hitchEnd (p : Plan) (world : BitVec 8) : Cap :=
  let j := (p.d.member + 1) % p.d.members
  let off := if j = p.d.member then p.hitchPortLoc % 2 ^ 40 else Config.memberPort p.d.hitchId j % 2 ^ 40
  sendEnd (2 ^ 47 + j * 2 ^ 40 + off) world p.d.member

/-- The capability registers of a launch context at start (R355, R397, R404, R442, R447). `region` is the exported region, if any. -/
def startCaps (p : Plan) (world : BitVec 8) (gen : BitVec 12) (region : Option Cap) (t : Site) : Vector Cap 16 :=
  let d := p.d
  let lead := leadOf d t
  let k := vset (Vector.replicate 16 Cap.null) 15 (codeCap p (barnOfCore (p.coreOf t)) world)
  let k := ((List.range d.levels.length).zip d.levels).foldl (fun k l =>
    if l.2.domain = 6 then (if lead && l.2.scope ≠ 0 then vset k l.2.skreg (windowCap gen l.2.scope world) else k)
    else if l.2.scope ≠ 0 && leadAt t l.1 then vset k l.2.skreg (ownedCap d.actor (p.scopeBase l.1 t) l.2.scope world) else k) k
  let k := if lead && d.dataLen ≠ 0 then vset k d.dataReg (ownedCap d.actor (2 ^ 46 + d.data) d.dataLen world)
    else match region with | some r => if lead then vset k d.dataReg r else k | none => k
  let k := if lead then vset k 12 (receiveEnd p.launchRingLoc (p.size .launchRing) world)
    else vset k 12 (sendEnd p.launchRingLoc world (senderTag p t))
  let k := if d.hitched && lead then
      vset (vset k 14 (receiveEnd p.hitchPortLoc (p.size .hitchPort) world)) 13 (hitchEnd p world) else k
  if d.actor then
    vset (vset k 10 (receiveEnd (p.timedRingLoc t) 5184 world)) 11
      { ownedCap true (p.coreOff (p.coreOf t) (.peers t)) (16 * p.sites.length) world with rights := 0x43 }
  else k

/-- The port of the fault ring of the world-0 system context of a core (R52, R275, log 18). -/
def systemRing (i : Nat) : Nat := coreLoc i 0
def faultRingLoc (p : Plan) (i : Nat) : Nat := coreLoc i (p.coreOff i (.faultRing i))

/-- A launch context as it is created (R355 to R358). -/
def launchCtx (p : Plan) (s : State) (world : BitVec 8) (asid : BitVec 16) (k : Vector Cap 16) (t : Site) : Ctx :=
  let d := p.d
  let i := p.coreOf t
  let m := p.number t
  { Ctx.reset with
    state := .ready, stopped := true, pc := d.entry, wbase := 8 * d.wsize * m, wsize := d.wsize, prio := d.prio, world := world, asid := asid,
    pool := if m ≤ d.pinned then 0xF else 0, levels := d.levels.length, actor := d.actor, repro := d.repro, lvl := lvlOf d t.idx false,
    faultRing := BitVec.ofNat 64 (faultRingLoc p i), actorId := BitVec.ofNat 18 (actorIdOf p t), rank := BitVec.ofNat 6 m, k := k,
    loft := { Loft.empty with base := p.barnOff (barnOfCore i) (.loft t), length := d.loftLen }, launch := p.n, resident := (s.core i).rot }

/-- The supervisor of a core (R52, R274, R355, R356). -/
def supervisorCtx (p : Plan) (s : State) (world : BitVec 8) (asid : BitVec 16) (i : Nat) : Ctx :=
  let d := p.d
  let k := vset (Vector.replicate 16 Cap.null) 15 (codeCap p (barnOfCore i) world)
  let k := vset k d.supReg (receiveEnd (faultRingLoc p i) (p.size (.faultRing i)) world)
  { Ctx.reset with
    state := .ready, stopped := true, pc := d.supEntry, wbase := 0, wsize := d.wsize, prio := d.prio, world := world, asid := asid, pool := 0,
    levels := d.levels.length, sup := true, repro := d.repro, lvl := lvlOf d (((p.onCore i).head?.map (·.idx)).getD []) true,
    faultRing := BitVec.ofNat 64 (systemRing i), k := k, launch := p.n, resident := (s.core i).rot }

/-- A system context of a core (R22, R52, R356): the service code that it runs is not in the spec, and it waits (log 18). -/
def systemCtx (s : State) (i m : Nat) : Ctx :=
  { Ctx.reset with
    state := .waiting, wait := .sleep none, wbase := 1984 + 32 * (m - 62), wsize := 4, pool := 3, sys := true, resident := (s.core i).rot }
/-- The system contexts of every core (R22, R52, R356). -/
def systemCtxs (s : State) : Map Ctx :=
  ((List.range (4 * Config.barns)).map fun i => [(64 * i + 62, systemCtx s i 62), (64 * i + 63, systemCtx s i 63)]).flatten
/-- The fault rings of the system contexts of every core (R52, R275), by rising port. -/
def systemRings : Map Ring :=
  ((List.range 32).map fun x => ((List.range 32).map fun y => (List.range 4).map fun c =>
    let i := 4 * barnAt x y + c
    (systemRing i, { Ring.reset with
      live := true, cells := 62, origin := systemRing i, gen := 1, saved := 0x3B, length := ringBytes 62, reserve := 32768, owner := 64 * i + 62, fault := true })).flatten).flatten
/-- The system contexts become resident on every core, with their rings, and every register holds zero (R9, log 18). -/
def startSystem (s : State) : State := { s with ctxs := systemCtxs s, rings := systemRings, regs := [] }

/-- The slot table that the shipped firmware writes (R359): pinned contexts, a floating position for each member of pool 0 that is left, and
position 15 for a resident system context. DESIGN CHOICE (log 18): where PINNED exceeds the launch contexts of a core, the floating positions begin
after those that exist; unsafe. -/
def slotTable (s : State) (i n pinned : Nat) : Vector Word 16 :=
  let pins := (List.range (min pinned n)).map fun j => 0x4000 + (j + 1)
  let floats := (0 :: (List.range n).filterMap fun j => if pinned ≤ j then some (j + 1) else none).map fun m => 0x8000 + m
  let body := ((pins ++ floats).take 15)
  let last := match [62, 63].find? fun m => (s.ctx (64 * i + m)).state ≠ .absent && (s.ctx (64 * i + m)).pool == 3 with
    | some m => 0x8000 + 3 * 1024 + m
    | none => 0
  Vector.ofFn fun j : Fin 16 => if j.val = 15 then BitVec.ofNat 64 last else BitVec.ofNat 64 (body.getD j.val 0)

/-- The rings, the peer tables and the contexts of one core. -/
def makeCore (p : Plan) (world : BitVec 8) (asid : BitVec 16) (gen : BitVec 12) (region : Option Cap) (s : State) (i : Nat) : State :=
  let here := p.onCore i
  let n := p.sites.length
  let t := makeRing s (faultRingLoc p i) (here.length + 1) (p.size (.faultRing i)) (64 * i) p.n world false true 0
  let t := t.setCtx (64 * i) (supervisorCtx p s world asid i)
  let t := t.setRegsOf (64 * i) 0 (List.replicate (8 * p.d.wsize) 0)
  here.foldl (fun t site =>
    let c := p.key site
    let t := t.setCtx c (launchCtx p s world asid (startCaps p world gen region site) site)
    let t := t.setRegsOf c 0 (List.replicate (8 * p.d.wsize) 0)
    let t := p.d.init.foldl (fun t r => t.setRegOf c r.1 r.2) t
    if p.d.actor then
      let t := makeRing t (p.timedRingLoc site) 64 5184 c p.n world true false n
      ((List.range n).zip p.sites).foldl (fun t q =>
        t.setSlot (coreLoc i (p.coreOff i (.peers site)) + 16 * q.1) (sendEnd (p.timedRingLoc q.2) world (actorIdOf p site))) t
    else t) t

/-- The copies of the code image and the scopes of translated memory; none where a page is not mapped or the image cannot be read. The data image
is used where it lies (R355). -/
def makeVirt (p : Plan) (s : State) (world : BitVec 8) (asid : BitVec 16) : Option State := do
  let yard := yardOf (barnAt p.x p.y)
  let code ← imageBlocks s yard asid.toNat world p.d.code p.d.codeLen
  p.virtPieces.foldlM (fun t q =>
    virtBlocks t yard asid.toNat world (p.virtOff q)
      (match q with | .code _ => code | _ => List.replicate (p.size q / 64) (0, 0))) s

/-- The barns of a launch start with one colour and fresh minima (R323). DESIGN CHOICE (log 30): the spec assumes one old colour (R324), in every member
of a hitch (R400), and says not how it comes about; every launch starts with colour 0; unsafe. -/
def oneColour (s : State) (bs : List Nat) : State :=
  bs.foldl (fun t b => t.modBarn b fun x => { x with colour := false, m0 := BitVec.allOnes 64, m1 := BitVec.allOnes 64 }) s

/-- A launch is made in its paddock, with every context stopped (R351, R355, R358). -/
def makeLaunch (p : Plan) (s : State) (world : BitVec 8) (asid : BitVec 16) (gen : BitVec 12) (region : Option Cap) : Option State := do
  let t := p.barns.foldl (fun t b => clearBarn t b world p.n) s
  let t ← makeVirt p t world asid
  let t := p.cores.foldl (makeCore p world asid gen region) t
  let t := makeRing t p.launchRingLoc (min p.sites.length 4096) (p.size .launchRing) (p.key p.lead) p.n world false false (p.sites.length - 1)
  let t := if p.d.hitched then
      makeRing t p.hitchPortLoc 64 (p.size .hitchPort) (p.key p.lead) p.n world false false 1 else t
  let t := oneColour t p.barns
  some (t.modLaunch p.n fun l => { l with
    swept := (colourSum (p.barns.map t.barn) false, colourSum (p.barns.map t.barn) true),
    px := p.x, py := p.y, pw := p.width, ph := p.height, bound := s.cycle, buffers := p.virtPieces.map fun q => (p.virtOff q, p.size q) })

/-- The firmware commits the slot tables of a launch and clears the stopped flags (R17, R358, R365). The lead of a hitch starts the rounds of GVT though
its own launch may hold no actor (R400). -/
def startLaunch (s : State) (n : Nat) (d : LaunchRec) (kept : Map Ctx) : State :=
  let cs := s.launchCtxs n
  let t := (cs.map coreOf).eraseDups.foldl (fun t i =>
    let m := (cs.filter fun c => coreOf c == i && !(s.ctx c).sup).length
    ((t.modCore i fun x => { x with staged := slotTable t i m d.pinned, commit := some (slotTable t i m d.pinned) }).pushOnce (.slotTableTakesEffect i))) s
  let t := cs.foldl (fun t c => t.modCtx c fun x => { x with stopped := (mget Ctx.reset kept c).stopped }) t
  let t := t.modLaunch n fun l => { l with stage := .running, saved := [] }
  if (cs.any (fun c => (s.ctx c).actor) || (hitchOf t n).any fun h => 1 < h.count) && leads t n && (t.launch? n).any (·.round.isNone) then t.pushOnce (.flipSweep n) else t

end Sys2Proof.Machine
end

