-- ==== Sys2Proof/Machine/Version.lean ====
section
/-! DEFINITION. Versioned regions (R186 to R189): the operations that contexts and hosts share, and veropen, verpub, verclose. The
bytes of a version lie at the locations of `versionLoc`. -/

namespace Sys2Proof.Machine

/-- A region as its first open finds it: version 0 is the latest (log 15). -/
def firstRegion (base length : Nat) (world : BitVec 8) : Region :=
  { Region.reset with live := true, base := base, length := length, world := world, versions := [{ num := 0, handles := 0 }] }

/-- The region that a capability names. -/
def regionOf (s : State) (k : Cap) : Region :=
  let r := s.region (regionKey k)
  if r.live then r else firstRegion k.base.toNat k.length.toNat k.world

/-- Versions that a region holds: those published, and the private one (R186). -/
def Region.held (r : Region) : Nat := r.versions.length + (if r.priv.isSome then 1 else 0)

/-- A published version that no handle names and that is not the latest is freed (R188). -/
def Region.trim (r : Region) : Region :=
  { r with versions := r.versions.filter fun v => v.num == r.latest || v.handles ≠ 0 }

/-- One more or one fewer handle on a version. -/
def Region.addHandle (r : Region) (num : Nat) : Region :=
  { r with versions := r.versions.map fun v => if v.num == num then { v with handles := v.handles + 1 } else v }
def Region.dropHandle (r : Region) (num : Nat) : Region :=
  Region.trim { r with versions := r.versions.map fun v => if v.num == num then { v with handles := v.handles - 1 } else v }

/-- The bytes of versions that a region no longer holds go (R188). -/
def sweepVersions (s : State) (key : Nat) (r : Region) : State :=
  let gone (loc : Nat) : Bool :=
    versionLoc key 0 0 ≤ loc && loc < versionLoc (key + 1) 0 0
      && !(r.versions.any (fun v => versionLoc key v.num 0 ≤ loc && loc < versionLoc key v.num 0 + 2 ^ 32))
      && !(match r.priv with | some p => versionLoc key p 0 ≤ loc && loc < versionLoc key p 0 + 2 ^ 32 | none => false)
  { s with mem := s.mem.filter fun c => !gone c.1, tags := s.tags.filter fun c => !gone (64 * c.1) }

/-- A region after a change of its versions. -/
def putRegion (s : State) (key : Nat) (r : Region) : State := sweepVersions (s.setRegion key r) key r

/-- Copies the bytes and tags of a version to another (R186). -/
def copyVersion (s : State) (key src dst : Nat) : State :=
  let a := versionLoc key src 0
  let b := versionLoc key dst 0
  let t := (s.mem.filter fun c => a ≤ c.1 && c.1 < a + 2 ^ 32).foldl (fun t c => t.writeByte (b + (c.1 - a)) c.2) s
  (s.tags.filter fun c => a ≤ 64 * c.1 && 64 * c.1 < a + 2 ^ 32).foldl (fun t c => t.setTag (b + (64 * c.1 - a)) c.2) t

/-- Opens the latest published version for reading (R186). -/
def openRead (s : State) (key : Nat) (r : Region) : State := putRegion s key (r.addHandle r.latest)

/-- Whether a private version may be opened (R186). -/
def Region.mayOpen (r : Region) : Bool := r.priv.isNone && r.held < Config.versionLimit

/-- Opens a private version that starts equal to the latest (R186), whose place holds nothing before; its number is the one that it would be published
under. -/
def openPrivate (s : State) (key : Nat) (r : Region) (host : Bool) : State :=
  copyVersion (putRegion (sweepVersions s key r) key { r with priv := some (r.latest + 1), privHost := host }) key r.latest (r.latest + 1)

/-- Publishes the private version (R187): it is the latest, and its handle is gone. -/
def publishPrivate (s : State) (key : Nat) (r : Region) : State :=
  match r.priv with
  | none => s
  | some p =>
    putRegion s key (Region.trim { r with priv := none, privHost := false, latest := p, versions := r.versions ++ [{ num := p, handles := 0 }] })

/-- Discards the private version unpublished (R188). -/
def discardPrivate (s : State) (key : Nat) (r : Region) : State := putRegion s key { r with priv := none, privHost := false }

/-- The checks of veropen (R159, R173, R186). -/
def openSteps (s : State) (kd kn : KReg) (rights : BitVec 8) : Except FaultInfo Unit := do
  need (kd ≠ 15 && kn ≠ 15) (flt .capRights)
  let k := s.k kn
  need (!k.isNull) (flt .capNull)
  need (k.kind == 1 && k.versioned) (flt .capKind)
  need (s.k kd).isNull (flt .capKind)
  need (k.world == s.me.world && (k.rights &&& rights) == rights) (flt .capRights)

/-- A version handle (R186): rights read and send, and write for a private version. -/
def handleOf (k : Cap) (num : Nat) (rights : BitVec 8) : Cap :=
  { k with kind := 7, count := 32768, rights := rights, gen := BitVec.ofNat 12 num }

/-- veropen, mode 0 (R186). -/
def execVeropenRead (kd kn : KReg) (s : State) : Out :=
  issue {} (fun s => do
    openSteps s kd kn 0x81
    let r := regionOf s (s.k kn)
    .ok (finish ((openRead s (regionKey (s.k kn)) r).setK kd (handleOf (s.k kn) r.latest 0x11)))) s

/-- veropen, mode 1 (R186). -/
def execVeropenPrivate (kd kn : KReg) (s : State) : Out :=
  issue {} (fun s => do
    openSteps s kd kn 0x83
    let r := regionOf s (s.k kn)
    need r.mayOpen (flt .capKind)
    .ok (finish ((openPrivate s (regionKey (s.k kn)) r false).setK kd (handleOf (s.k kn) (r.latest + 1) 0x13)))) s

/-- The checks of a version handle (R31, R159). -/
def handleSteps (s : State) (kn : KReg) (rights : BitVec 8) : Except FaultInfo Unit := do
  need (kn ≠ 15) (flt .capRights)
  let k := s.k kn
  need (!k.isNull) (flt .capNull)
  need (k.kind == 7 && genOk s k) (flt .capKind)
  need (k.world == s.me.world && (k.rights &&& rights) == rights) (flt .capRights)

/-- verpub (R187): it waits for every earlier access of the context (R298), and for a copy channel that writes through the handle (R257, R310). -/
def execVerpub (d : WReg) (kn : KReg) (s : State) : Out :=
  issue { top := topOf [d] } (fun s => do
    handleSteps s kn 0x02
    if hasPosted s s.cur.ctx || pinned s s.cur.ctx (s.k kn) then .ok (waitCond s)
    else
      let key := regionKey (s.k kn)
      let r := s.region key
      .ok (finish (((publishPrivate s key r).setK kn Cap.null).setW d (BitVec.ofNat 64 (r.latest + 1))))) s

/-- verclose (R188): a handle leaves its register once the posted accesses made through it are performed (R173). DESIGN CHOICE (log 30): where
versions 4,096 apart are held, the version that the handle names is that of `versionNum`; unsafe. -/
def execVerclose (kn : KReg) (s : State) : Out :=
  issue {} (fun s => do
    handleSteps s kn 0x00
    let k := s.k kn
    if pinned s s.cur.ctx k then .ok (waitCond s)
    else
      let key := regionKey k
      let r := s.region key
      let n := routeOf.versionNum s k
      let t := if r.priv == some n then discardPrivate s key r else putRegion s key (r.dropHandle n)
      .ok (finish (t.setK kn Cap.null))) s

end Sys2Proof.Machine
end

