-- ==== Sys2Proof/Machine/EvLaunch.lean ====
section
/-! DEFINITION. Work queues and completion records (R412 to R417), launch placement (R350), hitch formation (R365, R402), the end of a launch
(R293), and pre-emption by paddock (R287 to R291, R364, R366). -/

namespace Sys2Proof.Machine

/-! Work queues. -/

/-- Entries of a queue's ring, and records of its completion ring (R414). -/
def Queue.entries (q : Queue) : Nat := 2 ^ (q.size.toNat + 6)
def Queue.records (q : Queue) : Nat := 2 ^ (q.csize.toNat + 6)

/-- The yard of the service core of a queue (R412). -/
def yardOfQueue (q : Nat) : Nat := q / 32768

/-- Whether a service core takes the next entry of a queue (R413, R417, R425). -/
def takes (s : State) (q : Nat) : Bool :=
  let x := s.queue q
  s.boot.mode == .running && s.power == .run && x.en && x.world ≠ 0 && (s.tdi x.world.toNat).state == .run && !(s.tdi x.world.toNat).stopping
    && x.waiting.isEmpty && !ringFull s q && x.head.toNat % x.entries ≠ x.tail.toNat

/-- An entry is taken: HEAD counts it (R414). -/
def nextEntry (s : State) (q : Nat) : State := s.setQueue q { s.queue q with head := (s.queue q).head + 1 }

/-- A record about an entry. -/
def entryRecord (e : QueueEntry) (kind status launch : Nat) : CRecord :=
  { kind := kind, status := status, res := 0, tag := e.tag.toNat, launch := launch, d0 := 0, d1 := 0 }
/-- An entry is answered with a refusal record (R415, R417, R418): it names the live launch that the entry names, and 0 where it names none. -/
def refuseEntry (s : State) (q : Nat) (e : QueueEntry) (kind status : Nat) (launch : Nat := 0) : State :=
  postRecord s q (entryRecord e kind status launch)
/-- STATUS of the refusal of an entry, where the spec states none (log 4). -/
def entryStatus (e : QueueEntry) : Nat := (Config.entryStatus e.op.toNat).toNat

/-- The fields of a launch BODY (R415). -/
def bodyAt (e : QueueEntry) (off n : Nat) : Nat := field e.body.toNat off n
def bodyAsid (e : QueueEntry) : BitVec 16 := BitVec.ofNat 16 (bodyAt e 0 2)
def bodyNotify (e : QueueEntry) : List (BitVec 32) := (List.range 4).map fun i => BitVec.ofNat 32 (bodyAt e (8 + 4 * i) 4)
def bodyRegion (e : QueueEntry) : Nat := bodyAt e 24 8
def bodyFeed (e : QueueEntry) : Nat := bodyAt e 32 4
/-- The reserved bytes of a launch entry, and the values of its fields. DESIGN CHOICE (log 30): R415 gives the feed-ring field the values 0 and 1, and
an entry with another value is refused; unsafe. -/
def launchEntryOk (e : QueueEntry) : Bool :=
  e.resv == 0 && e.len == 0 && bodyAt e 2 6 == 0 && bodyAt e 36 12 == 0 && bodyFeed e ≤ 1

/-- Whether an ASID belongs to a world: its root entry is valid and names it (R340, R415). -/
def asidOf (s : State) (yard : Nat) (asid : BitVec 16) (world : BitVec 8) : Bool :=
  let base := ((s.station (8 * yard)).root.extractLsb' 19 41).toNat * 2 ^ 19
  match readEntry s (base + 8 * asid.toNat) 0 with
  | .ok e => inMemory base && entryValid e && e.extractLsb' 8 8 == world
  | .error _ => false

/-- The launch record at a virtual address (R352): one that cannot be read is refused as a record that breaks its layout. -/
def readRecord (s : State) (yard : Nat) (asid : BitVec 16) (world : BitVec 8) (va : Nat) : LaunchRec :=
  match virtRead s yard asid.toNat world va 64 with
  | none => LaunchRec.bad
  | some h =>
    if 8 < field (bytesLe h) 1 1 || 64 < field (bytesLe h) 7 1 then LaunchRec.bad
    else match virtRead s yard asid.toNat world va (recordBytes (bytesLe h)) with | some bs => parseRecord (bytesLe bs) | none => LaunchRec.bad

/-- The number of the next launch. -/
def nextLaunch (s : State) : Nat := ((s.launches.getLast?).map (·.1)).getD 0 + 1

/-- A launch that waits for a paddock. -/
def queuedLaunch (s : State) (q : Nat) (e : QueueEntry) (world : BitVec 8) (d : LaunchRec) : Launch :=
  { stage := .queued, world := world, asid := bodyAsid e, desc := d, queue := q, tag := e.tag, notify := bodyNotify e, region := bodyRegion e,
    feed := bodyFeed e == 1, feedPort := none, feeds := [], px := 0, py := 0, pw := 0, ph := 0, results := true, firstTerm := 0, cause := 0,
    gvt := 0, round := none, sums := [], releases := [], failures := 0, bound := s.cycle, graceEnd := 0, savedMin := 0, saved := [],
    savedCores := [], savedRegs := [], savedTiles := [], savedBarns := [], savedMem := [], savedTags := [], savedSlots := [], savedPoison := [],
    savedRings := [], buffers := [] }

/-- The device address of an exported region that a launch entry names (R418). -/
def exportBase (region : Nat) : Nat := 2 ^ 46 + region % 2 ^ 46

/-- A region that a launch entry names is exported: its host has a version control block from then on (R418, log 21). -/
def exportRegion (s : State) (w : BitVec 8) (region : Nat) : State :=
  if region = 0 then s
  else
    let key := w.toNat * 2 ^ 48 + exportBase region
    let r := s.region key
    let first := firstRegion (exportBase region) (Config.exportLength w.toNat region).toNat w
    s.setRegion key { (if r.live then r else first) with exported := true }

/-- LAUNCH (R349, R415, R416, R418): the record is read, and the launch waits for placement. -/
def execLaunch (q : Nat) (e : QueueEntry) (s : State) : Out :=
  if !takes s q || e.op ≠ 1 then .next s
  else
    let w := (s.queue q).world
    let y := yardOfQueue q
    let t := nextEntry (s.did (.launch q e)) q
    if !launchEntryOk e || !asidOf s y (bodyAsid e) w then .next (refuseEntry t q e 2 (entryStatus e))
    else
      let d := readRecord s y (bodyAsid e) w (e.target.toNat % 2 ^ 46)
      if bodyRegion e ≠ 0 && d.dataLen ≠ 0 then .next (refuseEntry t q e 2 0x85)
      else .next { exportRegion t w (bodyRegion e) with launches := t.launches ++ [(nextLaunch s, queuedLaunch s q e w d)] }

/-- The live launch that a feed or a cancel names (R415). -/
def namedLaunch (s : State) (q : Nat) (e : QueueEntry) : Option (Nat × Launch) :=
  let n := e.target.toNat % 2 ^ 32
  match s.launch? n with
  | some l => if l.stage ≠ .closed && l.world == (s.queue q).world then some (n, l) else none
  | none => none

/-- FEED (R416): the payload is sent on the feed ring, or waits in the service core. -/
def execFeed (q : Nat) (e : QueueEntry) (s : State) : Out :=
  if !takes s q || e.op ≠ 2 then .next s
  else
    let t := nextEntry (s.did (.feed q e)) q
    match namedLaunch s q e with
    | some (n, l) =>
      if e.resv ≠ 0 || 48 < e.len.toNat || !l.feed then .next (refuseEntry t q e 5 (entryStatus e) n)
      else .next (emitFeed (t.modLaunch n fun l => { l with feeds := l.feeds ++ [(e.len.toNat, e.body)] }) n)
    | none => .next (refuseEntry t q e 5 (entryStatus e))

/-- CANCEL (R416): the launch is terminated. -/
def execCancel (q : Nat) (e : QueueEntry) (s : State) : Out :=
  if !takes s q || e.op ≠ 3 then .next s
  else
    let t := nextEntry (s.did (.cancel q e)) q
    match namedLaunch s q e with
    | some (n, _) => if e.resv ≠ 0 || e.len ≠ 0 then .next (refuseEntry t q e 2 (entryStatus e) n) else .next (terminateLaunch t n 0x83)
    | none => .next (refuseEntry t q e 2 (entryStatus e))

/-- UNKNOWN_OP (R415). -/
def execUnknownOp (q : Nat) (e : QueueEntry) (s : State) : Out :=
  if !takes s q || (1 ≤ e.op.toNat && e.op.toNat ≤ 3) then .next s
  else .next (refuseEntry (nextEntry (s.did (.unknownOp q e)) q) q e 2 (entryStatus e))

/-- An access or a doorbell of a function that is discarded is counted (R411, R413, R425). -/
def countDiscard (s : State) (fn : Nat) : State := s.setTdi fn { s.tdi fn with discarded := (s.tdi fn).discarded + 1 }

/-- DOORBELL (R411, R413). -/
def execDoorbell (fn q : Nat) (v : BitVec 64) (s : State) : Out :=
  let x := s.queue q
  let t := s.did (.doorbell fn q v)
  let tail := v.setWidth 16
  if fn = 0 || x.world.toNat ≠ fn || (s.tdi fn).state ≠ .run || x.entries ≤ tail.toNat then .next (countDiscard t fn)
  else .next (t.setQueue q { x with tail := tail })

/-- COMPLETION_RECORD (R417): the first waiting record is written once its queue is enabled (log 23) and the ring has room; with none waiting, the service core sees whether its host
has read from a full ring. -/
def execCompletionRecord (q : Nat) (s : State) : Out :=
  let x := s.queue q
  match x.waiting with
  | [] =>
    if x.records ≤ x.unread then .next { s.setQueue q { x with unread := x.unread - min x.unread (Config.hostReads s.free) } with free := s.free + 1 }
    else .next s
  | r :: rest =>
    if s.power ≠ .run || !x.en || !(s.boot.mode == .listening || s.boot.mode == .running) then .next s else
    let unread := x.unread - min x.unread (Config.hostReads s.free)
    if x.records ≤ unread then .next { s.setQueue q { x with unread := unread } with free := s.free + 1 }
    else
      let phase := (x.seq.toNat / x.records + 1) % 2
      let a : Answer := .record q r.kind r.status phase r.res r.tag r.launch x.seq.toNat r.d0 r.d1
      let t := (s.did (.completionRecord q)).setQueue q { x with seq := x.seq + 1, waiting := rest, unread := unread + 1 }
      let t := { t with answers := t.answers ++ [a], free := t.free + 1 }
      .next (if rest.isEmpty then t else t.pushOnce (.completionRecord q))

/-! Placement. -/

/-- A record about a launch. -/
def launchRecord (n : Nat) (l : Launch) (kind status res : Nat) : CRecord :=
  { kind := kind, status := status, res := res, tag := l.tag.toNat, launch := n, d0 := 0, d1 := 0 }

/-- A launch is refused (R350, R402): nothing is placed. -/
def refuseLaunch (s : State) (n : Nat) (l : Launch) (status : Nat) : State :=
  postRecord (s.modLaunch n fun l => { l with stage := .closed, feeds := [] }) l.queue (launchRecord n l 2 status 0)

/-- Whether a launch holds a data register: a data image, or an exported region (R418). -/
def hasData (l : Launch) : Bool := l.desc.dataLen ≠ 0 || l.region ≠ 0

/-- The owned capability of an exported region (R418). -/
def regionCap (s : State) (l : Launch) : Option Cap :=
  if l.region = 0 then none
  else
    let base := exportBase l.region
    let r := s.region (l.world.toNat * 2 ^ 48 + base)
    let len := if r.live then BitVec.ofNat 32 r.length else Config.exportLength l.world.toNat l.region
    some { ownedCap false base 0 l.world with length := len, rights := 0xBB }

/-- Whether a launch waits for a paddock: one that is queued, or one that was pre-empted with its paddock (R364). -/
def waitsPlace (l : Launch) : Bool := (l.stage == .queued && recordOk l.desc (hasData l)) || (l.stage == .saved && l.cause == 0)

/-- Whether another launch is placed first (R364): one of lesser priority number, or one of the same that has waited longer. -/
def placedFirst (s : State) (n : Nat) (l : Launch) : Bool :=
  s.launches.any fun p => p.1 ≠ n && waitsPlace p.2
    && (p.2.desc.prio < l.desc.prio || (p.2.desc.prio == l.desc.prio && (decide (p.2.bound < l.bound) || (p.2.bound == l.bound && decide (p.1 < n)))))

/-- LAUNCH_PLACEMENT (R350, R351): a launch whose record is bad is refused; a good one is placed once its paddock is free, and starts. -/
def execLaunchPlacement (n x y : Nat) (codeVa : BitVec 48) (s : State) : Out :=
  match s.launch? n with
  | none => .next s
  | some l =>
    let t := s.did (.launchPlacement n x y codeVa)
    let p := planOf l.desc n x y codeVa.toNat
    if l.stage ≠ .queued || l.desc.hitched then .next s
    else if !recordOk l.desc (hasData l) || !p.fits then .next (refuseLaunch t n l 0x80)
    else if !p.free s || !p.freeVirt s l.asid || placedFirst s n l then .next s
    else
      match makeLaunch p t l.world l.asid 0 (regionCap s l) with
      | none => .next s
      | some u => .next (postRecord (startLaunch u n l.desc []) l.queue (launchRecord n l 1 0 0))

/-! Hitch formation (R365, R402). -/

/-- A formation is aborted on this package: the contexts and the paddock are released (R365, R402). -/
def abortFormation (s : State) (n : Nat) (l : Launch) (status : Nat) : State :=
  let p := planOf l.desc n l.px l.py 0
  let t := if l.stage = .placed then p.barns.foldl (fun t b => clearBarn t b 0 0) s else s
  refuseLaunch { t with hitches := t.hitches.filter (·.launch ≠ n) } n l status

/-- The hitch as its unit registers it at prepare (R402, R405). -/
def newHitch (s : State) (n : Nat) (l : Launch) : Hitch :=
  let d := l.desc
  let id := d.hitchId
  { id := id, world := l.world, gen := BitVec.ofNat 12 (mget 0 s.hitchGen id + 1), repro := d.repro, count := d.members, me := d.member,
    scope := ((d.levels.head?).map (·.scope)).getD 0, launch := n, stage := .prepared,
    place := ((List.range d.members).map fun j => (j, Config.memberPlace id j)), attach := [(d.member, .attached)], member := [],
    modes := [], reported := [], holders := [], leaver := none }

/-- What a hitched launch needs beyond R350 to be prepared (R400, R403). -/
def hitchOk (p : Plan) : Bool :=
  match p.d.levels with
  | l :: _ => l.scope % 4096 == 0 && l.scope ≤ 786432 * p.barns.length && (!p.d.actor || p.sites.length ≤ 2048)
  | [] => false

/-- The stopped flags of a re-bound launch are as they were saved, and a held exit of its group goes on (R409). -/
def resumeLaunch (s : State) (n : Nat) (l : Launch) : State :=
  let t := (s.launchCtxs n).foldl (fun t c => t.modCtx c fun x => { x with stopped := (mget Ctx.reset l.saved c).stopped }) s
  let t := t.modLaunch n fun v => { v with stage := .running, saved := [] }
  match hitchOf t n with
  | some h => advanceExit t h.id
  | none => t

/-- This package commits a formation or a re-binding (R365, R366, R402). -/
def commitHere (s : State) (h : Hitch) (gen : BitVec 12) : State :=
  match s.launch? h.launch with
  | none => s
  | some l =>
    let fresh := h.stage == .prepared
    let t := setHitch s { h with gen := gen, stage := if fresh then .bound else h.stage, reported := [] }
    let t := { t with hitchGen := mput 0 t.hitchGen h.id gen.toNat }
    let window (k : Cap) : Cap := if k.kind == 6 then { k with gen := gen } else k
    let t := if fresh then (t.launchCtxs h.launch).foldl (fun t c => t.modCtx c fun x => { x with k := x.k.map window }) t else t
    if fresh then postRecord (startLaunch t h.launch l.desc []) l.queue (launchRecord h.launch l 1 0 0) else resumeLaunch t h.launch l

/-- Every member that has not left has reported: commit goes out (R365, R409). -/
def commitAllMembers (s : State) (h : Hitch) : State :=
  if (List.range h.count).all fun j => h.reported.contains j || h.memberOf j == .gone then
    commitHere ((present h).foldl (fun t j => sendPacket t { control t h j 2 with gen := h.gen }) s) h h.gen
  else s

/-- The DATA of a member's report, in which the lead compares the records (R402, log 29): subtype, REPRO, member count - 1 and SCOPE. -/
def preparedData (h : Hitch) : Word := BitVec.ofNat 64 (1 + 2 ^ 8 * h.repro.toNat + 2 ^ 9 * (h.count - 1) + 2 ^ 16 * h.scope)

/-- A member reports that it is prepared: to itself when it leads, and to the lead otherwise (R365). -/
def reportPrepared (s : State) (h : Hitch) : State :=
  if h.me = 0 then
    let h' := { h with reported := h.reported ++ [0] }
    commitAllMembers (setHitch s h') h'
  else sendPacket s { control s h 0 1 with data := preparedData h }

/-- The lead aborts: every package is told (R365). -/
def abortMembers (s : State) (h : Hitch) : State := (present h).foldl (fun t j => sendPacket t (control t h j 3)) s
/-- A package that fails to prepare tells the lead, and the lead every package (R365, R402). -/
def tellAbort (s : State) (h : Hitch) : State := if h.me = 0 then abortMembers s h else sendPacket s (control s h 0 3)

/-- HITCH_PREPARE (R365, R397, R402 to R404): a member reserves its paddock and creates its contexts stopped. -/
def execHitchPrepare (n x y : Nat) (codeVa : BitVec 48) (s : State) : Out :=
  match s.launch? n with
  | none => .next s
  | some l =>
    let t := s.did (.hitchPrepare n x y codeVa)
    let p := planOf l.desc n x y codeVa.toNat
    let h := newHitch s n l
    if l.stage ≠ .queued || !l.desc.hitched then .next s
    else if !recordOk l.desc (hasData l) then .next (tellAbort (refuseLaunch t n l 0x80) h)
    else if !hitchOk p || !p.fits || s.hitches.any (fun x => x.id == h.id && x.stage ≠ .left) then .next (tellAbort (refuseLaunch t n l 0x86) h)
    else if !p.free s || !p.freeVirt s l.asid || placedFirst s n l then .next s
    else
      match makeLaunch p t l.world l.asid h.gen (regionCap s l) with
      | none => .next s
      | some u =>
        let u := u.modLaunch n fun l => { l with stage := .placed }
        .next (reportPrepared { u with hitches := u.hitches.filter (·.id ≠ h.id) ++ [h] } h)

/-! The end of a launch (R293). -/

/-- The cores of a launch's paddock. -/
def paddockCores (l : Launch) : List Nat := ((paddockBarns l).map coresOfBarn).flatten
/-- The channels of a launch's cores are cancelled (R261, R380). -/
def cancelChannels (s : State) (l : Launch) : State :=
  (paddockCores l).foldl (fun t i => (List.range 8).foldl (fun t n => cancelChan t i n) t) s
/-- Whether a channel of a launch's cores is not idle yet. -/
def channelsBusy (s : State) (l : Launch) : Bool := (paddockCores l).any fun i => (s.core i).chans.toList.any fun x => x.state ≠ 0

/-- An actor of a completed launch is settled (R293): every handled message is committed, and every other slot discarded. -/
def settleActor (s : State) (n c : Nat) : State :=
  let xs := timedSlots s c
  let bad := xs.any fun x => x.state == .doomed || (x.state == .pending && xs.any fun h => h.state == .handled && x.vrt < h.vrt)
  let t := if bad then loseResults s n else s
  let x := ctxNamed t c
  let t := setNamed t c { x with loft := { x.loft with checkpoints := [], undos := [], sends := [], defers := [] } }
  let t := match timedPort s c with | some p => modSlots t p fun _ => [] | none => t
  t.modLaunch n fun l => { l with releases := sortBy (releaseBefore s) (l.releases ++ x.loft.defers.map fun d => (c, d)) }

/-- The actors of a terminated launch: every unreleased action is discarded (R328). -/
def discardActor (s : State) (c : Nat) : State :=
  let x := ctxNamed s c
  setNamed s c { x with loft := { x.loft with checkpoints := [], undos := [], sends := [], defers := [] } }

/-- The messages of a launch leave the mesh with it; a timed one that has left its barn counts as received (R323). -/
def dropMessages (s : State) (n : Nat) : State :=
  let mine (m : Msg) : Bool := (m.launch == 0 && (s.ctx m.from_).launch == n) || m.launch == n || (!m.far && m.kind ≠ .untimed && (s.ring m.ring).launch == n)
  let (out, kept) := s.msgs.partition mine
  out.foldl (fun t m => moveOff (if m.far then t else countReceived t m) m) { s with msgs := kept }

/-- Whether a channel of a launch's cores stands in a state (R259). -/
def channelIn (s : State) (l : Launch) (st : Nat) : Bool := (paddockCores l).any fun i => (s.core i).chans.toList.any fun x => x.state == st

/-- Whether a supervisor that runs has yet to have its turn since a launch context of its core halted. DEDUCED (log 28): R444 and R448 have every
supervisor halt by itself in every run, also one whose last instruction issues just after the last launch context has halted, so the management core
acts no sooner than one rotation after that; unsafe. -/
def supervisorOwed (s : State) (n : Nat) : Bool :=
  (s.launchCtxs n).any fun c =>
    (s.ctx c).sup && (s.ctx c).state == .ready && !(s.ctx c).stopped
      && (s.launchCtxs n).any fun d => coreOf d == coreOf c && (s.ctx d).state == .halted
        && (match (s.ctx d).lastIssue with | some k => decide ((s.core (coreOf c)).rot < k + 17) | none => false)

/-- A launch starts to end: its supervisors, or all its contexts, are ended, its channels cancelled, its actors settled, and its group
leaves its hitch (R293, R408). None: a context is not at rest, or a channel of a completed reproducible launch, whose cancelling waits for it as cpwait
does (R261), is busy, or a supervisor has yet to have its turn. DESIGN CHOICE (log 28): a fault left unacknowledged (R5) is that of a parked context or of a stopped copy channel, and a
supervisor that has halted by itself stays Halted; unsafe. -/
def beginEnd (s : State) (n : Nat) (l : Launch) : Option State := do
  let cs := s.launchCtxs n
  let ends := if l.cause = 0 then cs.filter fun c => (s.ctx c).sup && (s.ctx c).state ≠ .halted else cs
  let open_ := channelIn s l 2 || cs.any fun c => (s.ctx c).state == .parked
  guard !(l.cause == 0 && (l.desc.repro && channelIn s l 1 || supervisorOwed s n))
  let t ← ends.foldlM atRest s
  let t := if open_ then loseResults t n else t
  let t := ends.foldl (fun t c => (releaseLock (t.did (.faultRecordPost c)) c).modCtx c fun x => { x with
    state := .ended, latch := none, wait := .none, acc := none, record := none }) t
  let t := cancelChannels t l
  let actors := (launchNames s n).filter fun c => (ctxNamed s c).actor
  let t := if l.cause = 0 then actors.foldl (fun t c => settleActor t n c) t else actors.foldl discardActor t
  let t := t.modLaunch n fun l => { l with stage := .ending, feeds := [] }
  let t := if ((t.launch? n).map (·.releases.isEmpty)).getD true then t else t.pushOnce (.deferredRelease n)
  match hitchOf s n with
  | some h => if h.stage = .bound then some (beginLeave t h none) else some t
  | none => some t

/-- A launch that is pre-empted with its paddock is terminated (R293): what was saved is discarded, and its group leaves its hitch (R408). The released
actions whose targets went with the paddock go too. -/
def endSaved (s : State) (n : Nat) : State :=
  let t := (launchNames s n).foldl discardActor s
  let t := t.modLaunch n fun l => { l with
    stage := .ending, pw := 0, ph := 0, releases := l.releases.filter fun r => !releaseAway l r.2, feeds := [], saved := [], savedCores := [], savedRegs := [],
    savedTiles := [], savedBarns := [], savedMem := [], savedTags := [], savedSlots := [], savedPoison := [], savedRings := [] }
  let t := if ((t.launch? n).map (·.releases.isEmpty)).getD true then t else t.pushOnce (.deferredRelease n)
  match hitchOf s n with
  | some h => if h.stage = .bound then beginLeave t h none else t
  | none => t

/-- Writes zero over the buffers of a launch in translated memory, and frees them (R293). -/
def freeBuffers (s : State) (l : Launch) : State :=
  l.buffers.foldl (fun t b =>
    (virtBlocks t (yardOf (barnAt l.px l.py)) l.asid.toNat l.world b.1 (List.replicate (b.2 / 64) (0, 0))).getD t) s

/-- STATUS of the record of an ended launch (R293, R417). -/
def endStatus (l : Launch) : Nat := if l.cause = 0 then l.firstTerm.toNat else l.cause.toNat

/-- The core and barn memory of a paddock that are pages of the world that holds it: those of world 0 are none (R40). -/
def paddockPages (bs : List Nat) : List (Nat × Nat) :=
  (bs.map fun b =>
    ((coresOfBarn b).map fun i => (coreLoc i Config.worldZeroPart, Config.coreBytes - Config.worldZeroPart)) ++ [(barnLoc b 0, Config.barnBytes)]).flatten

/-- The receipts of the SRAM of a paddock, wiped when its launch is closed for the STOP of its world, one for each memory (R425, R427): a block that is
retired, or that fails its read-back, is excluded and retired. -/
def sramReceipts (s : State) (w : BitVec 8) (bs : List Nat) : State :=
  (paddockPages bs).foldl (fun t p =>
    let bad := ((List.range (p.2 / 64)).map (p.1 / 64 + ·)).filter fun b => mget false t.dead b || Config.blockFails b
    { t with receipts := t.receipts ++ [makeReceipt s w p.1 p.2 bad], dead := bad.foldl (fun d b => mput false d b true) t.dead }) s

/-- The paddock of a launch is closed, its buffers and images are freed, and its record is written (R293). Its hitch stays known as one that its member
has left (R394, R407), and its rounds of GVT are over (R324). -/
def closeLaunch (s : State) (n : Nat) (l : Launch) : State :=
  let t := freeBuffers (((dropMessages s n).did (.flipSweep n)).did (.countSweep n)) l
  let t := if l.stage = .ending then (paddockBarns l).foldl (fun t b => clearBarn t b 0 0) t else t
  let t := if (s.tdi l.world.toNat).stopping then sramReceipts t l.world (paddockBarns l) else t
  let t := { t with hitches := t.hitches.filter (fun (h : Hitch) => h.launch ≠ n || h.stage == HitchStage.left), images := t.images.filter (·.2.launch ≠ n) }
  let res := if ((s.launch? n).map (·.results)).getD false then 1 else 0
  postRecord (t.modLaunch n fun l => { l with
    stage := .closed, feeds := [], releases := [], round := none, saved := [], savedCores := [], savedRegs := [], savedTiles := [], savedBarns := [],
    savedMem := [], savedTags := [], savedSlots := [], savedPoison := [], savedRings := [], buffers := [] }) l.queue (launchRecord n l 3 (endStatus l) res)

/-- Whether a placed launch is still being formed; one that is re-bound has been formed (R365, R366). -/
def forming (s : State) (n : Nat) : Bool := match hitchOf s n with | some h => h.stage == .prepared | none => false

/-- LAUNCH_COMPLETION (R293): once every launch context is Halted or Ended, or the launch is terminated and its contexts are at rest, the
launch is closed; a released action is performed, its channels are idle, and a group has left its hitch, before. -/
def execLaunchCompletion (n : Nat) (s : State) : Out :=
  match s.launch? n with
  | none => .next s
  | some l =>
    let t := s.did (.launchCompletion n)
    let ends : Out := match beginEnd s n l with | some u => .next (u.pushOnce (.launchCompletion n)) | none => .next s
    match l.stage with
    | .queued =>
      if l.cause = 0 then .next s
      else .next (closeLaunch (if l.desc.hitched && recordOk l.desc (hasData l) then tellAbort t (newHitch s n l) else t) n l)
    | .saved => if l.cause = 0 then .next s else .next ((endSaved t n).pushOnce (.launchCompletion n))
    | .placed => if l.cause = 0 then .next s else if forming s n then .next (abortFormation ((s.hitches.find? (·.launch == n)).elim t (tellAbort t)) n l 0x86) else ends
    | .running | .noticed => if l.cause = 0 && !s.launchOver n then .next s else ends
    | .ending =>
      let away := match hitchOf s n with | some h => h.stage ≠ .left | none => false
      if !l.releases.isEmpty || channelsBusy s l || away then .next s else .next (closeLaunch t n l)
    | .closed => .next s

/-! Pre-emption by paddock (R287 to R291). -/

/-- Whether a rectangle is free for a waiting launch (R364). -/
def roomFor (s : State) (n : Nat) (l : Launch) : Bool :=
  (List.range 32).any fun y => (List.range 32).any fun x => (planOf l.desc n x y 0).free s

/-- A quantum (R364). -/
def quantum : Nat := 2 ^ 24

/-- Whether a waiting launch for which no paddock is free may have a running one pre-empted (R364): one of lesser priority number, or one of the same
that has waited for a quantum while the other held its paddock for one. -/
def mayPreempt (s : State) (l : Launch) : Bool :=
  s.launches.any fun p =>
    waitsPlace p.2
      && (p.2.desc.prio < l.desc.prio || (p.2.desc.prio == l.desc.prio && decide (l.bound + quantum ≤ s.cycle) && decide (p.2.bound + quantum ≤ s.cycle)))
      && !roomFor s p.1 p.2

/-- Whether a launch has to leave a barn that failed its exit test (R437). -/
def onRetired (s : State) (l : Launch) : Bool := (paddockBarns l).any fun b => (s.barn b).retired

/-- PADDOCK_PREEMPT (R287, R291, R364, R366, R437): for a waiting launch, for a retired barn, or with the other groups of a hitch. A launch that is
not reproducible gets notice; eviction follows its grace interval. -/
def execPaddockPreempt (n : Nat) (s : State) : Out :=
  match s.launch? n with
  | none => .next s
  | some l =>
    if l.stage ≠ .running || !(l.desc.hitched || onRetired s l || mayPreempt s l) then .next s
    else
      let t := (s.did (.paddockPreempt n)).modLaunch n fun l => { l with
        stage := .noticed, saved := [], graceEnd := s.cycle + if l.desc.repro then 0 else 1024 * l.desc.grace }
      let t := if l.desc.repro then t else pendAway (((s.launchCtxs n).filter fun c => !(s.ctx c).sup).foldl (fun t c => pend t c 1) t) n 1
      .next (t.pushOnce (.graceExpiry n))

/-- The steps of a launch that have to come first: its gates and hand-off queues settle, and its messages arrive (R287, R288). -/
def settling (s : State) (n : Nat) (l : Launch) : Bool :=
  let mine (i : Nat) : Bool := (paddockBarns l).contains (barnOfCore i)
  (s.work.any fun w => match w with
    | .gateArrivalCounts c _ => mine (coreOf c)
    | .gateSweep i _ _ => mine i
    | .handoffEntryGiven i _ _ => mine i
    | _ => false)
    || (s.msgs.any fun m => m.launch == 0 && (s.ctx m.from_).launch == n) || (s.txs.any fun x => match x.2.1 with
      | .chan i _ => mine i
      | .release k => k == n
      | .ctx _ => false)
    || (match hitchOf s n with | some h => h.stage == .withdrawing | none => false)

/-- A recall that waits for an evicted receiver is withdrawn, to be sent again once its sender goes on (R239, R240, R288). -/
def withdrawRecall (s : State) (m : Msg) : State :=
  let t := markLog (countReceived (dropMsg s m.id) m) m.from_ m.vrt fun e => { e with recalled := false }
  let t := (t.did (arrivalOf m)).did (.backPressureResend m.id)
  match (s.ctx m.from_).wait, (s.ctx m.from_).latch with
  | .recall v _, some l => if v = m.vrt then stopIn t m.from_ l else t
  | _, _ => t
/-- Those of a launch's contexts. -/
def withdrawRecalls (s : State) (n : Nat) : State :=
  (s.msgs.filter fun m => m.kind == .recall && m.launch == 0 && (s.ctx m.from_).launch == n && !m.far && ringAway s m.ring).foldl withdrawRecall s

/-- A location that a paddock saves. -/
def savedLoc (bs : List Nat) (loc : Nat) : Bool :=
  isSram loc && bs.contains (locBarn loc) && !(isCoreMem loc && locOff loc < Config.worldZeroPart)

/-- The state of a paddock is saved whole, and the paddock released (R287, R291, R366); the image of each context is written (R290). DESIGN CHOICE
(log 30): a launch that is pre-empted with its paddock counts among the waiting launches of R364 from then on; unsafe. -/
def savePaddock (s : State) (n : Nat) (l : Launch) : State :=
  let bs := paddockBarns l
  let core (i : Nat) : Bool := bs.contains (barnOfCore i)
  let stops (x : Channel) : Channel := if x.state = 0 then x else { x with written := [] }
  let t := bs.foldl (fun t b => (coresOfBarn b).foldl (fun t i => (List.range 8).foldl (fun t c =>
    if (chanOf t i c).state = 0 then t else modChan (dropBlocks t i c) i c stops) t) t) s
  let ctxs := (t.ctxs.filter fun p => p.2.launch == n).map fun p => (p.1, { p.2 with stopped := (mget Ctx.reset l.saved p.1).stopped })
  let kept (r : Nat) : Bool := ctxs.any fun p => coreOf p.1 == r / Config.fileRegs && decide (p.2.wbase ≤ r % Config.fileRegs)
    && decide (r % Config.fileRegs < p.2.wbase + 8 * p.2.wsize)
  let u := t.modLaunch n fun l => { l with
    stage := .saved, bound := s.cycle, savedMin := (sweepPart s n l false).2, saved := ctxs, savedCores := t.cores.filter (core ·.1),
    savedRegs := t.regs.filter (kept ·.1), savedTiles := t.tiles.filter fun c => bs.contains (c.1 / (8 * 32 * 256)),
    savedBarns := t.barns.filter (bs.contains ·.1), savedMem := t.mem.filter (savedLoc bs ·.1), savedTags := t.tags.filter fun c => savedLoc bs (64 * c.1),
    savedSlots := t.slots.filter fun c => savedLoc bs (16 * c.1), savedPoison := t.poison.filter fun c => savedLoc bs (64 * c.1), savedRings := t.rings.filter fun r => bs.contains (locBarn r.1) && r.2.launch == n }
  let v := { u with work := u.work.filter fun w => match w with
    | .gateRelease i _ => !core i
    | .faultRecordPost c => !core (coreOf c)
    | .timer c => !core (coreOf c)
    | .sleepExpiry c => !core (coreOf c)
    | .channelComplete i _ => !core i
    | .mcastAck i _ _ => !core i
    | .slotCommit i => !core i
    | _ => true }
  bs.foldl (fun t b => clearBarn t b 0 0) (ctxs.foldl (fun v p => imageBytes (v.setCtx p.1 p.2) p.1 (imagePlace n p.1)) v)

/-- Whether the other members of a launch's hitch are at rest, so that its slice may be saved (R366); a launch without a hitch has none. -/
def othersRest (s : State) (l : Launch) : Bool := !l.desc.hitched || Config.othersAtRest l.desc.hitchId s.free

/-- GRACE_EXPIRY (R288, R291, R366): every context of the launch is stopped, and once all are at rest, in every member of its hitch, the paddock is
saved. -/
def execGraceExpiry (n : Nat) (s : State) : Out :=
  match s.launch? n with
  | none => .next s
  | some l =>
    if l.stage ≠ .noticed || s.cycle < l.graceEnd || l.cause ≠ 0 then .next s
    else
      let cs := s.launchCtxs n
      let first := l.saved.isEmpty
      let t := if first then
          (cs.foldl (fun t c => t.modCtx c fun x => { x with stopped := true }) s).modLaunch n fun l => { l with
            saved := cs.map fun c => (c, s.ctx c) }
        else s
      match (cs.foldlM atRest t).map (withdrawRecalls · n) with
      | some u =>
        if settling u n l then .next (t.pushOnce (.graceExpiry n))
        else if !othersRest u l then .next ({ t with free := t.free + 1 }.pushOnce (.graceExpiry n))
        else .next (savePaddock (cs.foldl releaseLock (u.did (.graceExpiry n))) n { l with saved := ((t.launch? n).map (·.saved)).getD [] })
      | none => .next (t.pushOnce (.graceExpiry n))

/-- QUANTUM_EXPIRY (R364): a launch that has held its paddock for a quantum may be pre-empted for a waiting launch, of its priority if that has
waited as long. -/
def execQuantumExpiry (n : Nat) (s : State) : Out :=
  match s.launch? n with
  | none => .next s
  | some l =>
    if l.stage = .running && decide (l.bound + quantum ≤ s.cycle) && mayPreempt s l then .next ((s.did (.quantumExpiry n)).pushOnce (.paddockPreempt n)) else .next s

/-! Re-binding (R289). -/

/-- The displacement of a paddock: barns up and down, and addresses up and down. -/
structure Shift where
  up : Nat
  down : Nat
  bs : List Nat

/-- The displacement from a paddock's corner to another. -/
def shiftOf (l : Launch) (x y : Nat) : Shift := { up := barnAt x y, down := barnAt l.px l.py, bs := paddockBarns l }
def Shift.barn (d : Shift) (b : Nat) : Nat := b + d.up - d.down
def Shift.core (d : Shift) (i : Nat) : Nat := i + 4 * d.up - 4 * d.down
def Shift.ctx (d : Shift) (c : Nat) : Nat := c + 256 * d.up - 256 * d.down
/-- A name of a context moves; the image of an evicted one stays where it is. -/
def Shift.holder (d : Shift) (k : Nat) : Nat := k / 2 ^ 40 * 2 ^ 40 + d.ctx (homeOf k)
/-- A location or a mesh-SRAM address within the old paddock moves; any other stays (R289). -/
def Shift.loc (d : Shift) (a : Nat) : Nat :=
  if isSram a && d.bs.contains (locBarn a) then
    let b := d.barn (locBarn a)
    sramLoc (barnX b) (barnY b) (locUnit a) (locOff a)
  else a
def Shift.cap (d : Shift) (k : Cap) : Cap := if k.base.toNat < 2 ^ 46 then { k with base := BitVec.ofNat 48 (d.loc k.base.toNat) } else k
def Shift.capt (d : Shift) (k : Cap) : Cap := if k.isNull then k else d.cap k

/-- The parts of a launch's state that name addresses or contexts (R289). -/
def Shift.checkpoint (d : Shift) (k : Checkpoint) : Checkpoint := { k with k := k.k.map d.capt }
def Shift.loft (d : Shift) (x : Loft) : Loft :=
  { x with
    checkpoints := x.checkpoints.map d.checkpoint,
    undos := x.undos.map fun u => { u with block := d.loc (64 * u.block) / 64, slots := u.slots.map d.capt },
    sends := x.sends.map fun e => { e with port := d.loc e.port, cap := d.capt e.cap, slots := e.slots.map fun c => (d.loc (16 * c.1) / 16, d.capt c.2) },
    defers := x.defers.map fun r => { r with cap := d.capt r.cap } }
/-- A context (R57, R289): an offending value in its record is no address. -/
def Shift.context (d : Shift) (rot : Nat) (x : Ctx) : Ctx :=
  { x with
    k := x.k.map d.capt, faultRing := BitVec.ofNat 64 (d.loc x.faultRing.toNat), loft := d.loft x.loft, resident := rot, lastIssue := none,
    yielded := none, goal := x.goal.map d.checkpoint,
    record := x.record.map fun r => if r.value then r else { r with addr := BitVec.ofNat 64 (d.loc r.addr.toNat) },
    fault := x.fault.map fun f => if f.value then f else { f with addr := d.loc f.addr } }
def Shift.mailbox (d : Shift) (m : Mailbox) : Mailbox :=
  let src := d.loc (m.word.extractLsb' 0 48).toNat
  let dst := d.loc (m.word.extractLsb' 64 48).toNat
  let w := (m.word &&& ~~~((BitVec.ofNat 256 (2 ^ 48 - 1)) ||| (BitVec.ofNat 256 ((2 ^ 48 - 1) * 2 ^ 64)))) ||| BitVec.ofNat 256 (src + dst * 2 ^ 64)
  let w := if m.word.getLsbD 255 then
      (w &&& ~~~(BitVec.ofNat 256 ((2 ^ 48 - 1) * 2 ^ 192))) ||| BitVec.ofNat 256 (d.loc (m.word.extractLsb' 192 48).toNat * 2 ^ 192) else w
  { m with word := w, kb := d.capt m.kb, kc := d.capt m.kc, by_ := d.holder m.by_ }
def Shift.channel (d : Shift) (x : Channel) : Channel :=
  { x with
    src := d.loc x.src, dst := d.loc x.dst, dsts := x.dsts.map d.loc, table := d.loc x.table, starter := d.holder x.starter, faddr := d.loc x.faddr,
    charged := x.charged.map d.holder, mailbox := x.mailbox.map d.mailbox, pins := x.pins.map d.capt, after := [] }
def Shift.gate (d : Shift) (g : Gate) : Gate :=
  { g with counted := g.counted.map fun a => { a with ctx := d.holder a.ctx }, waiting := g.waiting.map fun a => { a with ctx := d.holder a.ctx } }
/-- What a core keeps over a re-binding, SLEEP_CTL among it (R36, R287); its rotation, its commands and its sleep are those of the new core. -/
def Shift.coreState (d : Shift) (old new : Core) : Core :=
  { new with
    staged := old.staged, committing := old.committing, commit := some (old.commit.getD old.slots), entryDelay := old.entryDelay, maxDepth := old.maxDepth, queues := old.queues.map fun q => q.map fun e => { e with by_ := d.holder e.by_ },
    boxes := old.boxes.map fun b => b.map d.mailbox, served := old.served.map fun b => (b.1, d.mailbox b.2), chans := old.chans.map d.channel,
    gates := old.gates.map d.gate, posted := old.posted }
def Shift.slot (d : Shift) (x : Slot) : Slot := { x with side := d.capt x.side, took := d.capt x.took, sender := if x.remote.isSome then x.sender else d.holder x.sender }
def Shift.ring (d : Shift) (r : Ring) : Ring := { r with origin := d.loc r.origin, owner := d.holder r.owner, slots := r.slots.map d.slot, owed := r.owed.map d.slot }

/-- The image of an evicted context, as its bytes and the model keep it (R289, R290): the bases of k0 to k15, FAULT_RING, and the ADDR of a record
that is not posted yet. -/
def Shift.image (d : Shift) (s : State) (adr : Nat) (x : Ctx) : State :=
  let at_ (o : Nat) : Nat := physLoc (adr + o)
  let put (t : State) (loc n v : Nat) : State := writeSealed t x.world (imageBarn s adr) loc n v
  let base (t : State) (o : Nat) : State :=
    let b := Cap.ofBits (BitVec.ofNat 128 (t.readLe (at_ o) 16)) 0
    put t (at_ o) 16 (d.capt b).bits.toNat
  let t := (List.range 16).foldl (fun t i => base t (64 + 192 + 16 * i)) s
  let t := put t (at_ 16) 8 (d.loc (t.readLe (at_ 16) 8))
  let t := match x.record with
    | some r =>
      let loc := d.loc (recordSlot x (imageBarn s adr) adr).2
      if r.value then t else put t (loc + 40) 8 (d.loc (t.readLe (loc + 40) 8))
    | none => t
  { t with images := mput Ctx.reset t.images adr (d.context x.resident x) }
where
  /-- The barn of the context of an image. -/
  imageBarn (s : State) (adr : Nat) : Nat := barnOf (homeOf (imageName s adr))

/-- A message to a ring of the launch, or an acknowledgement that waits for its evicted sender, names the ring where it is now (R231, R289). -/
def Shift.msg (d : Shift) (n : Nat) (m : Msg) : Msg :=
  if !m.far && (m.dest == n || (m.kind = .ack && m.launch == n)) then
    { m with port := d.loc m.port, from_ := if m.launch == n then d.holder m.from_ else m.from_ } else m

/-- A saved launch is restored on another rectangle (R57, R289, R291). The counters of the new barns stay
as they are (R323), and D goes on from what it was. -/
def restorePaddock (s : State) (n : Nat) (l : Launch) (x y : Nat) : State :=
  let d := shiftOf l x y
  let t := d.bs.foldl (fun t b =>
    let o := mget Barn.reset l.savedBarns b
    (clearBarn t (d.barn b) l.world n).modBarn (d.barn b) fun v => { v with
      tileLock := o.tileLock.map (·.map d.holder), tileClaim := o.tileClaim.map (·.map d.holder), tileWait := o.tileWait.map (·.map d.holder), pool := o.pool, landing := o.landing, colour := o.colour,
      m0 := o.m0, m1 := o.m1 }) s
  let t := l.savedMem.foldl (fun t c => t.writeByte (d.loc c.1) c.2) t
  let t := l.savedTags.foldl (fun t c => t.setTag (d.loc (64 * c.1)) c.2) t
  let t := l.savedSlots.foldl (fun t c => t.setSlot (d.loc (16 * c.1)) (d.capt c.2)) t
  let t := l.savedPoison.foldl (fun t c => t.setPoison (d.loc (64 * c.1)) c.2) t
  let t := l.savedTiles.foldl (fun t c =>
    { t with tiles := mput 0 t.tiles (d.barn (c.1 / 65536) * 65536 + c.1 % 65536) c.2 }) t
  let t := l.savedRegs.foldl (fun t c =>
    { t with regs := mput 0 t.regs (d.core (c.1 / Config.fileRegs) * Config.fileRegs + c.1 % Config.fileRegs) c.2 }) t
  let t := l.savedRings.foldl (fun t r => t.setRing (d.loc r.1) (d.ring r.2)) t
  let t := l.savedCores.foldl (fun t c => (t.modCore (d.core c.1) fun v => d.coreState c.2 v).pushOnce (.slotTableTakesEffect (d.core c.1))) t
  let t := l.savedCores.foldl (fun t c => if c.2.committing.isEmpty then t else t.pushOnce (.slotCommit (d.core c.1))) t
  let t := l.saved.foldl (fun t p => t.setCtx (d.ctx p.1) { d.context (t.core (coreOf (d.ctx p.1))).rot p.2 with stopped := true }) t
  let t := l.saved.foldl (fun t p => if p.2.record.isSome then t.pushOnce (.faultRecordPost (d.ctx p.1)) else t) t
  let t := l.saved.foldl (fun t p => if p.2.wait == .sleep (some 0) then t.pushOnce (.sleepExpiry (d.ctx p.1)) else t) t
  let t := (t.images.filter fun p => p.2.launch == n).foldl (fun t p => d.image t p.1 p.2) t
  let t := { t with msgs := t.msgs.map (d.msg n) }
  let t := (l.savedCores.map fun c => d.core c.1).foldl (fun t i => (List.range 4).foldl (fun t g =>
    if (gateOf t i g).armed && (gateOf t i g).entered then t.pushOnce (.gateRelease i (BitVec.ofNat 2 g)) else t) t) t
  let t : State := (l.savedCores.map fun c => d.core c.1).foldl (fun t i => (List.range 8).foldl (fun t c =>
    if (chanOf t i c).state = 1 then beginBlocks t i c else t) t) t
  let t : State := { t with hitches := t.hitches.map fun h => if h.launch = n then
    { h with leaver := h.leaver.map d.holder, line := h.line.map fun e => (d.holder e.1, e.2) } else h }
  let past (c : Bool) : Word := colourSum (d.bs.map fun b => t.barn (d.barn b)) c - (colourSum (l.savedBarns.map (·.2)) c - l.sweptOf c)
  t.modLaunch n fun v => { v with
    px := x, py := y, bound := s.cycle, swept := (past false, past true), feedPort := v.feedPort.map d.loc, releases := v.releases.map fun r => (d.holder r.1, { r.2 with cap := d.capt r.2.cap }),
    saved := v.saved.map fun p => (d.ctx p.1, p.2), savedCores := [], savedRegs := [], savedTiles := [], savedBarns := [], savedMem := [],
    savedTags := [], savedSlots := [], savedPoison := [], savedRings := [] }

/-- Whether the saved windows of a launch lie beside those of the system contexts of their new cores (R7). -/
def windowsFree (s : State) (l : Launch) (x y : Nat) : Bool :=
  let d := shiftOf l x y
  l.saved.all fun p => [62, 63].all fun m =>
    let z := s.ctx (64 * d.core (coreOf p.1) + m)
    z.state == .absent || !meets z.wbase (8 * z.wsize) p.2.wbase (8 * p.2.wsize)

/-- PADDOCK_REBIND (R289, R366, R409): a pre-empted launch is re-bound on a rectangle of the same shape, in its turn among the
waiting launches (R364); a hitch is re-bound whole, by the commit of R365, in which a member that has left takes no part. -/
def execPaddockRebind (n x y : Nat) (s : State) : Out :=
  match s.launch? n with
  | none => .next s
  | some l =>
    let p := planOf l.desc n x y 0
    if l.stage ≠ .saved || l.cause ≠ 0 || !p.free s || !windowsFree s l x y || placedFirst s n l then .next s
    else
      let t := restorePaddock (s.did (.paddockRebind n x y)) n l x y
      let l' := ((t.launch? n)).getD l
      match t.hitches.find? (·.launch == n) with
      | none => .next (resumeLaunch t n l')
      | some h =>
        if h.stage = .left then .next (resumeLaunch t n l')
        else .next (reportPrepared (t.modLaunch n fun v => { v with stage := .placed }) { h with reported := [] })

end Sys2Proof.Machine
end

