-- ==== Sys2Proof/Machine/EvFabric.lean ====
section
/-! DEFINITION. What arrives over the fabric (R391 to R409): window requests and their replies, hitch control, and the ports (R388, R389,
R395). -/

namespace Sys2Proof.Machine

/-! Window requests at their member (R394, R398, R403). -/

/-- Whether `n` bytes at an offset lie in the slice of a member (R403). -/
def inSlice (l : Launch) (off n : Nat) : Bool := off + n ≤ ((l.desc.levels.head?).map (·.scope)).getD 0

/-- A request is answered: with a status, or with data and a tag. -/
def answer (s : State) (p : Packet) (r : Except FaultCode (State × Option (Nat × BitVec 16))) : Out :=
  match r with
  | .error f => .next (sendPacket s (replyTo p 0x06 f.code))
  | .ok (t, none) => .next (sendPacket t (replyTo p 0x06 0))
  | .ok (t, some (v, tag)) =>
    let q := { replyTo p 0x05 0 with width := p.width, btag := tag, tagged := p.tagged }
    .next (sendPacket t (if p.width = 64 then { q with flits := [BitVec.ofNat 512 v] } else { q with data := BitVec.ofNat 64 v }))

/-- A request of `n` bytes that passes the ingress checks is performed; one that fails them is answered with their status (R394). A write to the
pinned source of a multicast waits (R258), and a request to a slice that is pre-empted with its paddock does until it is re-bound (R366): it stays due. -/
def windowForm (s0 : State) (ev : Instr) (p : Packet) (n : Nat) (write : Bool) (f : State → Launch → Except FaultCode (State × Option (Nat × BitVec 16))) : Out :=
  let s := s0.gets ev p
  match ingress s p fun l => inSlice l p.off.toNat n && (!p.flagged || inSlice l p.foff.toNat 8) with
  | .error st => .next (sendPacket s (replyTo p 0x06 st))
  | .ok (_, l) =>
    if l.stage == .saved || write && pinnedSource s ((sliceLoc l p.off.toNat, n) :: if p.flagged then [(sliceLoc l p.foff.toNat, 8)] else []) then .next s0
    else answer s p (f s l)

/-- A part of a request at the member's slice. -/
def slicePrim (s : State) (loc : Nat) (q : Prim) : Except FaultCode (State × Got) :=
  if q.changes s loc && s.blockStashed loc then .error .capKind
  else match doPrim s loc 0 false q with | .ok r => .ok r | .error f => .error f.code

/-- The increment of the flag word of a request, after its data (R168, R398). -/
def sliceFlag (s : State) (l : Launch) (p : Packet) : Except FaultCode (State × Option (Nat × BitVec 16)) :=
  if p.flagged then do
    let (t, _) ← slicePrim s (sliceLoc l p.foff.toNat) .incr
    .ok (t, none)
  else .ok (s, none)

/-- WINDOW_READ (R398). -/
def execWindowRead (p : Packet) (s : State) : Out :=
  windowForm s (.windowRead p) p (max p.width 1) false fun s l => do
    let (t, g) ← slicePrim s (sliceLoc l p.off.toNat) (if p.tagged then .readBoth else .read p.width)
    .ok (t, some (if p.width = 0 then 0 else g.data % 2 ^ (8 * p.width), g.tag))

/-- WINDOW_WRITE (R398): up to 8 bytes, or a tag, and then the flag. -/
def execWindowWrite (p : Packet) (s : State) : Out :=
  windowForm s (.windowWrite p) p (max p.width 1) true fun s l => do
    let loc := sliceLoc l p.off.toNat
    let (t, _) ← (if p.tagged then slicePrim s loc (.writeTag p.btag)
      else if p.width = 0 then .ok (s, Got.none) else slicePrim s loc (.write p.width p.data.toNat))
    sliceFlag t l p

/-- WINDOW_WRITE_64 (R398, R169): 64 bytes, with a tag or without, and then the flag. -/
def execWindowWrite64 (p : Packet) (s : State) : Out :=
  windowForm s (.windowWrite64 p) p 64 true fun s l => do
    let loc := sliceLoc l p.off.toNat
    let v := (p.flits.head?.getD 0).toNat
    let (t, _) ← slicePrim s loc (if p.tagged then .writeBoth v p.btag else .write 64 v)
    sliceFlag t l p

/-- The operation and the type of a window atomic. -/
def atomicOf (c : BitVec 8) : AtomOp × ATy :=
  let o := match (c.extractLsb' 4 4).toNat with
    | 0 => AtomOp.swap | 1 => .add | 2 => .and | 3 => .or | 4 => .xor | 5 => .max | 6 => .min | _ => .cas
  let t := match (c.extractLsb' 0 4).toNat with
    | 2 => ATy.s32 | 3 => .s64 | 6 => .n32 | 7 => .n64 | 10 => .f32 | _ => .f64
  (o, t)

/-- WINDOW_ATOMIC (R398). -/
def execWindowAtomic (p : Packet) (s : State) : Out :=
  windowForm s (.windowAtomic p) p p.width true fun s l => do
    let (o, ty) := atomicOf p.aop
    let (t, g) ← slicePrim s (sliceLoc l p.off.toNat) (.rmw o ty p.data.toNat p.cmp.toNat)
    .ok (t, some (g.data, 0))

/-- BLOCK_COPIED (R371, R372, R374, R381, R391): a block of a channel lands in the slice, and a block or a slot of a byte copy in the run of its copy in
the receive pool; one for which the pool lacks a run is refused with back-pressure. -/
def execBlockCopied (p : Packet) (s : State) : Out :=
  let t := s.gets (.blockCopied p) p
  if p.tagged then
    windowForm s (.blockCopied p) p 64 true fun s l => do
      let (u, _) ← slicePrim s (sliceLoc l p.off.toNat) (.writeBoth (p.flits.head?.getD 0).toNat p.btag)
      .ok (u, none)
  else
    match ingress t p fun l => inPaddock l p.off.toNat with
    | .error st => .next (sendPacket t (replyTo p 0x06 st))
    | .ok (_, l) =>
      let b := locBarn (2 ^ 40 + p.off.toNat)
      match (if l.stage == .saved then none else landRun t b p) with
      | none => .next (sendPacket t (replyTo p 0x0B 0))
      | some (u, first) =>
        let loc := barnLoc b (Config.poolBase + 64 * first + p.foff.toNat)
        let u := if p.capv then u.setSlot loc (Cap.ofBits p.cap p.capTag)
          else blockAt (zeroSlots u loc 64) loc (p.flits.head?.getD 0).toNat p.btag
        .next (sendPacket u (replyTo p 0x06 0))

/-! Replies (R391). -/

/-- The fault that a status raises at the issuer (R394). -/
def statusFault (st : BitVec 8) (addr : Nat) : FaultInfo :=
  (fltAt (codeOf st) (if st = FaultCode.capRights.code then 13 else 0) addr).lateOf

/-- The writes of a chunk of lscale at a member (R210): the whole chunk in one packet of 64 bytes, or its words. A window write carries no byte mask
(R391), so the lanes of a word of which some are off travel one by one (log 9). -/
def postScaledFar (s : State) (c j off : Nat) (t : Ty) (mask : Word) (f v : Nat) (k : Cap) : State :=
  let ps := scaledParts t mask f v
  let y := scaledChunk t f v
  let put (s : State) (at_ n v : Nat) : State := postFar s c j (off + at_) (.store n (BitVec.ofNat 512 v)) k (.write n v)
  if ps.length = 8 && ps.all (fun p => p.2.2 == BitVec.allOnes 8) then postFar s c j off (.store 64 y) k (.write 64 y.toNat)
  else ps.foldl (fun s p =>
    if p.2.2 = BitVec.allOnes 8 then put s p.1 8 p.2.1
    else
      let n := t.width / 8
      ((List.range (8 / n)).filter fun i => p.2.2.getLsbD (n * i)).foldl (fun s i =>
        put s (p.1 + n * i) n (p.2.1 / 2 ^ (8 * n * i) % 2 ^ (8 * n))) s) s

/-- The data of a point of a long form has come from a member (R207, R210); the form goes on. -/
def longReply (s : State) (a : Access) (v : Nat) : State :=
  let i := pointOf s.me
  match a.op, nextPointOf a i with
  | .stream .scale t _ mask _ f, some q =>
    match routeOf s s.cur.ctx a.k (a.k.base.toNat + q.off).toNat with
    | .member j off => goOn (postScaledFar s s.cur.ctx j off t mask (f.toNat % 2 ^ t.width) v a.k) a (i + 1)
    | _ => goOn (absorbLong s a i v) a (i + 1)
  | _, some q => goOn (absorbLong s a q.at_ v) a (q.at_ + 1)
  | _, none => goOn (absorbLong s a i v) a (i + 1)

/-- The device address of a block that a matrix form asked of a member: that of its request. -/
def askedAddr (s : State) (p : Packet) : Nat :=
  let off := ((s.sent.reverse.find? fun q => q.type == 0x01 && q.txid == p.txid && q.dmem == p.smem).map (·.off.toNat)).getD 0
  2 ^ 47 + p.smem.toNat * 2 ^ 40 + off

/-- A member has answered wrep (R169): a data write whose flag word lies at another member is followed by that flag's increment. -/
def replicaReply (s : State) (a : Access) (p : Packet) : State :=
  match a.op with
  | .replicate r v foff left done bad =>
    match left.find? fun x => x.tx == p.txid.toNat && x.target == p.smem.toNat with
    | none => s
    | some x =>
      let left := left.erase x
      let (addr, flag) := replicaAddrs a foff x.member
      let (s, acc) :=
        if p.status ≠ 0 then (s, left, done, bad <|> some (statusFault p.status (if x.flag && memberOff addr ≠ memberOff flag && (memberOff addr).1 ≠ x.target then flag else addr)))
        else if x.flag then (s, left, done ++ [x.member], bad)
        else replicaFlag s a flag x.member (left, done, bad)
      keepReplicas s a r v foff acc
  | _ => s

/-- A reply reaches a waiting context (R161, R271, R398). -/
def waitingReply (s : State) (c : Nat) (p : Packet) (data : Option (Nat × BitVec 16)) : State :=
  match (s.ctx c).acc with
  | none => s
  | some a =>
    let t := actFor s c a.ins
    match a.op with
    | .replicate .. => replicaReply t a p
    | .matrix f tl kb c0 c1 c2 c3 u0 u1 refs far =>
      if p.status ≠ 0 then matrixLost t a (statusFault p.status (askedAddr s p))
      else
        let (v, tag) := data.getD (0, 0)
        (t.modMe fun x => { x with acc := some { a with op := .matrix f tl kb c0 c1 c2 c3 u0 u1 refs (far ++ [(askedAddr s p, v, tag)]) } }).pushOnce
          (.matrixKBlock c)
    | _ =>
      let addr := if a.op.isLong then (match nextPointOf a (pointOf (s.ctx c)) with | some q => (a.k.base.toNat + q.off).toNat | none => a.addr) else a.addr
      if p.status ≠ 0 then longFault t a (statusFault p.status addr)
      else
        let (v, tag) := data.getD (0, 0)
        if a.op.isLong then longReply t a v else absorb t a { data := v, tag := tag, cap := Cap.null }

/-- The message whose packet a reply answers. -/
def repliedMsg (s : State) (p : Packet) : Option Msg := s.msgs.find? fun m => m.far && !m.copy && m.kind ≠ .ack && m.id % 2 ^ 14 == p.txid.toNat

/-- A message has been received at its member, or refused there (R230, R231, R236, R240, R394). -/
def msgReply (s : State) (m : Msg) (st : BitVec 8) : State :=
  if st = 0 then (if m.kind = .recall then dropMsg s m.id else msgDone s m)
  else
    let f := if st = FaultCode.vrtDup.code then (fltVal .vrtDup 11 m.vrt).lateOf else statusFault st 0
    let s := if st = FaultCode.capRights.code || st = FaultCode.hitchGone.code then countHere s m else s
    match m.kind with
    | .timed => refuseTimed s m f
    | .recall => recallRefused (dropMsg s m.id) m.port m.vrt (if st = FaultCode.recallOverflow.code then (flt .recallOverflow).lateOf else f)
    | _ => refuseMsg s m f
where
  /-- A message that its package refused before it met a ring is no longer in transit (R323, R393): its sender's barn counts it. -/
  countHere (s : State) (m : Msg) : State :=
    match m.colour with
    | none => s
    | some c => s.modBarn (barnOf m.from_) fun x => if c then { x with r1 := x.r1 + 1 } else { x with r0 := x.r0 + 1 }

/-- The message whose byte copy has blocks on their way. -/
def copyMsg (s : State) (src : Source) : Option Msg := s.msgs.find? fun m => m.far && m.kind ≠ .ack && m.source == src

/-- A join that its member refuses (R394, R406): the attachment is Detached, and the joining contexts raise the fault; a group that waits to leave goes
on (R408). -/
def refuseJoin (s : State) (h : Hitch) (j : Nat) (st : BitVec 8) : State :=
  let t := modHitch s h.id fun h => { h with attach := mput .detached h.attach j .detached }
  let t := (s.ctxs.filter fun p => p.2.launch == h.launch && p.2.state == .waiting && h.leaver ≠ some p.1).foldl (fun t p =>
    match p.2.wait with
    | .acks left => if left.contains j then raise (actHeld t p.1) (statusFault st (2 ^ 47 + j * 2 ^ 40)) else t
    | _ => t) t
  advanceExit t h.id

/-- A detach is complete: the contexts that wait for it, and a group that leaves, go on (R251, R405). -/
def detached (s : State) (h : Hitch) (j : Nat) : State :=
  advanceExit (acked (modHitch s h.id fun h => { h with attach := mput .detached h.attach j .detached }) h j) h.id

/-- A member's answer to a withdrawal is in (R407). -/
def withdrawalHeard (s : State) (h : Hitch) (j : Nat) : State :=
  if h.stage = .withdrawing then advanceExit (modHitch s h.id fun h => h.hears j) h.id else s

/-- The hitch of the group to which a reply is, whether the group has left or not: HITCH, WORLD, GEN and DMEM name it (R394). DESIGN CHOICE (log 23): a
reply or a refusal that names none is dropped without an answer, since R394 speaks of its source as of the issuer of a request; safe. -/
def repliedHitch (s : State) (p : Packet) : Option Hitch :=
  s.hitches.find? fun h => h.id == p.hitch.toNat && h.world == p.world && h.gen == p.gen && h.me == p.dmem.toNat

/-- The refusal of a hitch control packet (R394), which has no transaction number: a join is refused; a member that has left is detached from (R251), and
need not acknowledge a withdrawal (R449). -/
def controlRefused (s : State) (h : Hitch) (p : Packet) : State :=
  let j := p.smem.toNat
  match h.attachOf j with
  | .joining => refuseJoin s h j p.status
  | .detaching => detached s h j
  | _ => withdrawalHeard s h j

/-- A reply reaches its requester (R391, R394). -/
def reply (s : State) (p : Packet) (data : Option (Nat × BitVec 16)) : State :=
  match repliedHitch s p with
  | none => s
  | some h =>
  match s.txs.find? fun t => t.1 == p.txid.toNat && t.2.2 == p.smem.toNat with
  | none => if p.txid = 0 && p.status ≠ 0 then controlRefused s h p else s
  | some tx =>
    let s := { s with txs := s.txs.erase tx }
    match repliedMsg s p with
    | some m => if m.source == tx.2.1 then msgReply s m p.status else byCopy s tx.2.1
    | none => byCopy s tx.2.1
where
  /-- A block of a byte copy, or another request. -/
  byCopy (s : State) (src : Source) : State :=
    match copyMsg s src with
    | some m => if p.status = 0 then s else refuseSend s m (statusFault p.status 0)
    | none =>
      match src with
      | .chan i n => chanReply s i n p.txid.toNat p.status data
      | .release l => if p.status = 0 then releaseDone s l else dropRelease s l
      | .ctx c =>
        match s.posted.find? fun q => q.src == c && q.txid == some p.txid.toNat with
        | some q => { s with posted := s.posted.filter (·.id ≠ q.id) }
        | none => waitingReply s c p data

/-- The hitch that a control or a sweep packet is for, or the status of its refusal (R394); a member that withdraws still answers (R449). -/
def hitchFor (s : State) (p : Packet) : Except (BitVec 8) Hitch :=
  match s.hitches.find? fun h => h.id == p.hitch.toNat && h.world == p.world && h.gen == p.gen with
  | none => .error FaultCode.capRights.code
  | some h => if h.me ≠ p.dmem.toNat || h.stage == .left then .error FaultCode.hitchGone.code else .ok h

/-- A GVT sweep packet (R400): member 0 gathers what the members return, and they sweep, or take the new GVT.
A packet that has overtaken another waits for it (R393): a flip sweep for the end of the round before, and a count sweep for the flip sweep of its own round,
whose old colour it carries. -/
def gvtPacket (s : State) (h : Hitch) (p : Packet) : State :=
  let n := h.launch
  let l := s.launch? n
  if h.me = 0 then
    if (l.map fun l => l.sums.any (·.1 == p.smem.toNat)).getD true then s
    else (s.modLaunch n fun l => { l with sums := l.sums ++ [(p.smem.toNat, p.data, p.vrt)] }).pushOnce (.countSweep n)
  else
    let round := l.bind (·.round)
    if p.btag = 1 then (if round.isSome then s.pushOnce (.replyWithData p) else s.pushOnce (.flipSweep n))
    else if p.btag = 2 then (if round = some p.col then s.pushOnce (.countSweep n) else s.pushOnce (.replyWithData p))
    else if round = some p.col then endRound s n p.vrt
    else s

/-- REPLY_WITH_DATA (R391); the packets of the sweeps across the fabric come by it too (R400, R401). -/
def execReplyWithData (p : Packet) (s : State) : Out :=
  let t := s.gets (.replyWithData p) p
  if p.type = 0x0C || p.type = 0x0D then
    match hitchFor s p with
    | .ok h =>
      if p.type = 0x0D then .next (gvtPacket t h p)
      else
        match s.launch? h.launch with
        | some l => (match gateArrives t h.launch l p with | some u => .next u | none => .next (s.pushOnce (.replyWithData p)))
        | none => .next t
    | .error st => .next (sendPacket t (replyTo p 0x06 st))
  else .next (reply t p (some (if p.flits = [] then p.data.toNat else (p.flits.head?.getD 0).toNat, p.btag)))

/-- REPLY_STATUS (R391). -/
def execReplyStatus (p : Packet) (s : State) : Out := .next (reply (s.gets (.replyStatus p) p) p none)

/-- REFUSAL (R376, R391, R399): a message refused with back-pressure is sent again, and so is a block of a channel; a byte copy of which a part is
refused is made again. -/
def execRefusal (p : Packet) (s : State) : Out :=
  let t := s.gets (.refusal p) p
  if (repliedHitch s p).isNone then .next t else
  match s.txs.find? fun t => t.1 == p.txid.toNat && t.2.2 == p.smem.toNat with
  | none => .next t
  | some tx =>
    let u := { t with txs := t.txs.erase tx }
    match repliedMsg s p with
    | some m => if m.source == tx.2.1 then .next (u.push (.backPressureResend m.id)) else .next (refused u tx.2.1)
    | none => .next (refused u tx.2.1)
where
  refused (s : State) (src : Source) : State :=
    match copyMsg s src with
    | some m => if m.copy then s else copyAgain s m
    | none => match src with | .chan i n => chanRefused s i n p.txid.toNat | _ => s

/-! Hitch formation over the fabric (R365, R402). -/

/-- The hitch that a formation packet is for; its generation is the lead's to give (R402). -/
def formingFor (s : State) (p : Packet) : Option (Hitch × Launch) :=
  match s.hitches.find? fun h => h.id == p.hitch.toNat && h.me == p.dmem.toNat with
  | some h => (s.launch? h.launch).bind fun l => if l.stage = .placed then some (h, l) else none
  | none => none

/-- A launch that waits and belongs to a hitch. -/
def waitingMember (s : State) (p : Packet) : Option (Nat × Launch) :=
  s.launches.find? fun x => x.2.stage == .queued && x.2.desc.hitched && x.2.desc.hitchId == p.hitch.toNat && x.2.desc.member == p.dmem.toNat

/-- Whether a formation packet waits: its launch has not come to this package yet or waits for its paddock, or it is to be re-bound (R365, R366). -/
def formsLater (s : State) (p : Packet) : Bool :=
  let mine := s.launches.filter fun x =>
    x.2.desc.hitched && x.2.desc.hitchId == p.hitch.toNat && x.2.desc.member == p.dmem.toNat && x.2.stage ≠ .closed
  mine.isEmpty || mine.any fun x => x.2.stage == .queued || x.2.stage == .saved || x.2.stage == .noticed

/-- HITCH_PREPARED (R56, R365, R402): it waits for the lead to have prepared; a member whose record does not agree in world, member count, REPRO or
SCOPE, or whose number is held already, aborts the formation. -/
def execHitchPrepared (p : Packet) (s : State) : Out :=
  let t := s.gets (.hitchPrepared p) p
  match formingFor s p with
  | none => if formsLater s p then .next (s.pushOnce (.hitchPrepared p)) else .next t
  | some (h, l) =>
    if h.me ≠ 0 then .next t
    else if p.world ≠ h.world || p.data ≠ preparedData h || h.count ≤ p.smem.toNat || h.reported.contains p.smem.toNat then
      .next (abortFormation (abortMembers t h) h.launch l 0x86)
    else
      let h' := { h with reported := h.reported ++ [p.smem.toNat], modes := mput h.repro h.modes p.smem.toNat (p.data.getLsbD 8) }
      .next (commitAllMembers (setHitch t h') h')

/-- HITCH_COMMIT (R365): one that comes before its launch is placed waits for it. -/
def execHitchCommit (p : Packet) (s : State) : Out :=
  let t := s.gets (.hitchCommit p) p
  match formingFor s p with
  | some (h, _) => if p.smem = 0 then .next (commitHere t h p.gen) else .next t
  | none => if formsLater s p then .next (s.pushOnce (.hitchCommit p)) else .next t

/-- HITCH_ABORT (R365, R402): the contexts and the paddock are released; the lead tells every member but the one that has told it. -/
def execHitchAbort (p : Packet) (s : State) : Out :=
  let t := s.gets (.hitchAbort p) p
  match formingFor s p with
  | some (h, l) => .next (abortFormation (if h.me = 0 then tellOthers t h p.smem.toNat else t) h.launch l 0x86)
  | none =>
    match waitingMember s p with
    | some (n, l) =>
      let u := refuseLaunch t n l 0x86
      .next (if l.desc.member = 0 then tellOthers u (newHitch s n l) p.smem.toNat else u)
    | none => if formsLater s p then .next (s.pushOnce (.hitchAbort p)) else .next t
where
  /-- The lead tells the members but one. -/
  tellOthers (s : State) (h : Hitch) (from_ : Nat) : State :=
    ((present h).filter (· ≠ from_)).foldl (fun t j => sendPacket t (control t h j 3)) s

/-! Joining and leaving (R405 to R407). -/

/-- An answer to a control packet. -/
def acknowledgeTo (s : State) (h : Hitch) (j : Nat) (st : BitVec 8) : State := sendPacket s { control s h j 6 with status := st }

/-- HITCH_JOIN_REQUEST (R405, R406): a member that has sent its exit notice acknowledges no join. -/
def execHitchJoinRequest (p : Packet) (s : State) : Out :=
  let t := s.gets (.hitchJoinRequest p) p
  match hitchFor s p with
  | .error st => .next (sendPacket t (replyTo p 0x06 st))
  | .ok h =>
    if h.memberOf h.me ≠ .resident then .next (acknowledgeTo t h p.smem.toNat FaultCode.hitchGone.code)
    else .next (acknowledgeTo (setHitch t { h with holders := h.holders ++ [p.smem.toNat] }) h p.smem.toNat 0)

/-- The hitch of this package's group for which a request of its own waits to leave. -/
def sendingHitch (s : State) (p : Packet) : Option Hitch :=
  s.hitches.find? fun h => h.id == p.hitch.toNat && h.world == p.world && h.gen == p.gen && h.me == p.smem.toNat && h.attachOf p.dmem.toNat == .detaching

/-- HITCH_DETACH_REQUEST (R252, R405): a request of another package's group is acknowledged; one of this package's leaves once every access of the
group to the member has been performed (R251, R298, R304). -/
def execHitchDetachRequest (p : Packet) (s : State) : Out :=
  if p.drow.toNat ≠ s.row || p.dcol.toNat ≠ s.col then
    match sendingHitch s p with
    | some h =>
      if groupBusy s h p.dmem.toNat then .next s else .next (sendPacket (s.did (.hitchDetachRequest p)) (control s h p.dmem.toNat 5))
    | none => .next (s.did (.hitchDetachRequest p))
  else
  let t := s.gets (.hitchDetachRequest p) p
  match hitchFor s p with
  | .error st => .next (sendPacket t (replyTo p 0x06 st))
  | .ok h => .next (advanceExit (acknowledgeTo (setHitch t { h with holders := h.holders.filter (· ≠ p.smem.toNat) }) h p.smem.toNat 0) h.id)

/-- HITCH_ACKNOWLEDGE (R250 to R252, R405): a join is complete, and undone where the group is leaving (R408); a detach is complete once the
group's accesses to the member are performed; and a withdrawal goes on. -/
def execHitchAcknowledge (p : Packet) (s : State) : Out :=
  let t := s.gets (.hitchAcknowledge p) p
  let j := p.smem.toNat
  match hitchFor s p with
  | .error st => .next (sendPacket t (replyTo p 0x06 st))
  | .ok h =>
    match h.attachOf j with
    | .joining =>
      if p.status ≠ 0 then .next (refuseJoin t h j p.status)
      else
        let u := acked (modHitch t h.id fun h => { h with attach := mput .detached h.attach j .attached }) h j
        .next (if h.stage = .leaving then startDetach u h j else u)
    | .detaching =>
      if groupBusy s h j then .next (s.pushOnce (.hitchAcknowledge p)) else .next (detached t h j)
    | _ => .next (withdrawalHeard t h j)

/-- The contexts of a group. -/
def groupCtxs (s : State) (h : Hitch) : List Nat := (s.launchCtxs h.launch).filter fun c => !(s.ctx c).sup

/-- EXIT_NOTICE (R283, R407): the sender is Holding, unless it is Gone already, and HITCH_NOTICE is pending in every context of an attached group,
evicted ones among them. -/
def execExitNotice (p : Packet) (s : State) : Out :=
  let t := s.gets (.exitNotice p) p
  let j := p.smem.toNat
  match hitchFor s p with
  | .error st => .next (sendPacket t (replyTo p 0x06 st))
  | .ok h =>
    if h.memberOf j == .gone then .next t
    else
      let u := modHitch t h.id fun h => { h with member := mput .resident h.member j .holding }
      if h.attachOf j == .attached then .next (pendAway ((groupCtxs s h).foldl (fun u c => pend u c 4) u) h.launch 4) else .next u

/-- The hitch gate of a package's paddock (R401): its cores that hold one armed. -/
def hitchGateCores (s : State) (h : Hitch) : List Nat :=
  match s.launch? h.launch with
  | some l => (coresOfBarn (barnAt l.px l.py)).filter fun i =>
      (gateOf s i 3).armed && (hitchGate s l h.launch 3 (gateDesc (gateOf s i 3).desc)).isSome
  | none => []

/-- The hitch gates of a package whose member is Gone here (R401): they no longer wait for it, and those of a member that remains go into error when
it was member 0. DEDUCED (log 30): a member that has begun to leave does not remain (R452); safe. -/
def gatesWithout (s : State) (h : Hitch) (j : Nat) : State :=
  (hitchGateCores s h).foldl (fun u i =>
    if j = 0 && h.stage = .bound then gateFails u i 3 else if allEntered u i 3 then u.pushOnce (.gateRelease i 3) else u) s

/-- WITHDRAW (R401, R405, R407): the sender is Gone, and is told so. -/
def execWithdraw (p : Packet) (s : State) : Out :=
  let t := s.gets (.withdraw p) p
  let j := p.smem.toNat
  match hitchFor s p with
  | .error st => .next (sendPacket t (replyTo p 0x06 st))
  | .ok h =>
    let u := modHitch t h.id fun h => { h with member := mput .resident h.member j .gone, holders := h.holders.filter (· ≠ j) }
    .next (advanceExit (gatesWithout (acknowledgeTo u h j 0) h j) h.id)

/-! Ports. -/

/-- LINK_REPLAY (R388, R389): after 16 replays in a row the port retrains. -/
def execLinkReplay (n : Nat) (s : State) : Out :=
  let x := s.port n
  if x.state ≠ 2 then .next s
  else
    let t := s.did (.linkReplay n)
    if 15 ≤ x.streak then .next (t.setPort n { x with replays := x.replays + 1, streak := 0, state := 3 })
    else .next (t.setPort n { x with replays := x.replays + 1, streak := x.streak + 1 })

/-- PORT_RETRAIN (R388): a port that fails to retrain is taken down. -/
def execPortRetrain (n : Nat) (ok : Bool) (s : State) : Out :=
  let x := s.port n
  if x.state ≠ 3 then .next s
  else
    let t := s.did (.portRetrain n ok)
    if ok then .next (t.setPort n { x with state := 2, streak := 0 }) else .next (t.pushOnce (.portDown n))

/-- What a group awaits of a member that no route reaches is over (R395): its open transactions return with HITCH_GONE, as a join does; a detach or a
withdrawal no longer waits for it, nor do its hitch gates. -/
def loseMember (s : State) (h : Hitch) (j : Nat) : State :=
  let back (tx : Nat) : Packet := { replyTo (control s h j 0) 0x06 FaultCode.hitchGone.code with txid := BitVec.ofNat 14 tx }
  let t := (s.txs.filter fun x => x.2.2 == j && ofGroup s h x.2.1).foldl (fun t x => reply t (back x.1) none) s
  let t := match h.attachOf j with
    | .joining => refuseJoin t h j FaultCode.hitchGone.code
    | .detaching => detached t h j
    | _ => withdrawalHeard t h j
  gatesWithout (modHitch t h.id fun h => { h with attach := mput .detached h.attach j .detached }) h j

/-- A hitch that includes an unreachable package is terminated (R293, R395): the members that no route reaches are Gone here. -/
def cutOff (s : State) (h : Hitch) : State :=
  let lost := (present h).filter fun j => !reachable s (mget (0, 0) h.place j).1 (mget (0, 0) h.place j).2
  if lost = [] || h.stage == .left then s
  else
    let h' := { h with
      member := lost.foldl (fun m j => mput .resident m j .gone) h.member, holders := h.holders.filter fun j => !lost.contains j }
    let t := lost.foldl (fun t j => loseMember t ((hitchById t h.id).getD h') j) (setHitch s h')
    terminateLaunch (advanceExit t h.id) h.launch 0x84

/-- PORT_DOWN (R388, R395). -/
def execPortDown (n : Nat) (s : State) : Out :=
  let t := (s.did (.portDown n)).setPort n { s.port n with state := 0, streak := 0 }
  .next (t.hitches.foldl cutOff t)

/-- UNKNOWN_PACKET_TYPE (R391): the packet is dropped, and counted in REPLAYS of the port by which it came. -/
def execUnknownPacketType (p : Packet) (s : State) : Out :=
  if 1 ≤ p.type.toNat && p.type.toNat ≤ 0x0F then .next s
  else
    let n := arrivalPort s p
    .next ((s.did (.unknownPacketType p)).setPort n { s.port n with replays := (s.port n).replays + 1 })

end Sys2Proof.Machine
end

