-- ==== Sys2Proof/Machine/EvHost.lean ====
section
/-! DEFINITION. The host and the security controller: exported regions (R418 to R421), SPDM (R423, R424, R428), TDISP (R425), alarms (R426),
scrub receipts (R427), and what registers read (R348, R356 to R359, R377, R389, R411, R414, R418, R425, R435, R441). -/

namespace Sys2Proof.Machine

/-! TDIs (R425). -/

/-- The keys of the exported regions of a world (R418). -/
def regionsOf (s : State) (w : Nat) : List Nat := (s.regions.filter fun p => p.2.live && p.2.exported && p.2.world.toNat == w).map (·.1)

/-- The host's window of a region is closed: its private version is discarded, or its handle ends (R188, R418, R420). -/
def closeWindow (s : State) (key : Nat) : State :=
  let r := s.region key
  match r.host with
  | none => s
  | some v => if r.privHost then discardPrivate s key { r with host := none } else putRegion s key ({ r with host := none }.dropHandle v)

/-- The launches of a world that are not closed. -/
def launchesOf (s : State) (w : Nat) : List Nat := (s.launches.filter fun p => p.2.world.toNat == w && p.2.stage ≠ .closed).map (·.1)

/-- The launches of a world are terminated (R293). -/
def endWorld (s : State) (w : Nat) (cause : BitVec 8) : State := (launchesOf s w).foldl (fun t n => terminateLaunch t n cause) s

/-- A TDI enters ERROR (R425): its launches are terminated, its queues stop, and its hosts lose their private versions (R420). -/
def tdiError (s : State) (w : Nat) : State :=
  if (s.tdi w).state = .error then s
  else
    let t := endWorld (s.setTdi w { s.tdi w with state := .error }) w 0x82
    (regionsOf t w).foldl (fun t k => if (t.region k).privHost then closeWindow t k else t) t

/-- The TDIs of the package. -/
def allTdis : List Nat := (List.range 255).map (· + 1)

/-- A session is lost (R425): a TDI that is locked or runs under it enters ERROR. -/
def loseSession (s : State) (id : Nat) : State :=
  let bound := allTdis.filter fun w => (s.tdi w).session == some id
  bound.foldl (fun t w =>
    let u := if (t.tdi w).state = .locked || (t.tdi w).state = .run then tdiError t w else t
    u.setTdi w { u.tdi w with session := none }) s

/-- A session ends. -/
def dropSession (s : State) (id : Nat) : State := loseSession { s with sessions := s.sessions.filter (·.id ≠ id) } id

/-- A security alarm is raised (R426): every TDI enters ERROR, the alarm's bit is set, and a supply alarm wipes the key store. -/
def raiseAlarm (s : State) (k : Alarm) : State :=
  allTdis.foldl tdiError { s with alarms := if s.alarms.contains k then s.alarms else s.alarms ++ [k], keys := s.keys && k ≠ .supply }

/-! Exported regions (R418 to R421). -/

/-- Whether a host may use a region: it is exported, and its TDI is in RUN (R411, R418, R425). -/
def hostMay (s : State) (key : Nat) : Bool := (s.region key).live && (s.region key).exported && (s.tdi (s.region key).world.toNat).state == .run

/-- A host command whose TDI is not in RUN is discarded, and counted (R411). -/
def hostCommand (s : State) (key : Nat) (f : State → State) : Out :=
  .next (if hostMay s key then f s else countDiscard s (s.region key).world.toNat)

/-- OPEN_LATEST (R418): the window shows the latest version. -/
def execOpenLatest (key : Nat) (s : State) : Out :=
  hostCommand (s.did (.openLatest key)) key fun s =>
    let t := closeWindow s key
    let r := t.region key
    openRead t key { r with host := some r.latest, vernum := BitVec.ofNat 32 r.latest, status := 0 }

/-- OPEN_PRIVATE (R418): refused with STATUS 2 while the region has 64 versions or a private one. -/
def execOpenPrivate (key : Nat) (s : State) : Out :=
  hostCommand (s.did (.openPrivate key)) key fun s =>
    let r := s.region key
    if !r.mayOpen then s.setRegion key { r with status := 2 }
    else
      let t := closeWindow s key
      let r := t.region key
      openPrivate t key { r with host := some (r.latest + 1), vernum := BitVec.ofNat 32 (r.latest + 1), status := 0 } true

/-- PUBLISH (R418, R419, R187). -/
def execPublish (key : Nat) (s : State) : Out :=
  hostCommand (s.did (.publish key)) key fun s =>
    let r := s.region key
    if r.privHost && r.host == r.priv then publishPrivate s key { r with host := none, status := 0 } else s

/-- CLOSE (R418, R188). -/
def execClose (key : Nat) (s : State) : Out :=
  hostCommand (s.did (.close key)) key fun s =>
    let t := closeWindow s key
    t.setRegion key { t.region key with status := 0 }

/-- The sessions to which a TDI is bound (R425). -/
def boundSessions (s : State) : List Nat := ((s.tdis.filterMap fun p => p.2.session)).eraseDups

/-- HOST_LOSS (R420, R425): the host's private version is discarded. A link that goes down closes every window and loses every session to which a TDI is
bound; the reset of a function loses none. -/
def execHostLoss (loss : HostLoss) (s : State) : Out :=
  let t := s.did (.hostLoss loss)
  match loss with
  | .functionReset key => .next (closeWindow t key)
  | .linkDown key =>
    let u := closeWindow t key
    .next ((boundSessions u).foldl dropSession ((u.regions.map (·.1)).foldl closeWindow u))

/-- CXL_MEM_ACCESS (R418 to R421): a read of the window gives a line of the version that it shows; a write reaches a private version only,
and is discarded after a loss. -/
def execCxlMemAccess (key off : Nat) (wr : Bool) (line : BitVec 512) (s : State) : Out :=
  let t := s.did (.cxlMemAccess key off wr line)
  let r := s.region key
  let say (t : State) (v : Option Block) : State := { t with answers := t.answers ++ [.line key off v] }
  if !hostMay s key || r.length ≤ off || off % 64 ≠ 0 then .next (countDiscard t r.world.toNat)
  else
    match r.host with
    | none => if wr then .next t else .next { say t (some (Config.closedLine t.free)) with free := t.free + 1 }
    | some v =>
      let loc := versionLoc key v off
      if wr then
        if withdrawn s loc || !r.privHost then .next t else .next (t.writeLe loc 64 line.toNat)
      else .next (say t (if unreadable s loc then none else some (BitVec.ofNat 512 (s.readLe loc 64))))

/-! Withdrawal of extents (R421, R427). -/

/-- EXTENT_WITHDRAW (R421): from now on requests to the extent return poison. -/
def execExtentWithdraw (first len : Nat) (s : State) : Out :=
  .next { s.did (.extentWithdraw first len) with extents := s.extents ++ [(first, len, false)] }

/-- The world of an extent: that of the region whose versions it holds, or world 0 (log 21). -/
def extentWorld (first : Nat) : BitVec 8 := if 2 ^ 100 ≤ first then BitVec.ofNat 8 ((first - 2 ^ 100) / 2 ^ 64 / 2 ^ 48) else 0

/-- Scrubs a range, and issues its receipt (R427). -/
def scrubRange (s : State) (world : BitVec 8) (first len : Nat) : State :=
  let (t, bad) := wipePieces s 0 world ((piecesOf first len).map fun p => (p.1, p.2, false))
  { t with receipts := t.receipts ++ [makeReceipt s world first len bad] }

/-- WITHDRAW_COMPLETE (R421): once the accepted requests have drained, the extent is scrubbed and a receipt issued. -/
def execWithdrawComplete (first len : Nat) (s : State) : Out :=
  let busy := (s.posted.any fun p => meets p.loc (p.op.extent 0).2 first len)
    || s.ctxs.any fun p => match p.2.acc.bind (·.at_) with | some (loc, _) => meets loc 64 first len | none => false
  if !s.extents.contains (first, len, false) || busy then .next s
  else
    let t := s.did (.withdrawComplete first len)
    let u := scrubRange { t with extents := t.extents.erase (first, len, false) } (extentWorld first) first len
    .next { u with extents := u.extents ++ [(first, len, true)] }

/-! SPDM (R423, R424, R428). -/

/-- Whether the security controller answers SPDM (R432, R433). -/
def spdmUp (s : State) : Bool := s.power ≠ .off && s.boot.mode ≠ .starting

/-- An answer is sent. -/
def say (s : State) (a : Answer) : State := { s with answers := s.answers ++ [a] }
/-- A request of the controller that needs no session, and its answer. -/
def answerPlain (s : State) (a : Answer) : Out := .next (if spdmUp s then say s a else s)
def plainRequest (s : State) (fn code body : Nat) : Out := answerPlain s (.spdm fn code body)
/-- The body of an answer that the spec names and gives no contents for (log 12). -/
def openBody (s : State) (code : Nat) : Nat := Config.answerBody code s.free

/-- GET_VERSION (R423): SPDM 1.3 (R410). -/
def execGetVersion (fn : Nat) (s : State) : Out := answerPlain (s.did (.getVersion fn)) (.version fn 1 3)
/-- GET_CAPABILITIES (R423). -/
def execGetCapabilities (fn : Nat) (s : State) : Out := plainRequest (s.did (.getCapabilities fn)) fn 0xE1 (openBody s 0xE1)
/-- NEGOTIATE_ALGORITHMS (R423): the one choice of each kind. -/
def execNegotiateAlgorithms (fn : Nat) (s : State) : Out :=
  answerPlain (s.did (.negotiateAlgorithms fn)) (.algorithms fn "ML-DSA-65" "SHAKE256, 64 bytes" "ML-KEM-768" "AES-256-GCM")
/-- GET_DIGESTS (R423): the digest of the chain in slot 0. -/
def execGetDigests (fn : Nat) (s : State) : Out := plainRequest (s.did (.getDigests fn)) fn 0x81 Config.certificateDigest.toNat
/-- GET_CERTIFICATE (R423): the chain in slot 0. -/
def execGetCertificate (fn : Nat) (s : State) : Out := plainRequest (s.did (.getCertificate fn)) fn 0x82 Config.certificateChain
/-- CHALLENGE (R423): signed with the identity key over a fresh nonce. -/
def execChallenge (fn : Nat) (s : State) : Out :=
  plainRequest { s.did (.challenge fn) with free := s.free + 1 } fn 0x83 (Config.signature [(Config.freeNonce s.free).toNat])

/-- The measurement block of an index (R424); block 6 also tells whether debug was entered (R426). -/
def measurementOf (s : State) (index : Nat) : BitVec 512 := Config.measurement (if index = 6 && s.debugged then 8 else index)

/-- GET_MEASUREMENTS (R424). -/
def execGetMeasurements (fn index : Nat) (s : State) : Out :=
  let t := s.did (.getMeasurements fn index)
  if !spdmUp s then .next t
  else if 1 ≤ index && index ≤ 7 then .next (say t (.spdm fn 0xE0 (measurementOf s index).toNat))
  else .next (say t (.error fn "InvalidRequest"))

/-- The sessions that a function may open (R423). -/
def sessionShare (fn : Nat) : Nat := if fn = 0 then 8 else 1

/-- KEY_EXCHANGE (R423): beyond its function's share it is answered with ERROR Busy. A session that begins in package sleep is suspended as the others
are (R428, log 21). -/
def execKeyExchange (fn : Nat) (s : State) : Out :=
  let t := s.did (.keyExchange fn)
  if !spdmUp s then .next t
  else if sessionShare fn ≤ (s.sessions.filter (·.fn == fn)).length then .next (say t (.error fn "Busy"))
  else
    let n : Session := { id := s.stamp, fn := fn, open_ := false, suspended := s.power == .sleep }
    .next (say { t with sessions := t.sessions ++ [n], stamp := t.stamp + 1, free := t.free + 1 } (.spdm fn 0xE4 (openBody s 0xE4)))

def sessionById (s : State) (id : Nat) : Option Session := s.sessions.find? (·.id == id)
def modSession (s : State) (id : Nat) (f : Session → Session) : State := { s with sessions := s.sessions.map fun x => if x.id == id then f x else x }

/-- A message of a session (R428): a suspended one needs KEY_UPDATE first. -/
def inSession (s : State) (id : Nat) (f : Session → Out) : Out :=
  match sessionById s id with
  | none => .next s
  | some x => if !spdmUp s then .next s else if x.suspended then .next (say s (.error x.fn "RequestResynch")) else f x

/-- A message of a session that FINISH has completed. -/
def inOpen (s : State) (id : Nat) (f : Session → Out) : Out := inSession s id fun x => if x.open_ then f x else .next s

/-- FINISH (R423). -/
def execFinish (id : Nat) (s : State) : Out :=
  let t := s.did (.finish id)
  inSession t id fun x => .next (say (modSession t id fun y => { y with open_ := true }) (.spdm x.fn 0xE5 (openBody s 0xE5)))

/-- KEY_UPDATE (R428): it ends the suspension of a session once the package has resumed. -/
def execKeyUpdate (id : Nat) (s : State) : Out :=
  let t := s.did (.keyUpdate id)
  match sessionById s id with
  | some x => if spdmUp s && s.power = .run && (x.open_ || x.suspended) then .next (say (modSession t id fun y => { y with suspended := false }) (.spdm x.fn 0xE9 (openBody s 0xE9))) else .next t
  | none => .next t

/-- HEARTBEAT (R423). -/
def execHeartbeat (id : Nat) (s : State) : Out :=
  let t := s.did (.heartbeat id)
  inOpen t id fun x => .next (say t (.spdm x.fn 0xE8 (openBody s 0xE8)))

/-- END_SESSION (R425). -/
def execEndSession (id : Nat) (s : State) : Out :=
  let t := s.did (.endSession id)
  inSession t id fun x => .next (say (dropSession t id) (.spdm x.fn 0xEC (openBody s 0xEC)))

/-- HEARTBEAT_TIMEOUT (R425): the session is lost; suspension is no loss. -/
def execHeartbeatTimeout (id : Nat) (s : State) : Out :=
  let t := s.did (.heartbeatTimeout id)
  match sessionById s id with
  | some x => .next (if x.suspended then t else dropSession t id)
  | none => .next t

/-- The fields of a receipt that its signature covers (R427). -/
def receiptFields (r : Receipt) (nonce : BitVec 256) : List Nat :=
  [r.world.toNat, r.epoch.toNat, r.start, r.len, r.covered, r.excluded.length] ++ r.excluded ++ [nonce.toNat]

/-- A receipt is sent on a session of its world's TDI, or of PF 0 for world 0 (R427). -/
def sendReceipt (s : State) (x : Session) (nonce : BitVec 256) : State :=
  match s.receipts.find? (·.world.toNat == x.fn) with
  | some r => say { s with receipts := s.receipts.erase r } (.receipt r nonce (Config.signature (receiptFields r nonce)))
  | none => say s (.error x.fn "InvalidRequest")

/-- A new image is taken in minimal mode (R433): one that verifies sets FAILS to 0. -/
def takeImage (s : State) (x : Session) (verifies : Bool) (minBarns : Nat) : State :=
  if s.boot.mode ≠ .minimal || x.fn ≠ 0 then say s (.error x.fn "UnsupportedRequest")
  else if verifies then say { s with boot := { s.boot with fails := 0, minBarns := minBarns } } (.spdm x.fn 0xFE (openBody s 0xFE))
  else say s (.error x.fn "InvalidRequest")

/-- VENDOR_DEFINED_REQUEST (R410, R427, R433); a message whose AEAD check fails loses its session (R425). -/
def execVendorDefinedRequest (id : Nat) (r : VendorRequest) (s : State) : Out :=
  let t := s.did (.vendorDefinedRequest id r)
  match r with
  | .corrupt => inSession t id fun _ => .next (dropSession t id)
  | .receipt nonce => inOpen t id fun x => .next (sendReceipt t x nonce)
  | .image v m => inOpen t id fun x => .next (takeImage t x v m)
  | .ideKey key => inOpen t id fun x => .next (say { t with ideKeys := mput 0 t.ideKeys x.fn key } (.spdm x.fn 0xFE (openBody t 0xFE)))

/-- UNSUPPORTED_REQUEST (R423). -/
def execUnsupportedRequest (fn code : Nat) (s : State) : Out :=
  let t := s.did (.unsupportedRequest fn code)
  .next (if spdmUp s then say t (.error fn "UnsupportedRequest") else t)

/-! TDISP requests (R425). -/

/-- A TDISP request inside a session: none is served in the listening state, where every TDI stays in CONFIG_UNLOCKED (R432). -/
def tdiRequest (s : State) (id : Nat) (ok : Bool) (code : Nat) (f : State → State) : Out :=
  inOpen s id fun x => if ok && s.boot.mode == .running then .next (say (f s) (.spdm x.fn code (openBody s code))) else .next (say s (.error x.fn "InvalidInterfaceState"))

/-- LOCK_INTERFACE_REQUEST (R425): the TDI is bound to the session. -/
def execLockInterfaceRequest (id w : Nat) (s : State) : Out :=
  tdiRequest (s.did (.lockInterfaceRequest id w)) id (1 ≤ w && w ≤ 255 && (s.tdi w).state == .unlocked) 0x183
    fun s => s.setTdi w { s.tdi w with state := .locked, session := some id }

/-- GET_DEVICE_INTERFACE_REPORT (R425). -/
def execGetDeviceInterfaceReport (id w : Nat) (s : State) : Out :=
  tdiRequest (s.did (.getDeviceInterfaceReport id w)) id ((s.tdi w).state == .locked || (s.tdi w).state == .run) 0x184 fun s => s

/-- START_INTERFACE_REQUEST (R425). -/
def execStartInterfaceRequest (id w : Nat) (s : State) : Out :=
  tdiRequest (s.did (.startInterfaceRequest id w)) id ((s.tdi w).state == .locked) 0x186
    fun s => s.setTdi w { s.tdi w with state := .run }

/-- Whether a session may stop a TDI (R425): the bound one; any of its function once the bound one is lost (log 21). -/
def mayStop (s : State) (id w : Nat) : Bool :=
  match (s.tdi w).session with
  | some b => b == id
  | none => (sessionById s id).any (·.fn == w)

/-- STOP_INTERFACE_REQUEST (R425): the launches are terminated; the rest follows. -/
def execStopInterfaceRequest (id w : Nat) (s : State) : Out :=
  tdiRequest (s.did (.stopInterfaceRequest id w)) id ((s.tdi w).state ≠ .unlocked && !(s.tdi w).stopping && mayStop s id w) 0x187
    fun s => (endWorld (s.setTdi w { s.tdi w with stopping := true }) w 0x84).push (.stopCompletion w)

/-- The pages that the tables map for a world (R339, R340): physical address and size. -/
def worldPages (s : State) (w : Nat) : List (Nat × Nat) :=
  let root := ((s.station 0).root.extractLsb' 19 41).toNat * 2 ^ 19
  let word (pa : Nat) : Word := BitVec.ofNat 64 (s.readLe (physLoc pa) 8)
  let entries (pa n : Nat) : List Word := (List.range n).map fun i => word (pa + 8 * i)
  let leaf (e : Word) (size : Nat) : Option (Nat × Nat) :=
    if entryValid e && entryLeaf e && (e.extractLsb' 8 8).toNat == w then some ((e.extractLsb' 16 44).toNat * 2 ^ 16, size) else none
  let table (e : Word) : Option Nat := if entryValid e && !entryLeaf e then some ((e.extractLsb' 8 52).toNat * 2 ^ 8) else none
  let l1s := (entries root 65536).filterMap fun e =>
    if entryValid e && (e.extractLsb' 8 8).toNat == w then some ((e.extractLsb' 19 41).toNat * 2 ^ 19) else none
  let e1 := (l1s.map fun pa => entries pa 65536).flatten
  let e2 := ((e1.filterMap table).map fun pa => entries pa 512).flatten
  let e3 := ((e2.filterMap table).map fun pa => entries pa 32).flatten
  (e1.filterMap (leaf · (2 ^ 30)) ++ e2.filterMap (leaf · (2 ^ 21)) ++ e3.filterMap (leaf · (2 ^ 16))).eraseDups

/-- The versions of the regions of a world go. -/
def dropRegions (s : State) (w : Nat) : State :=
  let gone (loc : Nat) : Bool := 2 ^ 100 ≤ loc && (loc - 2 ^ 100) / 2 ^ 64 / 2 ^ 48 == w
  { s with
    regions := s.regions.filter fun p => p.2.world.toNat ≠ w, mem := s.mem.filter fun c => !(gone c.1),
    tags := s.tags.filter fun c => !(gone (64 * c.1)) }

/-- STOP_COMPLETION (R425, R427): once the world's launches are closed, its pages are scrubbed, receipts are issued, its epoch advances, and
its TDI is unlocked. Paddocks were wiped when the launches were closed (R293). -/
def execStopCompletion (w : Nat) (s : State) : Out :=
  if !(s.tdi w).stopping || (launchesOf s w) ≠ [] then .next s
  else
    let t := dropRegions (s.did (.stopCompletion w)) w
    let t := (worldPages s w).foldl (fun t p => scrubRange t (BitVec.ofNat 8 w) (physLoc p.1) p.2) t
    let t := { t with epochs := mput 0 t.epochs w (mget 0 t.epochs w + 1) }
    .next (t.setTdi w { t.tdi w with state := .unlocked, session := none, stopping := false })

/-- IDE_INTEGRITY_FAILURE (R425). -/
def execIdeIntegrityFailure (w : Nat) (s : State) : Out :=
  let t := s.did (.ideIntegrityFailure w)
  .next (if (s.tdi w).state = .locked || (s.tdi w).state = .run then tdiError t w else t)

/-- SECURITY_ALARM (R426, R434): during a start it ends the start, with reason 9. -/
def execSecurityAlarm (k : Alarm) (s : State) : Out :=
  let t := raiseAlarm (s.did (.securityAlarm k)) k
  .next (if t.boot.mode = .starting && t.boot.under then { t with boot := { t.boot with reason := 9, under := false } } else t)

/-- TEST_MODE_ENTRY (R426): the key store, all SRAM and every register file are wiped, with what the units hold in them, and then the test access is
enabled. -/
def execTestModeEntry (s : State) : Out :=
  let kept (loc : Nat) : Bool := 2 ^ 64 ≤ loc
  .next { s.did .testModeEntry with
    keys := false, debugged := true, testing := true, regs := [], ctxs := [], cores := [], tiles := [], rings := [], msgs := [], posted := [], stations := [], yards := [],
    engines := [], todo := []
    mem := s.mem.filter (kept ·.1), tags := s.tags.filter fun c => kept (64 * c.1), slots := s.slots.filter fun c => kept (16 * c.1)
    poison := s.poison.filter fun c => kept (64 * c.1)
    barns := s.barns.map fun p => (p.1, { Barn.reset with
      retired := p.2.retired, corr := p.2.corr, parity := p.2.parity, treplay := p.2.treplay, pdiscard := p.2.pdiscard }) }

/-! What registers read. -/

/-- A context table entry (R357). -/
def ctxEntry (s : State) (c : Nat) : Word :=
  let x := s.ctx c
  let pos := (tableEntries (s.core (coreOf c)).slots).find? fun p => slotMode p.2 ≠ 0 && slotCtx p.2 == numOf c
  BitVec.ofNat 64 (x.asid.toNat * 2 ^ 48 + x.world.toNat * 2 ^ 40 + x.wsize % 32 * 2 ^ 32 + x.wbase % 2048 * 2 ^ 20 + x.prio.toNat * 2 ^ 18
    + x.pool.toNat * 2 ^ 12 + (match pos with | some p => p.1 * 2 ^ 8 + 2 ^ 7 | none => 0) + x.stopped.toNat * 8 + x.state.code)

/-- A core's control block (R356); the slot table reads as it is in force. -/
def coreRegister (s : State) (i off : Nat) : Option Word :=
  if off < 0x80 && off % 8 = 0 then some (slotEntry s i (off / 8))
  else if 0x200 ≤ off && off < 0x400 && off % 8 = 0 then some (ctxEntry s (64 * i + (off - 0x200) / 8))
  else if off = 0x408 then some (BitVec.ofNat 64 ((s.core i).busy.toNat + 2 * (s.core i).err.toNat + 16 * ((s.core i).errCode % 16)))
  else none

/-- The CTX, CORE, Y and X of a fault entry (R345). -/
def ctxPlace (c : Nat) : Nat := numOf c * 2 ^ 12 + coreOf c % 4 * 2 ^ 10 + barnY (barnOf c) * 32 + barnX (barnOf c)

/-- The words of a fault entry as FB_POP reads them (R345): low, then high. A deferred release is its actor's. -/
def faultWords (s : State) (k : Nat) (e : FaultEntry) : Word × Word :=
  let waiters := ((s.station k).parked.filter fun r => r.asid == e.asid && r.granule == e.granule).length
  let src : Nat := match e.src with
    | .ctx c => ctxPlace c
    | .chan i n => 2 ^ 18 + n * 2 ^ 12 + i % 4 * 2 ^ 10 + barnY (barnOfCore i) * 32 + barnX (barnOfCore i)
    | .release l => (((s.launch? l).bind (·.releases.head?)).map fun r => ctxPlace (homeOf r.1)).getD 0
  (BitVec.ofNat 64 (min waiters 65535 * 2 ^ 48 + src),
    BitVec.ofNat 64 (e.asid * 2 ^ 48 + e.granule * 2 ^ 18 + e.world.toNat * 2 ^ 10 + e.cause * 2 ^ 7 + e.level * 2 ^ 5 + e.write.toNat * 2 ^ 4))

/-- A translation station (R348). -/
def stationRegister (s : State) (k off : Nat) : Option Word :=
  let x := s.station k
  let head : Word × Word := match x.buffer with | e :: _ => faultWords s k e | [] => (0, 0)
  match off with
  | 0x000 => some x.root
  | 0x008 => some (BitVec.ofNat 64 (x.parked.length % 8192 * 2 ^ 16 + x.buffer.length % 16 * 2 ^ 8
      + (decide (Config.parkedStore ≤ x.parked.length)).toNat * 2 + x.dropped.toNat))
  | 0x010 => some head.1
  | 0x018 => some head.2
  | _ => none

/-- The status of an engine (R377), of a port (R389), and of a barn's soft errors (R441). -/
def engineRegister (s : State) (e : Nat) : Word :=
  let x := s.engine e
  let occ := (x.reqs.filter (·.held)).length
  let full := decide (reservedEntries ≤ (x.reqs.filter fun r => r.held && r.reserved).length)
  BitVec.ofNat 64 (x.refused.toNat * 2 ^ 16 + full.toNat * 2 ^ 7 + occ % 128)
def portRegister (s : State) (n : Nat) : Word :=
  let x := s.port n
  BitVec.ofNat 64 (x.replays.toNat * 2 ^ 32 + x.peer % 32 * 2 ^ 16 + x.state % 8)
def rasRegister (s : State) (b : Nat) : Word :=
  let x := s.barn b
  BitVec.ofNat 64 (x.corr % 2 ^ 20 * 2 ^ 44 + x.parity % 4096 * 2 ^ 32 + x.treplay % 2 ^ 20 * 2 ^ 12 + x.pdiscard % 4096)

/-- What a register in the management core's physical space reads. -/
def readMgmt (s : State) (pa : Nat) : Option Word :=
  if 0x10000000 ≤ pa && pa < 0x20000000 then coreRegister s ((pa - 0x10000000) / 0x10000) (pa % 0x10000)
  else if 0x0F000000 ≤ pa && pa < 0x0F020000 then stationRegister s ((pa - 0x0F000000) / 0x1000) (pa % 0x1000)
  else if 0x0E000000 ≤ pa && pa < 0x0E030000 && pa % 0x1000 = 0 then some (engineRegister s ((pa - 0x0E000000) / 0x1000))
  else if 0x0D000000 ≤ pa && pa < 0x0D002E00 && pa % 0x100 = 0 then some (portRegister s ((pa - 0x0D000000) / 0x100))
  else if 0x0C000000 ≤ pa && pa < 0x0C010000 && pa % 0x40 = 0 then some (rasRegister s ((pa - 0x0C000000) / 0x40))
  else none

/-- The configuration of a queue (R414), word by word. -/
def queueWord (x : Queue) (i : Nat) : Word :=
  match i with
  | 0 => BitVec.ofNat 64 (x.world.toNat * 2 ^ 24 + x.csize.toNat * 2 ^ 20 + x.size.toNat * 2 ^ 16 + x.en.toNat)
  | 1 => x.head
  | 2 => x.base
  | _ => x.cbase

/-- BOOT_STATUS (R435). -/
def BootMode.code : BootMode → Nat
  | .starting => 0 | .listening => 1 | .minimal => 2 | .running => 3
def bootStatus (b : Boot) : Word :=
  BitVec.ofNat 64 (b.barnsOk % 2048 * 2 ^ 32 + b.reason % 256 * 2 ^ 24 + min b.fails 15 * 2 ^ 20 + b.stage % 256 * 2 ^ 8 + b.mode.code)

/-- The version control block of a region as it reads (R418). -/
def versionWord (r : Region) : Word := BitVec.ofNat 64 (r.vernum.toNat * 2 ^ 16 + r.status % 256 * 2 ^ 8)

/-- The region that a version control block controls for a world's TDI (R411, log 21). -/
def regionAt (s : State) (w e : Nat) : Option Nat := (regionsOf s w)[e]?

/-- The words of the security status mailbox but for BOOT_STATUS (R425): they report the states of the TDIs, the counts of discarded accesses and
doorbells, and the alarm bits, at places that the spec does not give (log 12). -/
def mailboxWord (s : State) (off : Nat) : Word :=
  let state (w : Nat) : Nat := match (s.tdi w).state with | .unlocked => 0 | .locked => 1 | .run => 2 | .error => 3
  Config.mailboxWord off (allTdis.map state) ((0 :: allTdis).map fun w => (s.tdi w).discarded)
    ([Alarm.supply, .clock, .temperature, .authentication, .counter].map s.alarms.contains)

/-- A read of the security status mailbox, by PF 0 or by the board (R411, R435). -/
def readMailbox (s : State) (off : Nat) : Word := if off = 0x100 then bootStatus s.boot else if off < 0x1000 && off % 8 = 0 then mailboxWord s off else 0

/-- What BAR0 of a function reads (R411): zero where the register is not bound to it. -/
def readBar (s : State) (fn off : Nat) : Word :=
  if 0x01000000 ≤ off && off < 0x01400000 then
    let q := (off - 0x01000000) / 32
    if fn = 0 || (s.queue q).world.toNat = fn then queueWord (s.queue q) (off / 8 % 4) else 0
  else if 0x02000000 ≤ off && off < 0x03000000 then
    match regionAt s fn ((off - 0x02000000) / 64) with
    | some k => if hostMay s k && off % 64 = 0 then versionWord (s.region k) else 0
    | none => 0
  else if 0x03000000 ≤ off && fn = 0 then readMailbox s (off - 0x03000000)
  else 0

/-- Whether a register of BAR0 is bound to the function that reads it (R411); one that is neither a queue's nor a region's is. The doorbell of a queue that
is bound to no TDI (R414) is bound to no function. -/
def barBound (s : State) (fn off : Nat) : Bool :=
  if off < 0x00100000 then fn ≠ 0 && (s.queue (off / 8)).world.toNat == fn
  else if 0x01000000 ≤ off && off < 0x01400000 then fn == 0 || (s.queue ((off - 0x01000000) / 32)).world.toNat == fn
  else if 0x02000000 ≤ off && off < 0x03000000 then (regionAt s fn ((off - 0x02000000) / 64)).isSome
  else true

/-- A read of BAR0 is answered, and counted where its register is not bound to the function (R411). -/
def answerBar (s : State) (fn off : Nat) : State :=
  say (if barBound s fn off then s else countDiscard s fn) (.register fn off (readBar s fn off))

/-- A read of configuration space is answered from the listening state on, and in minimal mode (R432, R433). -/
def answerConfig (s : State) (fn off : Nat) : State := if spdmUp s then say s (.register fn off (Config.configSpace fn off)) else s

end Sys2Proof.Machine
end

