-- ==== Sys2Proof/Machine/EvPower.lean ====
section
/-! DEFINITION. Starting and power (R429 to R438), and writes to registers (R348, R356, R359, R411, R414, R418, R441). -/

namespace Sys2Proof.Machine

/-! Starting (R431 to R435). -/

/-- The translation root table is zeroed (R431). -/
def zeroRoot (s : State) : State :=
  let t := zeroTags (zeroBytes s (physLoc 0) (2 ^ 19)) (physLoc 0) (2 ^ 19)
  if t.stale then (List.range (2 ^ 13)).foldl (fun t i => t.setPoison (physLoc (64 * i)) false) t else t

/-- The links that the fabric gives the package train (R387, R431). -/
def trainPorts (s : State) : State :=
  let up (t : State) (n peer : Nat) : State := t.setPort n { t.port n with state := 2, peer := peer, streak := 0 }
  let t := (List.range (min 23 (Config.fabricCols - 1))).foldl (fun t r => up t r ((s.col + 1 + r) % Config.fabricCols)) s
  (List.range (min 23 (Config.fabricRows - 1))).foldl (fun t r => up t (23 + r) ((s.row + 1 + r) % Config.fabricRows)) t

/-- The stage at which a start ends, and its reason (R431, R434); a start that hangs has none yet. -/
def endStage : StageEnd → Nat
  | .controllerFirmware => 2 | .configAuthentication => 3 | .configVersion => 3 | .coreFirmware => 4 | .hbm => 6 | .hostLink => 7 | .hang n => n
def endReason : StageEnd → Option Nat
  | .controllerFirmware => some 1 | .configAuthentication => some 2 | .configVersion => some 3 | .coreFirmware => some 4 | .hbm => some 6
  | .hostLink => some 7 | .hang _ => none
/-- A firmware that fails its authentication raises an alarm (R426). -/
def endAlarm : StageEnd → Option Alarm
  | .controllerFirmware | .coreFirmware => some .authentication
  | _ => none

/-- A start stops at a stage: it ends with its reason, or hangs until the watchdog or an alarm ends it (R431, R434). -/
def stopStart (s : State) (e : StageEnd) : State :=
  let t := match endAlarm e with | some k => raiseAlarm s k | none => s
  { t with boot := { t.boot with mode := .starting, stage := endStage e, reason := (endReason e).getD t.boot.reason, under := (endReason e).isNone } }

/-- Stage 5: the barns that fail are retired (R431). -/
def retireBarns (s : State) (bs : List Nat) : State :=
  let gone := (bs.filter (· < Config.barns)).eraseDups
  let t := s.barns.foldl (fun t p => t.modBarn p.1 fun b => { b with retired := false }) s
  let t := gone.foldl (fun t b => t.modBarn b fun x => { x with retired := true }) t
  { t with boot := { t.boot with barnsOk := Config.barns - gone.length } }

/-- The stage up to which a start passes: the one before that which stops it. -/
def stopsAt (o : StartOutcome) (n : Nat) : Option StageEnd :=
  match o.failAt with
  | some e => if endStage e = n then some e else none
  | none => none

/-- The stages from 5 on (R431); the system contexts are there once the package has started (R356). -/
def laterStages (s : State) (o : StartOutcome) : State :=
  match stopsAt o 5 with
  | some e => stopStart s e
  | none =>
    let t := retireBarns s o.retired
    if t.boot.barnsOk < t.boot.minBarns then { t with boot := { t.boot with mode := .starting, stage := 5, reason := 5, under := false } }
    else
      match stopsAt o 6, stopsAt o 7, stopsAt o 8 with
      | some e, _, _ => stopStart t e
      | none, some e, _ => stopStart (zeroRoot t) e
      | none, none, some e => stopStart (trainPorts (zeroRoot t)) e
      | none, none, none =>
        let u := startSystem (trainPorts (zeroRoot t))
        { u with boot := { u.boot with mode := .listening, stage := 8, fails := 0, under := false },
                 queues := u.queues.map fun p => (p.1, { p.2 with en := false }) }

/-- What a start finds (R430, R431, R433): it begins afresh, with no session, every TDI in CONFIG_UNLOCKED, and the mesh, HBM and fabric down. -/
def freshStart (s : State) : State :=
  { s with
    power := .run, debugged := false, testing := false, sessions := [], tdis := [], ports := [], alarms := [], ideKeys := []
    barns := s.barns.map fun p => (p.1, { p.2 with retired := false })
    boot := { s.boot with mode := .starting, stage := 1, barnsOk := 0, under := true } }

/-- Whether power-good begins a start: the power was off, no start has begun, or the last one failed or ended in minimal mode (R431, R433). -/
def mayStart (s : State) : Bool :=
  s.power == .off || (s.boot.mode == .starting && (!s.boot.under || s.boot.stage == 0)) || s.boot.mode == .minimal

/-- POWER_GOOD (R429, R431 to R434): the stages run in order; minimal mode is entered at the end of stage 1. -/
def execPowerGood (o : StartOutcome) (s : State) : Out :=
  if !mayStart s then .next s
  else
    let t := freshStart (s.did (.powerGood o))
    let t := if s.power = .off then { t with epochs := (List.range 256).foldl (fun m w => mput 0 m w (mget 0 m w + 1)) t.epochs } else t
    match stopsAt o 0, stopsAt o 1 with
    | none, none =>
      let t := { t with keys := true }
      if !o.counterOk then .next { t with boot := { t.boot with mode := .minimal, fails := 3, reason := 10, under := false } }
      else if 3 ≤ t.boot.fails then .next { t with boot := { t.boot with mode := .minimal, under := false } }
      else
        let t := { t with boot := { t.boot with fails := t.boot.fails + 1 } }
        match stopsAt o 2, stopsAt o 3, stopsAt o 4 with
        | some e, _, _ => .next (stopStart t e)
        | none, some e, _ => .next (stopStart t e)
        | none, none, some e => .next (stopStart t e)
        | none, none, none => .next (laterStages t o)
    | _, _ => .next t

/-- START_WATCHDOG (R431, R434): a start that is under way ends, with reason 8. -/
def execStartWatchdog (s : State) : Out :=
  if s.boot.mode = .starting && s.boot.under then .next { s.did .startWatchdog with boot := { s.boot with reason := 8, under := false } } else .next s

/-- FIRST_QUEUE_ENABLE (R432): the package leaves the safe listening state. -/
def execFirstQueueEnable (q : Nat) (s : State) : Out :=
  if s.boot.mode = .listening && (s.queue q).en then .next { s.did (.firstQueueEnable q) with boot := { s.boot with mode := .running } } else .next s

/-! Power (R428 to R430, R436, R438). -/

/-- Whether every barn in use is at depth 2, with no exit test due, and every port is idle: no transaction or message is under way, and no port trains
(R436). -/
def allAsleep (s : State) : Bool :=
  s.txs.isEmpty && s.msgs.isEmpty && s.posted.isEmpty && (s.ports.all fun p => p.2.state == 0 || p.2.state == 2) && (List.range Config.barns).all fun b => (s.barn b).retired || !(s.barn b).testDue && (coresOfBarn b).all fun i => (s.core i).depth == some 2

/-- PACKAGE_SLEEP (R428, R436). -/
def execPackageSleep (s : State) : Out :=
  if s.power = .run && allAsleep s then
    .next { s.did .packageSleep with power := .sleep, sessions := s.sessions.map fun x => { x with suspended := true } }
  else .next s

/-- PACKAGE_RESUME (R428, R436). -/
def execPackageResume (s : State) : Out := if s.power = .sleep then .next { s.did .packageResume with power := .run } else .next s

/-- The record of a launch that was resident when the power was lost (R430). -/
def lossRecord (n : Nat) (l : Launch) : CRecord := launchRecord n l 3 0x81 0

/-- POWER_LOSS (R429, R430, R436): nothing is held but what lies in flash and with the hosts; each resident launch is reported. -/
def execPowerLoss (s : State) : Out :=
  let resident := s.launches.filter fun p => p.2.stage ≠ .closed && p.2.stage ≠ .queued
  let far (loc : Nat) : Bool := physLoc Config.cxlBase ≤ loc && loc < 2 ^ 100
  let t := { State.reset with
    mem := s.mem.filter (far ·.1), tags := s.tags.filter (fun c => far (64 * c.1)), seals := s.seals.filter fun c => far (64 * c.1)
    stale := true, dead := s.dead, row := s.row, col := s.col, sent := s.sent, epochs := s.epochs, power := .off
    boot := { State.reset.boot with fails := s.boot.fails, reason := s.boot.reason, minBarns := s.boot.minBarns, under := false }
    launches := s.launches.map fun p => (p.1, { p.2 with
      stage := .closed, cause := 0x81, results := false, saved := [], savedCores := [], savedRegs := [], savedTiles := [], savedBarns := [], savedMem := [], savedTags := [], savedSlots := [], savedPoison := [], savedRings := [], buffers := [], releases := [], feeds := [] })
    queues := s.queues.map fun p => (p.1, { Queue.reset with waiting := p.2.waiting })
    agenda := s.agenda, answers := s.answers, free := s.free, stamp := s.stamp }
  .next (resident.foldl (fun t p => postRecord t p.2.queue (lossRecord p.1 p.2)) t)

/-- THERMAL_THROTTLE (R438): timing only. -/
def execThermalThrottle (on : Bool) (s : State) : Out := .next { s.did (.thermalThrottle on) with throttle := on }

/-! Register writes. -/

/-- CTX_CMD (R358): ignored while a command runs; BUSY is 1 from the write on. DESIGN CHOICE (log 30): R6 gives a register write no effect of a
reserved field that is not zero, and bits [59:52] are ignored; unsafe. -/
def contextCommand (s : State) (i : Nat) (v : Word) : State :=
  let n := v.setWidth 6
  let adr := (v.extractLsb' 6 46).toNat * 64
  let runs (ev : Instr) : State := (s.pushOnce ev).modCore i fun x => { x with busy := true }
  if (s.core i).busy then s
  else
    match (v.extractLsb' 60 4).toNat with
    | 1 => runs (.ctxLoad i n adr)
    | 2 => runs (.ctxSave i n adr)
    | 3 => runs (.ctxRelease i n)
    | _ => s

/-- A write to a core's control block (R356, R359): the slot table is staged. None: no register takes it. -/
def writeCore (s : State) (i off : Nat) (v : Word) : Option State :=
  if off < 0x80 && off % 8 = 0 then some (s.modCore i fun x => { x with staged := vset x.staged (off / 8) v })
  else if off = 0x100 then some (if v = 1 then (s.modCore i fun x => { x with committing := x.committing ++ [x.staged] }).pushOnce (.slotCommit i) else s)
  else if off = 0x400 then some (contextCommand s i v)
  else if (coreRegister s i off).isSome then some s
  else none

/-- A write to a station's registers (R348). DESIGN CHOICE (log 30): R6 gives a register write no effect of a reserved bit that is not zero where its
table states none; those of XLT_ROOT and FB_FAIL are ignored; unsafe. -/
def writeStation (s : State) (k off : Nat) (v : Word) : Option State :=
  match off with
  | 0x000 => some (s.setStation k { s.station k with root := v &&& 0x0FFFFFFFFFF80000#64 })
  | 0x020 => some (failGranule s k v)
  | 0x028 => some (if v = 1 then replayStation s k else if v = 2 then invalidateStation s k else s)
  | 0x008 | 0x010 | 0x018 => some s
  | _ => none

/-- A write in the management core's physical space: RAS_STATUS clears (R441); registers that only read keep their values. -/
def writeMgmt (s : State) (pa : Nat) (v : Word) : Option State :=
  if 0x10000000 ≤ pa && pa < 0x20000000 then writeCore s ((pa - 0x10000000) / 0x10000) (pa % 0x10000) v
  else if 0x0F000000 ≤ pa && pa < 0x0F020000 then writeStation s ((pa - 0x0F000000) / 0x1000) (pa % 0x1000) v
  else if 0x0C000000 ≤ pa && pa < 0x0C010000 && pa % 0x40 = 0 then
    some (s.modBarn ((pa - 0x0C000000) / 0x40) fun b => { b with corr := 0, parity := 0, treplay := 0, pdiscard := 0 })
  else if (readMgmt s pa).isSome then some s
  else none

/-- A queue's configuration after a write of one word (R414). DESIGN CHOICE (log 30): R6 gives no effect of the reserved bits of word 0 that are not zero;
they are ignored; unsafe. -/
def Queue.written (x : Queue) (i : Nat) (v : Word) : Queue :=
  match i with
  | 0 => { x with
      world := v.extractLsb' 24 8, csize := v.extractLsb' 20 4, size := if 10 < (v.extractLsb' 16 4).toNat then 10 else v.extractLsb' 16 4,
      en := v.getLsbD 0 }
  | 2 => { x with base := v &&& ~~~(0x3F#64) }
  | 3 => { x with cbase := v &&& ~~~(0x3F#64) }
  | _ => x

/-- A write of PF 0 to a queue's configuration (R411, R414, R425): in CONFIG_UNLOCKED of its TDI; a write to a locked configuration puts the TDI
into ERROR. -/
def configureQueue (s : State) (q i : Nat) (v : Word) : State :=
  let x := s.queue q
  let y := x.written i v
  let locked (w : Nat) : Bool := w ≠ 0 && ((s.tdi w).state == .locked || (s.tdi w).state == .run)
  if locked x.world.toNat then tdiError s x.world.toNat
  else if locked y.world.toNat then tdiError s y.world.toNat
  else if (x.world ≠ 0 && (s.tdi x.world.toNat).state ≠ .unlocked) || (y.world ≠ 0 && (s.tdi y.world.toNat).state ≠ .unlocked) || !(s.boot.mode == .listening || s.boot.mode == .running) then s
  else
    let t := s.setQueue q y
    if y.en && s.boot.mode = .listening then t.pushOnce (.firstQueueEnable q) else t

/-- CMD of a version control block (R418): other values have no effect. -/
def versionCommand (s : State) (key : Nat) (v : Word) : Out :=
  match (v.setWidth 3).toNat with
  | 1 => execOpenLatest key s
  | 2 => execOpenPrivate key s
  | 3 => execPublish key s
  | 4 => execClose key s
  | _ => .next s

/-- A write to BAR0 of a function (R411). -/
def writeBar (s : State) (fn off : Nat) (v : Word) : Out :=
  if off < 0x00100000 && off % 8 = 0 then execDoorbell fn (off / 8) v s
  else if 0x01000000 ≤ off && off < 0x01400000 && off % 8 = 0 then
    .next (if fn = 0 then configureQueue s ((off - 0x01000000) / 32) (off / 8 % 4) v else countDiscard s fn)
  else if 0x02000000 ≤ off && off < 0x03000000 && off % 64 = 0 then
    match regionAt s fn ((off - 0x02000000) / 64) with
    | some k => versionCommand s k v
    | none => .next (countDiscard s fn)
  else if 0x03000000 ≤ off && off < 0x03001000 then .next s
  else .refused .noRegister

/-- REGISTER_WRITE (R348, R356, R411, R414, R418, R441); the table has no step for a read through BAR0 or of configuration space, and this one carries
it (log 12). -/
def execRegisterWrite (a : RegAddr) (v : BitVec 64) (s : State) : Out :=
  let t := s.did (.registerWrite a v)
  match a with
  | .mgmt pa => match writeMgmt t pa v with | some u => .next u | none => .refused .noRegister
  | .bar fn off => writeBar t fn off v
  | .barRead fn off => .next (answerBar t fn off)
  | .config fn off => .next (answerConfig t fn off)
  | .board off => .next (say t (.mailbox off (readMailbox t off)))

end Sys2Proof.Machine
end

