-- ==== Sys2Proof/Machine/Flags.lean ====
section
/-! DEFINITION. Conditions (R100, R141, R144). The device has no arithmetic flags (R59, R61): a condition is computed from its
two operands. -/

namespace Sys2Proof.Machine

/-- Which conditions an ordering of two ordered operands satisfies (R144). -/
def condOn (c : Cond) (o : Ordering) : Bool :=
  match c, o with
  | .eq, .eq => true
  | .ne, .lt | .ne, .gt => true
  | .lt, .lt => true
  | .ge, .eq | .ge, .gt => true
  | .gt, .gt => true
  | .le, .lt | .le, .eq => true
  | .ord, _ => true
  | _, _ => false

/-- The ordering of two integers. -/
def orderInt (a b : Int) : Ordering := if a < b then .lt else if a = b then .eq else .gt

/-- Whether a condition holds between two patterns of a type (R144): exact and by signedness for integers; with a NaN, only
not-equal and unordered hold. -/
def condHolds (t : Ty) (c : Cond) (p q : Nat) : Bool :=
  if t.isFp then
    match Val.compare (Val.decode t p) (Val.decode t q) with
    | some o => condOn c o
    | none => c == .ne || c == .un
  else condOn c (orderInt (t.int p) (t.int q))

end Sys2Proof.Machine
end

