-- ==== Sys2Proof/Machine/Scalar.lean ====
section
/-! DEFINITION. The integer, immediate and address instructions (R131 to R137, R157). -/

namespace Sys2Proof.Machine

/-- Signed and natural readings of a register (R132). -/
def sInt (v : Word) : Int := v.toInt
def nInt (v : Word) : Int := v.toNat

/-- An exact integer clamped to s64 and to n64 (R59). -/
def clampS (x : Int) : Word := BitVec.ofInt 64 (clampInt (-(2 ^ 63)) (2 ^ 63 - 1) x)
def clampN (x : Int) : Word := BitVec.ofInt 64 (clampInt 0 (2 ^ 64 - 1) x)

/-- Quotients and remainders (R135). -/
def quotS (a b : Word) : Word := if b = 0 then BitVec.allOnes 64 else BitVec.ofInt 64 (Int.tdiv a.toInt b.toInt)
def quotN (a b : Word) : Word := if b = 0 then BitVec.allOnes 64 else BitVec.ofNat 64 (a.toNat / b.toNat)
def remS (a b : Word) : Word := if b = 0 then a else BitVec.ofInt 64 (Int.tmod a.toInt b.toInt)
def remN (a b : Word) : Word := if b = 0 then a else BitVec.ofNat 64 (a.toNat % b.toNat)

/-- The amount of a shift or a rotation (R134). -/
def amount (b : Word) : Nat := b.toNat % 64

/-- The bytes of a word in reverse order (R134). -/
def swapBytes (a : Word) : Word := BitVec.ofNat 64 (bytesLe ((List.range 8).map fun i => byteOf a.toNat (7 - i)))

/-- One and zero for a truth value (R134, R141). -/
def flag (b : Bool) : Word := if b then 1 else 0

/-- nop (R157): no state changes. -/
def execNop (s : State) : Out := issue {} (fun s => .ok (finish s)) s

/-- add (R134). -/
def execAdd (d a b : WReg) (s : State) : Out := compute d [a, b] (fun s => s.w a + s.w b) s

/-- sub (R134). -/
def execSub (d a b : WReg) (s : State) : Out := compute d [a, b] (fun s => s.w a - s.w b) s

/-- mul (R134). -/
def execMul (d a b : WReg) (s : State) : Out := compute d [a, b] (fun s => s.w a * s.w b) s

/-- mulh (R134). -/
def execMulh (d a b : WReg) (s : State) : Out := compute d [a, b] (fun s => BitVec.ofInt 64 (sInt (s.w a) * sInt (s.w b) / 2 ^ 64)) s

/-- mulhn (R134). -/
def execMulhn (d a b : WReg) (s : State) : Out := compute d [a, b] (fun s => BitVec.ofInt 64 (nInt (s.w a) * nInt (s.w b) / 2 ^ 64)) s

/-- div (R135). -/
def execDiv (d a b : WReg) (s : State) : Out := compute d [a, b] (fun s => quotS (s.w a) (s.w b)) s

/-- divn (R135). -/
def execDivn (d a b : WReg) (s : State) : Out := compute d [a, b] (fun s => quotN (s.w a) (s.w b)) s

/-- rem (R135). -/
def execRem (d a b : WReg) (s : State) : Out := compute d [a, b] (fun s => remS (s.w a) (s.w b)) s

/-- remn (R135). -/
def execRemn (d a b : WReg) (s : State) : Out := compute d [a, b] (fun s => remN (s.w a) (s.w b)) s

/-- adds (R134). -/
def execAdds (d a b : WReg) (s : State) : Out := compute d [a, b] (fun s => clampS (sInt (s.w a) + sInt (s.w b))) s

/-- subs (R134). -/
def execSubs (d a b : WReg) (s : State) : Out := compute d [a, b] (fun s => clampS (sInt (s.w a) - sInt (s.w b))) s

/-- addsn (R134). -/
def execAddsn (d a b : WReg) (s : State) : Out := compute d [a, b] (fun s => clampN (nInt (s.w a) + nInt (s.w b))) s

/-- subsn (R134). -/
def execSubsn (d a b : WReg) (s : State) : Out := compute d [a, b] (fun s => clampN (nInt (s.w a) - nInt (s.w b))) s

/-- and (R134). -/
def execAndB (d a b : WReg) (s : State) : Out := compute d [a, b] (fun s => s.w a &&& s.w b) s

/-- or (R134). -/
def execOrB (d a b : WReg) (s : State) : Out := compute d [a, b] (fun s => s.w a ||| s.w b) s

/-- xor (R134). -/
def execXorB (d a b : WReg) (s : State) : Out := compute d [a, b] (fun s => s.w a ^^^ s.w b) s

/-- andn (R134). -/
def execAndn (d a b : WReg) (s : State) : Out := compute d [a, b] (fun s => s.w a &&& ~~~s.w b) s

/-- shl (R134). -/
def execShl (d a b : WReg) (s : State) : Out := compute d [a, b] (fun s => s.w a <<< amount (s.w b)) s

/-- shr (R134). -/
def execShr (d a b : WReg) (s : State) : Out := compute d [a, b] (fun s => s.w a >>> amount (s.w b)) s

/-- sar (R134). -/
def execSar (d a b : WReg) (s : State) : Out := compute d [a, b] (fun s => (s.w a).sshiftRight (amount (s.w b))) s

/-- rol (R134). -/
def execRol (d a b : WReg) (s : State) : Out := compute d [a, b] (fun s => (s.w a).rotateLeft (amount (s.w b))) s

/-- ror (R134). -/
def execRor (d a b : WReg) (s : State) : Out := compute d [a, b] (fun s => (s.w a).rotateRight (amount (s.w b))) s

/-- clz (R134). -/
def execClz (d a : WReg) (s : State) : Out := compute d [a] (fun s => (s.w a).clz) s

/-- ctz (R134). -/
def execCtz (d a : WReg) (s : State) : Out := compute d [a] (fun s => (s.w a).ctz) s

/-- popc (R134). -/
def execPopc (d a : WReg) (s : State) : Out := compute d [a] (fun s => (s.w a).cpop) s

/-- brev (R134). -/
def execBrev (d a : WReg) (s : State) : Out := compute d [a] (fun s => (s.w a).reverse) s

/-- bswap (R134). -/
def execBswap (d a : WReg) (s : State) : Out := compute d [a] (fun s => swapBytes (s.w a)) s

/-- min (R134). -/
def execMin (d a b : WReg) (s : State) : Out := compute d [a, b] (fun s => if sInt (s.w b) < sInt (s.w a) then s.w b else s.w a) s

/-- max (R134). -/
def execMax (d a b : WReg) (s : State) : Out := compute d [a, b] (fun s => if sInt (s.w a) < sInt (s.w b) then s.w b else s.w a) s

/-- minn (R134). -/
def execMinn (d a b : WReg) (s : State) : Out := compute d [a, b] (fun s => if nInt (s.w b) < nInt (s.w a) then s.w b else s.w a) s

/-- maxn (R134). -/
def execMaxn (d a b : WReg) (s : State) : Out := compute d [a, b] (fun s => if nInt (s.w a) < nInt (s.w b) then s.w b else s.w a) s

/-- addi (R136). -/
def execAddi (d a : WReg) (imm : BitVec 48) (s : State) : Out := compute d [a] (fun s => s.w a + imm.signExtend 64) s

/-- andi (R136). -/
def execAndi (d a : WReg) (imm : BitVec 48) (s : State) : Out := compute d [a] (fun s => s.w a &&& imm.signExtend 64) s

/-- ori (R136). -/
def execOri (d a : WReg) (imm : BitVec 48) (s : State) : Out := compute d [a] (fun s => s.w a ||| imm.signExtend 64) s

/-- xori (R136). -/
def execXori (d a : WReg) (imm : BitVec 48) (s : State) : Out := compute d [a] (fun s => s.w a ^^^ imm.signExtend 64) s

/-- shli (R136). -/
def execShli (d a : WReg) (n : BitVec 6) (s : State) : Out := compute d [a] (fun s => s.w a <<< n.toNat) s

/-- shri (R136). -/
def execShri (d a : WReg) (n : BitVec 6) (s : State) : Out := compute d [a] (fun s => s.w a >>> n.toNat) s

/-- sari (R136). -/
def execSari (d a : WReg) (n : BitVec 6) (s : State) : Out := compute d [a] (fun s => (s.w a).sshiftRight n.toNat) s

/-- mov (R136). -/
def execMov (d a : WReg) (s : State) : Out := compute d [a] (fun s => s.w a) s

/-- movi (R136). -/
def execMovi (d : WReg) (imm : BitVec 48) (s : State) : Out := compute d [] (fun _ => imm.signExtend 64) s

/-- movhi (R136). -/
def execMovhi (d a : WReg) (imm : BitVec 16) (s : State) : Out := compute d [a] (fun s => imm ++ (s.w a).extractLsb' 0 48) s

/-- sext (R136). -/
def execSext (d a : WReg) (n : BitVec 7) (s : State) : Out := compute d [a] (fun s => BitVec.ofInt 64 (signed n.toNat (s.w a).toNat)) s

/-- zext (R136). -/
def execZext (d a : WReg) (n : BitVec 7) (s : State) : Out := compute d [a] (fun s => BitVec.ofNat 64 ((s.w a).toNat % 2 ^ n.toNat)) s

/-- sel (R134). -/
def execSel (d a b c : WReg) (s : State) : Out := compute d [a, b, c] (fun s => if s.w c ≠ 0 then s.w a else s.w b) s

/-- seq (R134). -/
def execSeq (d a b : WReg) (s : State) : Out := compute d [a, b] (fun s => flag (s.w a == s.w b)) s

/-- slt (R134). -/
def execSlt (d a b : WReg) (s : State) : Out := compute d [a, b] (fun s => flag (sInt (s.w a) < sInt (s.w b))) s

/-- sltn (R134). -/
def execSltn (d a b : WReg) (s : State) : Out := compute d [a, b] (fun s => flag (nInt (s.w a) < nInt (s.w b))) s

/-- addx (R137). -/
def execAddx (d a b : WReg) (sh : BitVec 3) (s : State) : Out := compute d [a, b] (fun s => s.w a + s.w b * 2 ^ sh.toNat) s

end Sys2Proof.Machine
end

