-- ==== Sys2Proof/Machine/Float.lean ====
section
/-! DEFINITION. The scalar floating-point, conversion and compare-skip instructions (R133, R138 to R145). -/

namespace Sys2Proof.Machine

/-- fadd (R138, R139). -/
def execFadd (t : FTy) (d a b : WReg) (rm : Rm) (s : State) : Out :=
  compute d [a, b] (fun s => extend t.ty (fop2 t.ty rm (Val.add rm) (s.w a).toNat (s.w b).toNat)) s

/-- fsub (R138, R139). -/
def execFsub (t : FTy) (d a b : WReg) (rm : Rm) (s : State) : Out :=
  compute d [a, b] (fun s => extend t.ty (fop2 t.ty rm (fun x y => Val.add rm x y.neg) (s.w a).toNat (s.w b).toNat)) s

/-- fmul (R138, R139). -/
def execFmul (t : FTy) (d a b : WReg) (rm : Rm) (s : State) : Out :=
  compute d [a, b] (fun s => extend t.ty (fop2 t.ty rm Val.mul (s.w a).toNat (s.w b).toNat)) s

/-- fdiv (R138, R139). -/
def execFdiv (t : FTy) (d a b : WReg) (rm : Rm) (s : State) : Out :=
  compute d [a, b] (fun s => extend t.ty (fop2 t.ty rm Val.div (s.w a).toNat (s.w b).toNat)) s

/-- fsqrt (R138, R139). -/
def execFsqrt (t : FTy) (d a : WReg) (rm : Rm) (s : State) : Out :=
  compute d [a] (fun s => extend t.ty (fop1 t.ty rm Val.sqrt (s.w a).toNat)) s

/-- fmin (R138, R139). -/
def execFmin (t : FTy) (d a b : WReg) (s : State) : Out :=
  compute d [a, b] (fun s => extend t.ty (fop2 t.ty .rne Val.min (s.w a).toNat (s.w b).toNat)) s

/-- fmax (R138, R139). -/
def execFmax (t : FTy) (d a b : WReg) (s : State) : Out :=
  compute d [a, b] (fun s => extend t.ty (fop2 t.ty .rne Val.max (s.w a).toNat (s.w b).toNat)) s

/-- fabs (R138, R139). -/
def execFabs (t : FTy) (d a : WReg) (s : State) : Out :=
  compute d [a] (fun s => extend t.ty (fop1 t.ty .rne Val.abs (s.w a).toNat)) s

/-- fneg (R138, R139). -/
def execFneg (t : FTy) (d a : WReg) (s : State) : Out :=
  compute d [a] (fun s => extend t.ty (fop1 t.ty .rne Val.neg (s.w a).toNat)) s

/-- fma (R138): one rounding. -/
def execFma (t : FTy) (d a b c : WReg) (rm : Rm) (s : State) : Out :=
  compute d [a, b, c] (fun s => extend t.ty (fused t.ty rm false false (s.w a).toNat (s.w b).toNat (s.w c).toNat)) s

/-- fms (R138): one rounding. -/
def execFms (t : FTy) (d a b c : WReg) (rm : Rm) (s : State) : Out :=
  compute d [a, b, c] (fun s => extend t.ty (fused t.ty rm false true (s.w a).toNat (s.w b).toNat (s.w c).toNat)) s

/-- fnma (R138): one rounding. -/
def execFnma (t : FTy) (d a b c : WReg) (rm : Rm) (s : State) : Out :=
  compute d [a, b, c] (fun s => extend t.ty (fused t.ty rm true false (s.w a).toNat (s.w b).toNat (s.w c).toNat)) s

/-- fnms (R138): one rounding. -/
def execFnms (t : FTy) (d a b c : WReg) (rm : Rm) (s : State) : Out :=
  compute d [a, b, c] (fun s => extend t.ty (fused t.ty rm true true (s.w a).toNat (s.w b).toNat (s.w c).toNat)) s

/-- cvt (R142). -/
def execCvt (dst src : Ty) (d a : WReg) (rm : Rm) (s : State) : Out :=
  compute d [a] (fun s => extend dst (convert dst src rm false (s.w a).toNat)) s

/-- cvts (R142). -/
def execCvts (dst src : Ty) (d a : WReg) (rm : Rm) (s : State) : Out :=
  compute d [a] (fun s => extend dst (convert dst src rm true (s.w a).toNat)) s

/-- fint (R138, R139). -/
def execFint (t : FTy) (d a : WReg) (rm : Rm) (s : State) : Out :=
  compute d [a] (fun s => extend t.ty (fop1 t.ty rm (Val.fint rm) (s.w a).toNat)) s

/-- fclass (R140). -/
def execFclass (t : FTy) (d a : WReg) (s : State) : Out :=
  compute d [a] (fun s => 1 <<< fclass t.ty (s.w a).toNat) s

/-- A set form: 1 when a condition holds (R141). -/
def setOn (c : Cond) (t : FTy) (d a b : WReg) (s : State) : Out :=
  compute d [a, b] (fun s => flag (condHolds t.ty c (s.w a).toNat (s.w b).toNat)) s

/-- fseq (R141). -/
def execFseq (t : FTy) (d a b : WReg) (s : State) : Out := setOn .eq t d a b s

/-- fslt (R141). -/
def execFslt (t : FTy) (d a b : WReg) (s : State) : Out := setOn .lt t d a b s

/-- fsle (R141). -/
def execFsle (t : FTy) (d a b : WReg) (s : State) : Out := setOn .le t d a b s

/-- fsun (R141). -/
def execFsun (t : FTy) (d a b : WReg) (s : State) : Out := setOn .un t d a b s

/-- A compare-skip (R101, R143, R144): the next slot, or the slot after the `n` annulled ones. -/
def skipOn (c : Cond) (t : Ty) (a : WReg) (q : SkipOp) (n : BitVec 2) (s : State) : Out :=
  issue { top := max (a.toNat + 1) (topQ q) } (fun s =>
    let next := nextPoint s.cur.codept
    .ok (finishAt s (if condHolds t c ((s.w a).toNat % 2 ^ t.width) (skipOperand s t q) then skipPoint n.toNat next else next))) s

/-- skeq (R144). -/
def execSkeq (t : Ty) (a : WReg) (q : SkipOp) (n : BitVec 2) (s : State) : Out := skipOn .eq t a q n s

/-- skne (R144). -/
def execSkne (t : Ty) (a : WReg) (q : SkipOp) (n : BitVec 2) (s : State) : Out := skipOn .ne t a q n s

/-- sklt (R144). -/
def execSklt (t : Ty) (a : WReg) (q : SkipOp) (n : BitVec 2) (s : State) : Out := skipOn .lt t a q n s

/-- skge (R144). -/
def execSkge (t : Ty) (a : WReg) (q : SkipOp) (n : BitVec 2) (s : State) : Out := skipOn .ge t a q n s

/-- skgt (R144). -/
def execSkgt (t : Ty) (a : WReg) (q : SkipOp) (n : BitVec 2) (s : State) : Out := skipOn .gt t a q n s

/-- skle (R144). -/
def execSkle (t : Ty) (a : WReg) (q : SkipOp) (n : BitVec 2) (s : State) : Out := skipOn .le t a q n s

/-- skun (R144). -/
def execSkun (t : Ty) (a : WReg) (q : SkipOp) (n : BitVec 2) (s : State) : Out := skipOn .un t a q n s

/-- skor (R144). -/
def execSkor (t : Ty) (a : WReg) (q : SkipOp) (n : BitVec 2) (s : State) : Out := skipOn .ord t a q n s

end Sys2Proof.Machine
end

