-- ==== Sys2Proof/Machine/Vector.lean ====
section
/-! DEFINITION. The register forms of the shared unit (R190 to R206) and the steps that start and finish them (R191, R362). -/

namespace Sys2Proof.Machine

/-- What a register form writes: registers and masks. -/
structure VOut where
  regs : List (Nat × Word)
  masks : List (Nat × Word)

/-- The registers of a group with their new values. -/
def groupRegs (n : Nat) (x : Block) : List (Nat × Word) := ((List.range 8).map (8 * n + ·)).zip (State.groupWords x)

def outGroup (v : VReg) (x : Block) : VOut := { regs := groupRegs v.toNat x, masks := [] }
def outReg (n : Nat) (x : Word) : VOut := { regs := [(n, x)], masks := [] }
def outMask (m : MReg) (x : Word) : VOut := { regs := [], masks := [(m.toNat, x)] }

/-- The entry of a register form at issue: its results, or the late fault that the unit finds (R75, R191). -/
def entryOf (s : State) (r : Except FaultCode VOut) : VEntry :=
  match r with
  | .ok o => { ctx := s.cur.ctx, ins := heldLatch s false false, regs := o.regs, masks := o.masks, fault := none, started := false }
  | .error c =>
    { ctx := s.cur.ctx, ins := heldLatch s false false, regs := [], masks := [], fault := some (flt c).lateOf, started := false }

/-- A register form (R190, R191): it takes a vector entry, or its turn is spent. An entry that a pipe has taken holds no place (R362). -/
def vectorForm (top : Nat) (f : State → Except FaultCode VOut) (s : State) : Out :=
  issue { top := top } (fun s =>
    if Config.vectorEntries ≤ ((s.core s.myCore).vents.filter fun e => !e.started).length then .ok (spendTurn s)
    else
      let t := s.modCore s.myCore fun x => { x with vents := x.vents ++ [entryOf s (f s)] }
      .ok ((finish t).pushOnce (.vectorPipeGrant s.myBarn))) s

/-- The group that a lane-wise form writes (R192). -/
def laneWise (s : State) (t : Ty) (vd : VReg) (mask : MReg) (z : Bool) (f : Nat → Nat) : Block :=
  let m := s.mask mask
  let old := s.v vd
  ofLanes t.width fun i => if m.getLsbD i then f i else if z then 0 else lane t.width old i

/-- A form of two lane operands. -/
def binForm (o : VBin) (f : Nat → Nat → Nat) (s : State) : Out :=
  vectorForm (max (max (topV o.vd) (topV o.va)) (topB o.b)) (fun s =>
    let a := s.v o.va
    .ok (outGroup o.vd (laneWise s o.ty o.vd o.mask o.z fun i => f (lane o.ty.width a i) (bLane s o.ty o.rm o.b i)))) s

/-- A form of one lane operand. -/
def unForm (o : VUn) (f : Nat → Nat) (s : State) : Out :=
  vectorForm (max (topV o.vd) (topV o.va)) (fun s =>
    let a := s.v o.va
    .ok (outGroup o.vd (laneWise s o.ty o.vd o.mask o.z fun i => f (lane o.ty.width a i)))) s

/-- A form of three lane operands. -/
def terForm (o : VTer) (f : Nat → Nat → Nat → Nat) (s : State) : Out :=
  vectorForm (max (max (topV o.vd) (topV o.va)) (max (topB o.b) (topV o.vc))) (fun s =>
    let a := s.v o.va
    let c := s.v o.vc
    .ok (outGroup o.vd (laneWise s o.ty o.vd o.mask o.z fun i =>
      f (lane o.ty.width a i) (bLane s o.ty o.rm o.b i) (lane o.ty.width c i)))) s

/-- Lane arithmetic of a type: exact and wrapped for integers, exact and rounded once for floating point (R194). -/
def laneOp (t : Ty) (rm : Rm) (g : Int → Int → Int) (f : Val → Val → Val) (x y : Nat) : Nat :=
  if t.isFp then fop2 t rm f x y else wrap t.width (g (t.int x) (t.int y))

/-- The clamped result of an integer lane (R194, R59). -/
def laneSat (t : Ty) (g : Int → Int → Int) (x y : Nat) : Nat := wrap t.width (clampInt t.lo t.hi (g (t.int x) (t.int y)))

/-- The comparison of lanes into a mask (R196). -/
def cmpForm (c : Cond) (o : VCmp) (s : State) : Out :=
  vectorForm (max (topV o.va) (topB o.b)) (fun s =>
    let m := s.mask o.mask
    let old := s.mask o.md
    let a := s.v o.va
    let bit (i : Nat) : Bool :=
      if m.getLsbD i then condHolds o.ty c (lane o.ty.width a i) (bLane s o.ty .rne o.b i) else !o.z && old.getLsbD i
    .ok (outMask o.md (BitVec.ofNat 64 (packLanes 1 ((List.range o.ty.lanes).map fun i => (bit i).toNat))))) s

/-- A reduction to a register (R198): in the computing type, the identity when every lane is absent (R84). -/
def reduceForm1 (r : RedOp) (t : Ty) (vd va : VReg) (mask : MReg) (s : State) : Out :=
  vectorForm (max (topV vd) (topV va)) (fun s =>
    let c := compTy t
    .ok (outReg (8 * vd.toNat) (extend c ((reduceLanes r t (s.mask mask) (s.v va)).getD (identity r c))))) s

/-- A shuffle whose lane `i` comes from the two groups (R199). -/
def shuffleForm (t : Ty) (vd va vb : VReg) (mask : MReg) (z : Bool) (f : (Nat → Nat) → (Nat → Nat) → Nat → Nat) (s : State) :
    Out :=
  vectorForm (max (topV vd) (max (topV va) (topV vb))) (fun s =>
    let a := s.v va
    let b := s.v vb
    .ok (outGroup vd (laneWise s t vd mask z (f (lane t.width a) (lane t.width b))))) s

/-- Bits 0 to L - 1 of a mask (R200). -/
def lanesOf (t : Ty) (m : Word) : Nat := m.toNat % 2 ^ t.lanes

/-- A mask form (R200). -/
def maskForm (t : Ty) (d a b : MReg) (f : Word → Word → Word) (s : State) : Out :=
  vectorForm 0 (fun s => .ok (outMask d (BitVec.ofNat 64 (lanesOf t (f (s.mask a) (s.mask b)))))) s

/-- The index of the lowest set bit of the low `n` bits, `n` when none is set. -/
def firstBit (n v : Nat) : Nat := ((List.range n).find? fun i => v.testBit i).getD n

/-- A lane of a group set to a value (R201). -/
def withLane (e : Nat) (x : Block) (j v : Nat) : Block := ofLanes e fun i => if i = j then v % 2 ^ e else lane e x i

/-- Lanes of consecutive groups: value `j` is lane j mod L of group va + j div L (R203). -/
def runLane (s : State) (t : Ty) (va : VReg) (j : Nat) : Nat := lane t.width (s.groupOf s.cur.ctx (va.toNat + j / t.lanes)) (j % t.lanes)

/-- One more than the highest register of a run of groups. -/
def topRun (va : VReg) (n : Nat) : Nat := 8 * (va.toNat + n)

/-- qnt and qntg (R203): the scale is chosen, or given by w[n]. -/
def quantForm (given : Bool) (fmt : BitVec 8) (t : Ty) (vd va vc : VReg) (n : WReg) (s : State) : Out :=
  vectorForm (max (max (topV vd) (topRun va (blockGroups fmt t)))
      (max (n.toNat + 1) (if sparseFmt fmt then topV vc else 0))) (fun s =>
    let xs := (List.range (blockVals fmt)).map fun j => Val.decode t (runLane s t va j)
    let mask := (s.wn (8 * vc.toNat)).toNat + 2 ^ 64 * (s.wn (8 * vc.toNat + 1)).toNat
    if sparseFmt fmt && 384 / fmtWidth fmt < popcount 128 mask then .error .fmtIll
    else
      let (tag, b) := quantise fmt (if given then some ((s.w n).toNat % 256) else none) mask xs
      .ok { regs := groupRegs vd.toNat b ++ [(n.toNat, tag.setWidth 64)], masks := [] }) s

/-- The groups of a run from its lanes. -/
def runRegs (t : Ty) (vd : VReg) (vals : List Nat) : List (Nat × Word) :=
  ((List.range (vals.length / t.lanes)).map fun g =>
    groupRegs (vd.toNat + g) (BitVec.ofNat 512 (packLanes t.width ((vals.drop (g * t.lanes)).take t.lanes)))).flatten

/-- The formats that bdot accepts (R205). -/
def denseOrSparse (f : BitVec 8) : Bool := denseFmt f || sparseFmt f

/-- Grants vector entries to the two pipes, the cores round-robin after the core granted last (R362). -/
def grantPipes (s : State) (b : Nat) : State :=
  let order := (List.range 4).map fun i => ((s.barn b).lastVector + 1 + i) % 4
  let ready := (order.filter fun j => (s.core (4 * b + j)).vents.any fun e => !e.started).take 2
  ready.foldl (fun s j =>
    let start (vs : List VEntry) : List VEntry :=
      (vs.takeWhile (·.started)) ++ (match vs.dropWhile (·.started) with | e :: r => { e with started := true } :: r | [] => [])
    match (s.core (4 * b + j)).vents.find? fun e => !e.started with
    | some e =>
      ((s.modCore (4 * b + j) fun x => { x with vents := start x.vents }).modBarn b fun x => { x with lastVector := j }).push
        (.vectorResult e.ctx)
    | none => s) s

/-- VECTOR_PIPE_GRANT (R362). -/
def execVectorPipeGrant (b : Nat) (s : State) : Out :=
  let waiting (s : State) : Bool := (coresOfBarn b).any fun i => (s.core i).vents.any fun e => !e.started
  if waiting s then
    let t := grantPipes (s.did (.vectorPipeGrant b)) b
    .next (if waiting t then t.pushOnce (.vectorPipeGrant b) else t)
  else .next s

/-- Writes the results of a register form. -/
def writeResults (s : State) (c : Nat) (e : VEntry) : State :=
  let t := e.regs.foldl (fun s p => s.setRegOf c p.1 p.2) s
  e.masks.foldl (fun s p => s.setMaskOf c (BitVec.ofNat 3 p.1) p.2) t

/-- The first started entry of a context leaves the queue with its results, or with its late fault (R191). -/
def finishEntry (s : State) (c : Nat) : Option State :=
  match (s.core (coreOf c)).vents.find? fun e => e.ctx == c && e.started with
  | none => none
  | some e =>
    let t := s.modCore (coreOf c) fun x => { x with vents := x.vents.erase e }
    match e.fault with
    | none => some (writeResults t c e)
    | some f => some (raise (actFor t c e.ins) f)

/-- VECTOR_RESULT (R191). -/
def execVectorResult (c : Nat) (s : State) : Out :=
  match finishEntry (s.did (.vectorResult c)) c with
  | some t => .next t
  | none => .next s

/-- vadd (R195). -/
def execVadd (o : VBin) (s : State) : Out :=
  binForm o (laneOp o.ty o.rm (fun x y => x + y) (Val.add o.rm)) s

/-- vsub (R195). -/
def execVsub (o : VBin) (s : State) : Out :=
  binForm o (laneOp o.ty o.rm (fun x y => x - y) (fun x y => Val.add o.rm x y.neg)) s

/-- vmul (R195). -/
def execVmul (o : VBin) (s : State) : Out :=
  binForm o (laneOp o.ty o.rm (fun x y => x * y) (Val.mul)) s

/-- vdiv (R195). -/
def execVdiv (o : VBin) (s : State) : Out :=
  binForm o (fop2 o.ty o.rm Val.div) s

/-- vmin (R195, R66). -/
def execVmin (o : VBin) (s : State) : Out :=
  binForm o (laneOp o.ty .rne (fun x y => if y < x then y else x) Val.min) s

/-- vmax (R195, R66). -/
def execVmax (o : VBin) (s : State) : Out :=
  binForm o (laneOp o.ty .rne (fun x y => if x < y then y else x) Val.max) s

/-- vabs (R195). -/
def execVabs (o : VUn) (s : State) : Out :=
  unForm o (fun x => if o.ty.isFp then fop1 o.ty .rne Val.abs x else wrap o.ty.width (o.ty.int x).natAbs) s

/-- vneg (R195). -/
def execVneg (o : VUn) (s : State) : Out :=
  unForm o (fun x => if o.ty.isFp then fop1 o.ty .rne Val.neg x else wrap o.ty.width (-(o.ty.int x))) s

/-- vsqrt (R195, R139). -/
def execVsqrt (o : VUn) (s : State) : Out :=
  unForm o (fop1 o.ty o.rm Val.sqrt) s

/-- vfma (R195). -/
def execVfma (o : VTer) (s : State) : Out :=
  terForm o (fused o.ty o.rm false false) s

/-- vfms (R195). -/
def execVfms (o : VTer) (s : State) : Out :=
  terForm o (fused o.ty o.rm false true) s

/-- vfnma (R195). -/
def execVfnma (o : VTer) (s : State) : Out :=
  terForm o (fused o.ty o.rm true false) s

/-- vadds (R195). -/
def execVadds (o : VBin) (s : State) : Out :=
  binForm o (laneSat o.ty (fun x y => x + y)) s

/-- vsubs (R195). -/
def execVsubs (o : VBin) (s : State) : Out :=
  binForm o (laneSat o.ty (fun x y => x - y)) s

/-- vand (R195). -/
def execVand (o : VBin) (s : State) : Out :=
  binForm o (fun x y => x &&& y) s

/-- vor (R195). -/
def execVor (o : VBin) (s : State) : Out :=
  binForm o (fun x y => x ||| y) s

/-- vxor (R195). -/
def execVxor (o : VBin) (s : State) : Out :=
  binForm o (fun x y => x ^^^ y) s

/-- vandn (R195). -/
def execVandn (o : VBin) (s : State) : Out :=
  binForm o (fun x y => x &&& (2 ^ o.ty.width - 1 - y)) s

/-- vshl (R195). -/
def execVshl (o : VBin) (s : State) : Out :=
  binForm o (fun x y => x * 2 ^ (y % o.ty.width) % 2 ^ o.ty.width) s

/-- vshr (R195). -/
def execVshr (o : VBin) (s : State) : Out :=
  binForm o (fun x y => x / 2 ^ (y % o.ty.width)) s

/-- vsar (R195). -/
def execVsar (o : VBin) (s : State) : Out :=
  binForm o (fun x y => wrap o.ty.width (signed o.ty.width x / 2 ^ (y % o.ty.width))) s

/-- vcmpeq (R196). -/
def execVcmpeq (o : VCmp) (s : State) : Out :=
  cmpForm .eq o s

/-- vcmpne (R196). -/
def execVcmpne (o : VCmp) (s : State) : Out :=
  cmpForm .ne o s

/-- vcmplt (R196). -/
def execVcmplt (o : VCmp) (s : State) : Out :=
  cmpForm .lt o s

/-- vcmpge (R196). -/
def execVcmpge (o : VCmp) (s : State) : Out :=
  cmpForm .ge o s

/-- vcmpgt (R196). -/
def execVcmpgt (o : VCmp) (s : State) : Out :=
  cmpForm .gt o s

/-- vcmple (R196). -/
def execVcmple (o : VCmp) (s : State) : Out :=
  cmpForm .le o s

/-- vcmpun (R196). -/
def execVcmpun (o : VCmp) (s : State) : Out :=
  cmpForm .un o s

/-- vcmpor (R196). -/
def execVcmpor (o : VCmp) (s : State) : Out :=
  cmpForm .ord o s

/-- vcvt (R197): part `p` of the wider run of lanes. -/
def execVcvt (dst : Ty) (o : VUn) (p : BitVec 4) (sat : Bool) (s : State) : Out :=
  vectorForm (max (topV o.vd) (topV o.va)) (fun s =>
    let es := o.ty.width
    let ed := dst.width
    let n := 512 / max es ed
    let m := s.mask o.mask
    let a := s.v o.va
    let old := s.v o.vd
    let base := if ed < es then p.toNat * n else 0
    .ok (outGroup o.vd (ofLanes ed fun d =>
      let i := d - base
      if d < base || base + n ≤ d then lane ed old d
      else if m.getLsbD i then convert dst o.ty o.rm sat (lane es a (if es < ed then p.toNat * n + i else i))
      else if o.z then 0 else lane ed old d))) s

/-- vrsum (R198). -/
def execVrsum (t : Ty) (vd va : VReg) (mask : MReg) (s : State) : Out :=
  reduceForm1 .sum t vd va mask s

/-- vrmax (R198). -/
def execVrmax (t : Ty) (vd va : VReg) (mask : MReg) (s : State) : Out :=
  reduceForm1 .max t vd va mask s

/-- vrmin (R198). -/
def execVrmin (t : Ty) (vd va : VReg) (mask : MReg) (s : State) : Out :=
  reduceForm1 .min t vd va mask s

/-- vperm (R199). -/
def execVperm (t : Ty) (vd va vb : VReg) (mask : MReg) (z : Bool) (s : State) : Out :=
  shuffleForm t vd va vb mask z (fun a b i => a (b i % t.lanes)) s

/-- vbcast (R199). -/
def execVbcast (t : Ty) (vd va : VReg) (j : BitVec 6) (mask : MReg) (z : Bool) (s : State) : Out :=
  shuffleForm t vd va va mask z (fun a _ _ => a j.toNat) s

/-- vrot (R199). -/
def execVrot (t : Ty) (vd va : VReg) (j : BitVec 6) (mask : MReg) (z : Bool) (s : State) : Out :=
  shuffleForm t vd va va mask z (fun a _ i => a ((i + j.toNat) % t.lanes)) s

/-- vzip (R199). -/
def execVzip (t : Ty) (vd va vb : VReg) (h : Bool) (mask : MReg) (z : Bool) (s : State) : Out :=
  shuffleForm t vd va vb mask z (fun a b i =>
    let j := (if h then t.lanes / 2 else 0) + i / 2
    if i % 2 = 0 then a j else b j) s

/-- vunzip (R199). -/
def execVunzip (t : Ty) (vd va vb : VReg) (h : Bool) (mask : MReg) (z : Bool) (s : State) : Out :=
  shuffleForm t vd va vb mask z (fun a b i =>
    if i < t.lanes / 2 then a (2 * i + h.toNat) else b (2 * (i - t.lanes / 2) + h.toNat)) s

/-- vsel (R199): the mask chooses between the operands. -/
def execVsel (t : Ty) (vd va : VReg) (b : BOp) (mask : MReg) (s : State) : Out :=
  vectorForm (max (max (topV vd) (topV va)) (topB b)) (fun s =>
    let m := s.mask mask
    let a := s.v va
    .ok (outGroup vd (ofLanes t.width fun i => if m.getLsbD i then lane t.width a i else bLane s t .rne b i))) s

/-- mand (R200). -/
def execMand (t : Ty) (d a b : MReg) (s : State) : Out :=
  maskForm t d a b (fun x y => x &&& y) s

/-- mor (R200). -/
def execMor (t : Ty) (d a b : MReg) (s : State) : Out :=
  maskForm t d a b (fun x y => x ||| y) s

/-- mxor (R200). -/
def execMxor (t : Ty) (d a b : MReg) (s : State) : Out :=
  maskForm t d a b (fun x y => x ^^^ y) s

/-- mnot (R200). -/
def execMnot (t : Ty) (d a : MReg) (s : State) : Out :=
  maskForm t d a a (fun x _ => ~~~x) s

/-- mpop (R200). -/
def execMpop (t : Ty) (n : WReg) (a : MReg) (s : State) : Out :=
  vectorForm (topOf [n]) (fun s => .ok (outReg n.toNat (BitVec.ofNat 64 (popcount t.lanes (s.mask a).toNat)))) s

/-- mfirst (R200). -/
def execMfirst (t : Ty) (n : WReg) (a : MReg) (s : State) : Out :=
  vectorForm (topOf [n]) (fun s => .ok (outReg n.toNat (BitVec.ofNat 64 (firstBit t.lanes (s.mask a).toNat)))) s

/-- vins (R201). -/
def execVins (t : Ty) (vd : VReg) (n : WReg) (j : BitVec 6) (s : State) : Out :=
  vectorForm (max (topV vd) (topOf [n])) (fun s => .ok (outGroup vd (withLane t.width (s.v vd) j.toNat (s.w n).toNat))) s

/-- vext (R201). -/
def execVext (t : Ty) (n : WReg) (va : VReg) (j : BitVec 6) (s : State) : Out :=
  vectorForm (max (topOf [n]) (topV va)) (fun s => .ok (outReg n.toNat (extend t (lane t.width (s.v va) j.toNat)))) s

/-- qnt (R203, R77). -/
def execQnt (fmt : BitVec 8) (t : Ty) (vd va vc : VReg) (n : WReg) (s : State) : Out := quantForm false fmt t vd va vc n s

/-- qntg (R203, R78). -/
def execQntg (fmt : BitVec 8) (t : Ty) (vd va vc : VReg) (n : WReg) (s : State) : Out := quantForm true fmt t vd va vc n s

/-- dqnt (R204, R76). A tag register inside the destination groups keeps its value (R444). DEDUCED (log 25): R224 has the form ILLEGAL there and R444 runs
it; unsafe. -/
def execDqnt (fmt : BitVec 8) (t : Ty) (vd va : VReg) (n : WReg) (rm : Rm) (s : State) : Out :=
  vectorForm (max (max (topV va) (topRun vd (blockGroups fmt t))) (topOf [n])) (fun s =>
    let tag := (s.w n).setWidth 16
    match checkTag (· == fmt) tag (s.v va) with
    | some c => .error c
    | none => .ok { regs := (runRegs t vd ((blockValues tag (s.v va)).map fun x => x.encode t rm)).filter (·.1 ≠ n.toNat), masks := [] }) s

/-- bdot (R205, R80, R81). -/
def execBdot (vd va vb : VReg) (n : WReg) (s : State) : Out :=
  vectorForm (max (max (topV vd) (topV va)) (max (topV vb) (topOf [n]))) (fun s =>
    let ta := (s.w n).setWidth 16
    let tb := (s.w n).extractLsb' 16 16
    match checkTag denseOrSparse ta (s.v va), checkTag denseOrSparse tb (s.v vb) with
    | some c, _ => .error c
    | none, some c => .error c
    | none, none =>
      if blockVals (tagFormat ta) ≠ blockVals (tagFormat tb) then .error .fmtClash
      else
        let acc := (s.wn (8 * vd.toNat)).toNat % 2 ^ 32
        .ok (outReg (8 * vd.toNat)
          (BitVec.ofNat 64 (addPair acc ta tb (dotSum (mantissas ta (s.v va)) (mantissas tb (s.v vb))))))) s

/-- bscale (R206). -/
def execBscale (vd va : VReg) (n : WReg) (delta : BitVec 8) (s : State) : Out :=
  vectorForm (max (max (topV vd) (topV va)) (topOf [n])) (fun s =>
    let tag := (s.w n).setWidth 16
    let f := tagFormat tag
    match checkTag blockFmt tag (s.v va) with
    | some c => .error c
    | none =>
      let e := tagScale tag
      let sc : Int := e + delta.toInt
      let (t, b) : BitVec 16 × Block :=
        if e = 0 || e = 255 then (tag, s.v va)
        else if 1 ≤ sc && sc ≤ 254 then (mkTag f sc.toNat, s.v va)
        else if 254 < sc then (mkTag f 255, 0)
        else (mkTag f 0, 0)
      .ok { regs := groupRegs vd.toNat b ++ [(n.toNat, t.setWidth 64)], masks := [] }) s

end Sys2Proof.Machine
end

