-- ==== Sys2Proof/Machine/Dispatch.lean ====
section
/-! DEFINITION. The dispatch of an instruction or a step to its meaning, one arm per constructor of `Instr`. -/

namespace Sys2Proof.Machine

/-- One instruction or one step of the device (spec/opcode_table.json). -/
def exec (i : Instr) (s : State) : Host.Outcome State Fault Refusal :=
  match i with
  | .eventDelivery c => Sys2Proof.Machine.execEventDelivery c s
  | .lineFill core loc e1 e2 => Sys2Proof.Machine.execLineFill core loc e1 e2 s
  | .memoryReply c => Sys2Proof.Machine.execMemoryReply c s
  | .postedWriteAccept c => Sys2Proof.Machine.execPostedWriteAccept c s
  | .writePerformed id => Sys2Proof.Machine.execWritePerformed id s
  | .flagIncrement c => Sys2Proof.Machine.execFlagIncrement c s
  | .vectorResult c => Sys2Proof.Machine.execVectorResult c s
  | .vectorPipeGrant barn => Sys2Proof.Machine.execVectorPipeGrant barn s
  | .tileOpComplete c => Sys2Proof.Machine.execTileOpComplete c s
  | .matrixKBlock c => Sys2Proof.Machine.execMatrixKBlock c s
  | .matrixComplete c => Sys2Proof.Machine.execMatrixComplete c s
  | .lockGrant c => Sys2Proof.Machine.execLockGrant c s
  | .handoffEntryGiven core q idx => Sys2Proof.Machine.execHandoffEntryGiven core q idx s
  | .gateArrivalCounts c g => Sys2Proof.Machine.execGateArrivalCounts c g s
  | .gateSweep core g p => Sys2Proof.Machine.execGateSweep core g p s
  | .gateRelease core g => Sys2Proof.Machine.execGateRelease core g s
  | .ringSlotWrite m => Sys2Proof.Machine.execRingSlotWrite m s
  | .moveByteCopy id => Sys2Proof.Machine.execMoveByteCopy id s
  | .timedMessageArrival m => Sys2Proof.Machine.execTimedMessageArrival m s
  | .recallArrival m => Sys2Proof.Machine.execRecallArrival m s
  | .acknowledgement m => Sys2Proof.Machine.execAcknowledgement m s
  | .backPressureResend id => Sys2Proof.Machine.execBackPressureResend id s
  | .flipSweep launch => Sys2Proof.Machine.execFlipSweep launch s
  | .countSweep launch => Sys2Proof.Machine.execCountSweep launch s
  | .deferredRelease launch => Sys2Proof.Machine.execDeferredRelease launch s
  | .faultRecordPost c => Sys2Proof.Machine.execFaultRecordPost c s
  | .timer c => Sys2Proof.Machine.execTimer c s
  | .sleepExpiry c => Sys2Proof.Machine.execSleepExpiry c s
  | .sleepDepthEntry core => Sys2Proof.Machine.execSleepDepthEntry core s
  | .coreWake core => Sys2Proof.Machine.execCoreWake core s
  | .exitTest barn pass => Sys2Proof.Machine.execExitTest barn pass s
  | .timingReplay barn => Sys2Proof.Machine.execTimingReplay barn s
  | .scrubMaintenanceSlot core bank => Sys2Proof.Machine.execScrubMaintenanceSlot core bank s
  | .scrubBlock loc uncorrectable => Sys2Proof.Machine.execScrubBlock loc uncorrectable s
  | .slotTableTakesEffect core => Sys2Proof.Machine.execSlotTableTakesEffect core s
  | .slotCommit core => Sys2Proof.Machine.execSlotCommit core s
  | .ctxLoad core n adr => Sys2Proof.Machine.execCtxLoad core n adr s
  | .ctxSave core n adr => Sys2Proof.Machine.execCtxSave core n adr s
  | .ctxRelease core n => Sys2Proof.Machine.execCtxRelease core n s
  | .ctxCmdComplete core => Sys2Proof.Machine.execCtxCmdComplete core s
  | .translationMiss c => Sys2Proof.Machine.execTranslationMiss c s
  | .tableWalkDone stn asid granule => Sys2Proof.Machine.execTableWalkDone stn asid granule s
  | .niRetry c => Sys2Proof.Machine.execNiRetry c s
  | .stationAck c stn => Sys2Proof.Machine.execStationAck c stn s
  | .fbPop stn => Sys2Proof.Machine.execFbPop stn s
  | .fbFail stn v => Sys2Proof.Machine.execFbFail stn v s
  | .stnReplayAll stn => Sys2Proof.Machine.execStnReplayAll stn s
  | .stnInvalidateAll stn => Sys2Proof.Machine.execStnInvalidateAll stn s
  | .registerWrite adr v => Sys2Proof.Machine.execRegisterWrite adr v s
  | .bteRequest eng id => Sys2Proof.Machine.execBteRequest eng id s
  | .bteRetry eng id => Sys2Proof.Machine.execBteRetry eng id s
  | .channelBlockWrite core ch blk => Sys2Proof.Machine.execChannelBlockWrite core ch blk s
  | .channelComplete core ch => Sys2Proof.Machine.execChannelComplete core ch s
  | .mcastAck core ch dst => Sys2Proof.Machine.execMcastAck core ch dst s
  | .windowRead p => Sys2Proof.Machine.execWindowRead p s
  | .windowWrite p => Sys2Proof.Machine.execWindowWrite p s
  | .windowWrite64 p => Sys2Proof.Machine.execWindowWrite64 p s
  | .windowAtomic p => Sys2Proof.Machine.execWindowAtomic p s
  | .replyWithData p => Sys2Proof.Machine.execReplyWithData p s
  | .replyStatus p => Sys2Proof.Machine.execReplyStatus p s
  | .refusal p => Sys2Proof.Machine.execRefusal p s
  | .blockCopied p => Sys2Proof.Machine.execBlockCopied p s
  | .hitchPrepared p => Sys2Proof.Machine.execHitchPrepared p s
  | .hitchCommit p => Sys2Proof.Machine.execHitchCommit p s
  | .hitchAbort p => Sys2Proof.Machine.execHitchAbort p s
  | .hitchJoinRequest p => Sys2Proof.Machine.execHitchJoinRequest p s
  | .hitchDetachRequest p => Sys2Proof.Machine.execHitchDetachRequest p s
  | .hitchAcknowledge p => Sys2Proof.Machine.execHitchAcknowledge p s
  | .exitNotice p => Sys2Proof.Machine.execExitNotice p s
  | .withdraw p => Sys2Proof.Machine.execWithdraw p s
  | .hitchPrepare launch x y codeVa => Sys2Proof.Machine.execHitchPrepare launch x y codeVa s
  | .linkReplay port => Sys2Proof.Machine.execLinkReplay port s
  | .portRetrain port ok => Sys2Proof.Machine.execPortRetrain port ok s
  | .portDown port => Sys2Proof.Machine.execPortDown port s
  | .launch queue e => Sys2Proof.Machine.execLaunch queue e s
  | .feed queue e => Sys2Proof.Machine.execFeed queue e s
  | .cancel queue e => Sys2Proof.Machine.execCancel queue e s
  | .doorbell fn queue v => Sys2Proof.Machine.execDoorbell fn queue v s
  | .launchPlacement launch x y codeVa => Sys2Proof.Machine.execLaunchPlacement launch x y codeVa s
  | .launchCompletion launch => Sys2Proof.Machine.execLaunchCompletion launch s
  | .completionRecord queue => Sys2Proof.Machine.execCompletionRecord queue s
  | .paddockPreempt launch => Sys2Proof.Machine.execPaddockPreempt launch s
  | .graceExpiry launch => Sys2Proof.Machine.execGraceExpiry launch s
  | .quantumExpiry launch => Sys2Proof.Machine.execQuantumExpiry launch s
  | .openLatest region => Sys2Proof.Machine.execOpenLatest region s
  | .openPrivate region => Sys2Proof.Machine.execOpenPrivate region s
  | .publish region => Sys2Proof.Machine.execPublish region s
  | .close region => Sys2Proof.Machine.execClose region s
  | .hostLoss region => Sys2Proof.Machine.execHostLoss region s
  | .extentWithdraw first len => Sys2Proof.Machine.execExtentWithdraw first len s
  | .withdrawComplete first len => Sys2Proof.Machine.execWithdrawComplete first len s
  | .getVersion fn => Sys2Proof.Machine.execGetVersion fn s
  | .getCapabilities fn => Sys2Proof.Machine.execGetCapabilities fn s
  | .negotiateAlgorithms fn => Sys2Proof.Machine.execNegotiateAlgorithms fn s
  | .getDigests fn => Sys2Proof.Machine.execGetDigests fn s
  | .getCertificate fn => Sys2Proof.Machine.execGetCertificate fn s
  | .challenge fn => Sys2Proof.Machine.execChallenge fn s
  | .getMeasurements fn index => Sys2Proof.Machine.execGetMeasurements fn index s
  | .keyExchange fn => Sys2Proof.Machine.execKeyExchange fn s
  | .finish session => Sys2Proof.Machine.execFinish session s
  | .keyUpdate session => Sys2Proof.Machine.execKeyUpdate session s
  | .heartbeat session => Sys2Proof.Machine.execHeartbeat session s
  | .endSession session => Sys2Proof.Machine.execEndSession session s
  | .vendorDefinedRequest session r => Sys2Proof.Machine.execVendorDefinedRequest session r s
  | .unsupportedRequest fn code => Sys2Proof.Machine.execUnsupportedRequest fn code s
  | .heartbeatTimeout session => Sys2Proof.Machine.execHeartbeatTimeout session s
  | .lockInterfaceRequest session w => Sys2Proof.Machine.execLockInterfaceRequest session w s
  | .getDeviceInterfaceReport session w => Sys2Proof.Machine.execGetDeviceInterfaceReport session w s
  | .startInterfaceRequest session w => Sys2Proof.Machine.execStartInterfaceRequest session w s
  | .stopInterfaceRequest session w => Sys2Proof.Machine.execStopInterfaceRequest session w s
  | .ideIntegrityFailure w => Sys2Proof.Machine.execIdeIntegrityFailure w s
  | .securityAlarm k => Sys2Proof.Machine.execSecurityAlarm k s
  | .testModeEntry => Sys2Proof.Machine.execTestModeEntry s
  | .thermalThrottle on => Sys2Proof.Machine.execThermalThrottle on s
  | .powerGood o => Sys2Proof.Machine.execPowerGood o s
  | .startWatchdog => Sys2Proof.Machine.execStartWatchdog s
  | .firstQueueEnable queue => Sys2Proof.Machine.execFirstQueueEnable queue s
  | .packageSleep => Sys2Proof.Machine.execPackageSleep s
  | .packageResume => Sys2Proof.Machine.execPackageResume s
  | .powerLoss => Sys2Proof.Machine.execPowerLoss s
  | .unusedTurn core => Sys2Proof.Machine.execUnusedTurn core s
  | .paddockRebind launch x y => Sys2Proof.Machine.execPaddockRebind launch x y s
  | .cxlMemAccess region off wr line => Sys2Proof.Machine.execCxlMemAccess region off wr line s
  | .unknownOp queue e => Sys2Proof.Machine.execUnknownOp queue e s
  | .unknownPacketType p => Sys2Proof.Machine.execUnknownPacketType p s
  | .wipePassEnd c => Sys2Proof.Machine.execWipePassEnd c s
  | .stopCompletion w => Sys2Proof.Machine.execStopCompletion w s
  | .nop => Sys2Proof.Machine.execNop s
  | .add d a b => Sys2Proof.Machine.execAdd d a b s
  | .sub d a b => Sys2Proof.Machine.execSub d a b s
  | .mul d a b => Sys2Proof.Machine.execMul d a b s
  | .mulh d a b => Sys2Proof.Machine.execMulh d a b s
  | .mulhn d a b => Sys2Proof.Machine.execMulhn d a b s
  | .div d a b => Sys2Proof.Machine.execDiv d a b s
  | .divn d a b => Sys2Proof.Machine.execDivn d a b s
  | .rem d a b => Sys2Proof.Machine.execRem d a b s
  | .remn d a b => Sys2Proof.Machine.execRemn d a b s
  | .adds d a b => Sys2Proof.Machine.execAdds d a b s
  | .subs d a b => Sys2Proof.Machine.execSubs d a b s
  | .addsn d a b => Sys2Proof.Machine.execAddsn d a b s
  | .subsn d a b => Sys2Proof.Machine.execSubsn d a b s
  | .andB d a b => Sys2Proof.Machine.execAndB d a b s
  | .orB d a b => Sys2Proof.Machine.execOrB d a b s
  | .xorB d a b => Sys2Proof.Machine.execXorB d a b s
  | .andn d a b => Sys2Proof.Machine.execAndn d a b s
  | .shl d a b => Sys2Proof.Machine.execShl d a b s
  | .shr d a b => Sys2Proof.Machine.execShr d a b s
  | .sar d a b => Sys2Proof.Machine.execSar d a b s
  | .rol d a b => Sys2Proof.Machine.execRol d a b s
  | .ror d a b => Sys2Proof.Machine.execRor d a b s
  | .clz d a => Sys2Proof.Machine.execClz d a s
  | .ctz d a => Sys2Proof.Machine.execCtz d a s
  | .popc d a => Sys2Proof.Machine.execPopc d a s
  | .brev d a => Sys2Proof.Machine.execBrev d a s
  | .bswap d a => Sys2Proof.Machine.execBswap d a s
  | .min d a b => Sys2Proof.Machine.execMin d a b s
  | .max d a b => Sys2Proof.Machine.execMax d a b s
  | .minn d a b => Sys2Proof.Machine.execMinn d a b s
  | .maxn d a b => Sys2Proof.Machine.execMaxn d a b s
  | .addi d a imm => Sys2Proof.Machine.execAddi d a imm s
  | .andi d a imm => Sys2Proof.Machine.execAndi d a imm s
  | .ori d a imm => Sys2Proof.Machine.execOri d a imm s
  | .xori d a imm => Sys2Proof.Machine.execXori d a imm s
  | .shli d a n => Sys2Proof.Machine.execShli d a n s
  | .shri d a n => Sys2Proof.Machine.execShri d a n s
  | .sari d a n => Sys2Proof.Machine.execSari d a n s
  | .mov d a => Sys2Proof.Machine.execMov d a s
  | .movi d imm => Sys2Proof.Machine.execMovi d imm s
  | .movhi d a imm => Sys2Proof.Machine.execMovhi d a imm s
  | .sext d a n => Sys2Proof.Machine.execSext d a n s
  | .zext d a n => Sys2Proof.Machine.execZext d a n s
  | .sel d a b c => Sys2Proof.Machine.execSel d a b c s
  | .seq d a b => Sys2Proof.Machine.execSeq d a b s
  | .slt d a b => Sys2Proof.Machine.execSlt d a b s
  | .sltn d a b => Sys2Proof.Machine.execSltn d a b s
  | .addx d a b sh => Sys2Proof.Machine.execAddx d a b sh s
  | .fadd t d a b rm => Sys2Proof.Machine.execFadd t d a b rm s
  | .fsub t d a b rm => Sys2Proof.Machine.execFsub t d a b rm s
  | .fmul t d a b rm => Sys2Proof.Machine.execFmul t d a b rm s
  | .fdiv t d a b rm => Sys2Proof.Machine.execFdiv t d a b rm s
  | .fsqrt t d a rm => Sys2Proof.Machine.execFsqrt t d a rm s
  | .fmin t d a b => Sys2Proof.Machine.execFmin t d a b s
  | .fmax t d a b => Sys2Proof.Machine.execFmax t d a b s
  | .fabs t d a => Sys2Proof.Machine.execFabs t d a s
  | .fneg t d a => Sys2Proof.Machine.execFneg t d a s
  | .fma t d a b c rm => Sys2Proof.Machine.execFma t d a b c rm s
  | .fms t d a b c rm => Sys2Proof.Machine.execFms t d a b c rm s
  | .fnma t d a b c rm => Sys2Proof.Machine.execFnma t d a b c rm s
  | .fnms t d a b c rm => Sys2Proof.Machine.execFnms t d a b c rm s
  | .cvt dst src d a rm => Sys2Proof.Machine.execCvt dst src d a rm s
  | .cvts dst src d a rm => Sys2Proof.Machine.execCvts dst src d a rm s
  | .fint t d a rm => Sys2Proof.Machine.execFint t d a rm s
  | .fclass t d a => Sys2Proof.Machine.execFclass t d a s
  | .fseq t d a b => Sys2Proof.Machine.execFseq t d a b s
  | .fslt t d a b => Sys2Proof.Machine.execFslt t d a b s
  | .fsle t d a b => Sys2Proof.Machine.execFsle t d a b s
  | .fsun t d a b => Sys2Proof.Machine.execFsun t d a b s
  | .skeq t a q n => Sys2Proof.Machine.execSkeq t a q n s
  | .skne t a q n => Sys2Proof.Machine.execSkne t a q n s
  | .sklt t a q n => Sys2Proof.Machine.execSklt t a q n s
  | .skge t a q n => Sys2Proof.Machine.execSkge t a q n s
  | .skgt t a q n => Sys2Proof.Machine.execSkgt t a q n s
  | .skle t a q n => Sys2Proof.Machine.execSkle t a q n s
  | .skun t a q n => Sys2Proof.Machine.execSkun t a q n s
  | .skor t a q n => Sys2Proof.Machine.execSkor t a q n s
  | .br tgt => Sys2Proof.Machine.execBr tgt s
  | .call d tgt => Sys2Proof.Machine.execCall d tgt s
  | .jr a => Sys2Proof.Machine.execJr a s
  | .callr d a => Sys2Proof.Machine.execCallr d a s
  | .ret a => Sys2Proof.Machine.execRet a s
  | .beqz a tgt => Sys2Proof.Machine.execBeqz a tgt s
  | .bnez a tgt => Sys2Proof.Machine.execBnez a tgt s
  | .bltz a tgt => Sys2Proof.Machine.execBltz a tgt s
  | .bgez a tgt => Sys2Proof.Machine.execBgez a tgt s
  | .loop a tgt => Sys2Proof.Machine.execLoop a tgt s
  | .incblt a b tgt => Sys2Proof.Machine.execIncblt a b tgt s
  | .callk d kc tgt => Sys2Proof.Machine.execCallk d kc tgt s
  | .retk a kb => Sys2Proof.Machine.execRetk a kb s
  | .jk kc tgt => Sys2Proof.Machine.execJk kc tgt s
  | .halt => Sys2Proof.Machine.execHalt s
  | .sleep n => Sys2Proof.Machine.execSleep n s
  | .yield => Sys2Proof.Machine.execYield s
  | .ldb d m => Sys2Proof.Machine.execLdb d m s
  | .ldh d m => Sys2Proof.Machine.execLdh d m s
  | .ldw d m => Sys2Proof.Machine.execLdw d m s
  | .ldd d m => Sys2Proof.Machine.execLdd d m s
  | .ldbs d m => Sys2Proof.Machine.execLdbs d m s
  | .ldhs d m => Sys2Proof.Machine.execLdhs d m s
  | .ldws d m => Sys2Proof.Machine.execLdws d m s
  | .stb d m => Sys2Proof.Machine.execStb d m s
  | .sth d m => Sys2Proof.Machine.execSth d m s
  | .stw d m => Sys2Proof.Machine.execStw d m s
  | .std d m => Sys2Proof.Machine.execStd d m s
  | .ldv vd m => Sys2Proof.Machine.execLdv vd m s
  | .stv vd m => Sys2Proof.Machine.execStv vd m s
  | .stdf d m f => Sys2Proof.Machine.execStdf d m f s
  | .stvf vd m f => Sys2Proof.Machine.execStvf vd m f s
  | .wrep vd m sr => Sys2Proof.Machine.execWrep vd m sr s
  | .ldtag d m => Sys2Proof.Machine.execLdtag d m s
  | .sttag d m => Sys2Proof.Machine.execSttag d m s
  | .lock m l => Sys2Proof.Machine.execLock m l s
  | .unlock => Sys2Proof.Machine.execUnlock s
  | .cmov d a => Sys2Proof.Machine.execCmov d a s
  | .cswap d a => Sys2Proof.Machine.execCswap d a s
  | .cdrop a => Sys2Proof.Machine.execCdrop a s
  | .csplit d a b mode => Sys2Proof.Machine.execCsplit d a b mode s
  | .cjoin d a => Sys2Proof.Machine.execCjoin d a s
  | .cnarrow d a b => Sys2Proof.Machine.execCnarrow d a b s
  | .crights a mask conv => Sys2Proof.Machine.execCrights a mask conv s
  | .cstash kd m => Sys2Proof.Machine.execCstash kd m s
  | .cfetch kd m => Sys2Proof.Machine.execCfetch kd m s
  | .cinsp d a field => Sys2Proof.Machine.execCinsp d a field s
  | .aswap t d m sr acq rel => Sys2Proof.Machine.execAswap t d m sr acq rel s
  | .aadd t d m sr acq rel => Sys2Proof.Machine.execAadd t d m sr acq rel s
  | .aand t d m sr acq rel => Sys2Proof.Machine.execAand t d m sr acq rel s
  | .aor t d m sr acq rel => Sys2Proof.Machine.execAor t d m sr acq rel s
  | .axor t d m sr acq rel => Sys2Proof.Machine.execAxor t d m sr acq rel s
  | .amax t d m sr acq rel => Sys2Proof.Machine.execAmax t d m sr acq rel s
  | .amin t d m sr acq rel => Sys2Proof.Machine.execAmin t d m sr acq rel s
  | .acas t d m sr acq rel => Sys2Proof.Machine.execAcas t d m sr acq rel s
  | .redadd t m sr acq rel => Sys2Proof.Machine.execRedadd t m sr acq rel s
  | .redand t m sr acq rel => Sys2Proof.Machine.execRedand t m sr acq rel s
  | .redor t m sr acq rel => Sys2Proof.Machine.execRedor t m sr acq rel s
  | .redxor t m sr acq rel => Sys2Proof.Machine.execRedxor t m sr acq rel s
  | .redmax t m sr acq rel => Sys2Proof.Machine.execRedmax t m sr acq rel s
  | .redmin t m sr acq rel => Sys2Proof.Machine.execRedmin t m sr acq rel s
  | .veropenRead kd k => Sys2Proof.Machine.execVeropenRead kd k s
  | .veropenPrivate kd k => Sys2Proof.Machine.execVeropenPrivate kd k s
  | .verclose k => Sys2Proof.Machine.execVerclose k s
  | .verpub d k => Sys2Proof.Machine.execVerpub d k s
  | .vadd o => Sys2Proof.Machine.execVadd o s
  | .vsub o => Sys2Proof.Machine.execVsub o s
  | .vmul o => Sys2Proof.Machine.execVmul o s
  | .vdiv o => Sys2Proof.Machine.execVdiv o s
  | .vmin o => Sys2Proof.Machine.execVmin o s
  | .vmax o => Sys2Proof.Machine.execVmax o s
  | .vabs o => Sys2Proof.Machine.execVabs o s
  | .vneg o => Sys2Proof.Machine.execVneg o s
  | .vsqrt o => Sys2Proof.Machine.execVsqrt o s
  | .vfma o => Sys2Proof.Machine.execVfma o s
  | .vfms o => Sys2Proof.Machine.execVfms o s
  | .vfnma o => Sys2Proof.Machine.execVfnma o s
  | .vadds o => Sys2Proof.Machine.execVadds o s
  | .vsubs o => Sys2Proof.Machine.execVsubs o s
  | .vand o => Sys2Proof.Machine.execVand o s
  | .vor o => Sys2Proof.Machine.execVor o s
  | .vxor o => Sys2Proof.Machine.execVxor o s
  | .vandn o => Sys2Proof.Machine.execVandn o s
  | .vshl o => Sys2Proof.Machine.execVshl o s
  | .vshr o => Sys2Proof.Machine.execVshr o s
  | .vsar o => Sys2Proof.Machine.execVsar o s
  | .vcmpeq o => Sys2Proof.Machine.execVcmpeq o s
  | .vcmpne o => Sys2Proof.Machine.execVcmpne o s
  | .vcmplt o => Sys2Proof.Machine.execVcmplt o s
  | .vcmpge o => Sys2Proof.Machine.execVcmpge o s
  | .vcmpgt o => Sys2Proof.Machine.execVcmpgt o s
  | .vcmple o => Sys2Proof.Machine.execVcmple o s
  | .vcmpun o => Sys2Proof.Machine.execVcmpun o s
  | .vcmpor o => Sys2Proof.Machine.execVcmpor o s
  | .vcvt dst o p sat => Sys2Proof.Machine.execVcvt dst o p sat s
  | .vrsum t vd va mask => Sys2Proof.Machine.execVrsum t vd va mask s
  | .vrmax t vd va mask => Sys2Proof.Machine.execVrmax t vd va mask s
  | .vrmin t vd va mask => Sys2Proof.Machine.execVrmin t vd va mask s
  | .vperm t vd va vb mask z => Sys2Proof.Machine.execVperm t vd va vb mask z s
  | .vbcast t vd va j mask z => Sys2Proof.Machine.execVbcast t vd va j mask z s
  | .vrot t vd va j mask z => Sys2Proof.Machine.execVrot t vd va j mask z s
  | .vzip t vd va vb h mask z => Sys2Proof.Machine.execVzip t vd va vb h mask z s
  | .vunzip t vd va vb h mask z => Sys2Proof.Machine.execVunzip t vd va vb h mask z s
  | .vsel t vd va b mask => Sys2Proof.Machine.execVsel t vd va b mask s
  | .mand t d a b => Sys2Proof.Machine.execMand t d a b s
  | .mor t d a b => Sys2Proof.Machine.execMor t d a b s
  | .mxor t d a b => Sys2Proof.Machine.execMxor t d a b s
  | .mnot t d a => Sys2Proof.Machine.execMnot t d a s
  | .mpop t n a => Sys2Proof.Machine.execMpop t n a s
  | .mfirst t n a => Sys2Proof.Machine.execMfirst t n a s
  | .vins t vd n j => Sys2Proof.Machine.execVins t vd n j s
  | .vext t n va j => Sys2Proof.Machine.execVext t n va j s
  | .vgath vd m vs mask => Sys2Proof.Machine.execVgath vd m vs mask s
  | .vscat vd m vs mask => Sys2Proof.Machine.execVscat vd m vs mask s
  | .lsum t d m mask => Sys2Proof.Machine.execLsum t d m mask s
  | .lmax t d m mask => Sys2Proof.Machine.execLmax t d m mask s
  | .lmin t d m mask => Sys2Proof.Machine.execLmin t d m mask s
  | .lscale t d m mask => Sys2Proof.Machine.execLscale t d m mask s
  | .qnt fmt t vd va vc n => Sys2Proof.Machine.execQnt fmt t vd va vc n s
  | .qntg fmt t vd va vc n => Sys2Proof.Machine.execQntg fmt t vd va vc n s
  | .dqnt fmt t vd va n rm => Sys2Proof.Machine.execDqnt fmt t vd va n rm s
  | .ldvt vd m sr => Sys2Proof.Machine.execLdvt vd m sr s
  | .stvt vd m sr => Sys2Proof.Machine.execStvt vd m sr s
  | .bdot vd va vb n => Sys2Proof.Machine.execBdot vd va vb n s
  | .bscale vd va n delta => Sys2Proof.Machine.execBscale vd va n delta s
  | .accld t m sr => Sys2Proof.Machine.execAccld t m sr s
  | .accst t m sr => Sys2Proof.Machine.execAccst t m sr s
  | .acczero t => Sys2Proof.Machine.execAcczero t s
  | .mmd t ka kb c => Sys2Proof.Machine.execMmd t ka kb c s
  | .mms t ka kb c => Sys2Proof.Machine.execMms t ka kb c s
  | .mmu t ka kb c => Sys2Proof.Machine.execMmu t ka kb c s
  | .mmus t ka kb c => Sys2Proof.Machine.execMmus t ka kb c s
  | .ufcfg a => Sys2Proof.Machine.execUfcfg a s
  | .send ka b len => Sys2Proof.Machine.execSend ka b len s
  | .sendk ka b kc len => Sys2Proof.Machine.execSendk ka b kc len s
  | .recv d ka kc => Sys2Proof.Machine.execRecv d ka kc s
  | .tryrecv d ka kc => Sys2Proof.Machine.execTryrecv d ka kc s
  | .ringmk ka b => Sys2Proof.Machine.execRingmk ka b s
  | .ringsend kd ka b tag => Sys2Proof.Machine.execRingsend kd ka b tag s
  | .ringfree ka => Sys2Proof.Machine.execRingfree ka s
  | .tsend ka b c len => Sys2Proof.Machine.execTsend ka b c len s
  | .tsendk kd ka b c len => Sys2Proof.Machine.execTsendk kd ka b c len s
  | .trecv d ka kc => Sys2Proof.Machine.execTrecv d ka kc s
  | .ckpt a => Sys2Proof.Machine.execCkpt a s
  | .rollb => Sys2Proof.Machine.execRollb s
  | .recall kd a => Sys2Proof.Machine.execRecall kd a s
  | .deferStore a kb c len => Sys2Proof.Machine.execDeferStore a kb c len s
  | .deferSend a kb c len => Sys2Proof.Machine.execDeferSend a kb c len s
  | .deferNotify a c len => Sys2Proof.Machine.execDeferNotify a c len s
  | .gvtrd d => Sys2Proof.Machine.execGvtrd d s
  | .gvtwait a => Sys2Proof.Machine.execGvtwait a s
  | .garm g a => Sys2Proof.Machine.execGarm g a s
  | .garr g => Sys2Proof.Machine.execGarr g s
  | .gwait d g => Sys2Proof.Machine.execGwait d g s
  | .garred g a => Sys2Proof.Machine.execGarred g a s
  | .gtest d g => Sys2Proof.Machine.execGtest d g s
  | .hjoin ka b => Sys2Proof.Machine.execHjoin ka b s
  | .hdetach ka b => Sys2Proof.Machine.execHdetach ka b s
  | .hleave ka => Sys2Proof.Machine.execHleave ka s
  | .hpush q a => Sys2Proof.Machine.execHpush q a s
  | .hpop d q => Sys2Proof.Machine.execHpop d q s
  | .hpoll d q => Sys2Proof.Machine.execHpoll d q s
  | .mbput mb a kb kc => Sys2Proof.Machine.execMbput mb a kb kc s
  | .mbget d mb => Sys2Proof.Machine.execMbget d mb s
  | .cpstartCap ch ka kb c => Sys2Proof.Machine.execCpstartCap ch ka kb c s
  | .cpstartAddr ch c => Sys2Proof.Machine.execCpstartAddr ch c s
  | .cpmcast ch ka kb c => Sys2Proof.Machine.execCpmcast ch ka kb c s
  | .cpwait ch => Sys2Proof.Machine.execCpwait ch s
  | .cpstat d ch => Sys2Proof.Machine.execCpstat d ch s
  | .cpwm d ch => Sys2Proof.Machine.execCpwm d ch s
  | .cpcancel ch => Sys2Proof.Machine.execCpcancel ch s
  | .spr d sel => Sys2Proof.Machine.execSpr d sel s
  | .spw sel a => Sys2Proof.Machine.execSpw sel a s
  | .evret => Sys2Proof.Machine.execEvret s
  | .fackReplay d a => Sys2Proof.Machine.execFackReplay d a s
  | .fackSkip d a => Sys2Proof.Machine.execFackSkip d a s
  | .fackTerminate d a => Sys2Proof.Machine.execFackTerminate d a s
  | .ctxstop d a => Sys2Proof.Machine.execCtxstop d a s
  | .ctxgo d a => Sys2Proof.Machine.execCtxgo d a s
  | .xinvEntry a b => Sys2Proof.Machine.execXinvEntry a b s
  | .xinvAsid a b => Sys2Proof.Machine.execXinvAsid a b s
  | .xinvAll a b => Sys2Proof.Machine.execXinvAll a b s
  | .xreplay a => Sys2Proof.Machine.execXreplay a s
  | .slotr d a => Sys2Proof.Machine.execSlotr d a s
  | .wipe d ka => Sys2Proof.Machine.execWipe d ka s

end Sys2Proof.Machine
end

