-- ==== Sys2Proof/Machine/Turn.lean ====
section
/-! DEFINITION. A turn of a core: the choice of the context (R12 to R17, R156, R360), the delivery of events and replays (R281, R284, R456), fetch
(R87 to R91), pairs (R104 to R106), the end of a cycle (R37, R155, R440), and what `step` does next (log 2). -/

namespace Sys2Proof.Machine

/-! Pairs (R104). -/

/-- The issue classes of R104. -/
inductive IssueClass where
  | a | b | c | d
  deriving DecidableEq, Repr

/-- The class of an instruction word (R104). -/
def classOf (w : InstWord) : IssueClass :=
  let m := (fMajor w).toNat
  if 0x01 ≤ m && m ≤ 0x2F then .a else if 0x30 ≤ m && m ≤ 0x3F then .c else if 0x40 ≤ m && m ≤ 0xBF then .b else .d

/-- Register numbers named by fields. -/
def nums (rs : List WReg) : List Nat := rs.map (·.toNat)
def runFrom (a n : Nat) : List Nat := (List.range n).map (a + ·)
def groupNums (v : VReg) : List Nat := runFrom (8 * v.toNat) 8
def memNums (m : MemOp) : List Nat := if m.xen then [m.x.toNat] else []
def bNums : BOp → List Nat
  | .group v => groupNums v
  | .reg r => [r.toNat]
  | .imm _ => []
def qNums : SkipOp → List Nat
  | .reg r => [r.toNat]
  | .imm _ => []

/-- The window registers that an instruction of class A, B or C reads or writes; a group counts whole (R104, R198). -/
def named : Instr → List Nat
  | .add d a b | .sub d a b | .mul d a b | .mulh d a b | .mulhn d a b | .div d a b | .divn d a b | .rem d a b | .remn d a b | .adds d a b
  | .subs d a b | .addsn d a b | .subsn d a b | .andB d a b | .orB d a b | .xorB d a b | .andn d a b | .shl d a b | .shr d a b | .sar d a b
  | .rol d a b | .ror d a b | .min d a b | .max d a b | .minn d a b | .maxn d a b | .seq d a b | .slt d a b | .sltn d a b | .addx d a b _
  | .fadd _ d a b _ | .fsub _ d a b _ | .fmul _ d a b _ | .fdiv _ d a b _ | .fmin _ d a b | .fmax _ d a b | .fseq _ d a b | .fslt _ d a b
  | .fsle _ d a b | .fsun _ d a b => nums [d, a, b]
  | .clz d a | .ctz d a | .popc d a | .brev d a | .bswap d a | .addi d a _ | .andi d a _ | .ori d a _ | .xori d a _ | .shli d a _
  | .shri d a _ | .sari d a _ | .mov d a | .movhi d a _ | .sext d a _ | .zext d a _ | .fsqrt _ d a _ | .fabs _ d a | .fneg _ d a
  | .cvt _ _ d a _ | .cvts _ _ d a _ | .fint _ d a _ | .fclass _ d a | .callr d a => nums [d, a]
  | .movi d _ | .call d _ | .callk d _ _ | .cinsp d _ _ | .verpub d _ => nums [d]
  | .sel d a b c | .fma _ d a b c _ | .fms _ d a b c _ | .fnma _ d a b c _ | .fnms _ d a b c _ => nums [d, a, b, c]
  | .skeq _ a q _ | .skne _ a q _ | .sklt _ a q _ | .skge _ a q _ | .skgt _ a q _ | .skle _ a q _ | .skun _ a q _ | .skor _ a q _ =>
    nums [a] ++ qNums q
  | .jr a | .ret a | .beqz a _ | .bnez a _ | .bltz a _ | .bgez a _ | .loop a _ | .retk a _ => nums [a]
  | .incblt a b _ => nums [a, b]
  | .ldb d m | .ldh d m | .ldw d m | .ldd d m | .ldbs d m | .ldhs d m | .ldws d m | .stb d m | .sth d m | .stw d m | .std d m | .ldtag d m
  | .sttag d m => nums [d] ++ memNums m
  | .ldv vd m | .stv vd m => groupNums vd ++ memNums m
  | .stdf d m f => nums [d, f] ++ memNums m
  | .stvf vd m f => nums [f] ++ groupNums vd ++ memNums m
  | .wrep vd m s => groupNums vd ++ memNums m ++ runFrom s.toNat 3
  | .lock m l => nums [l] ++ memNums m
  | .csplit _ _ b _ | .cnarrow _ _ b => nums [b]
  | .cstash _ m | .cfetch _ m => memNums m
  | .aswap _ d m s _ _ | .aadd _ d m s _ _ | .aand _ d m s _ _ | .aor _ d m s _ _ | .axor _ d m s _ _ | .amax _ d m s _ _
  | .amin _ d m s _ _ | .acas _ d m s _ _ => nums [d, s] ++ memNums m
  | .redadd _ m s _ _ | .redand _ m s _ _ | .redor _ m s _ _ | .redxor _ m s _ _ | .redmax _ m s _ _ | .redmin _ m s _ _ | .accld _ m s
  | .accst _ m s => nums [s] ++ memNums m
  | .vadd o | .vsub o | .vmul o | .vdiv o | .vmin o | .vmax o | .vadds o | .vsubs o | .vand o | .vor o | .vxor o | .vandn o | .vshl o
  | .vshr o | .vsar o => groupNums o.vd ++ groupNums o.va ++ bNums o.b
  | .vabs o | .vneg o | .vsqrt o | .vcvt _ o _ _ => groupNums o.vd ++ groupNums o.va
  | .vfma o | .vfms o | .vfnma o => groupNums o.vd ++ groupNums o.va ++ bNums o.b ++ groupNums o.vc
  | .vcmpeq o | .vcmpne o | .vcmplt o | .vcmpge o | .vcmpgt o | .vcmple o | .vcmpun o | .vcmpor o => groupNums o.va ++ bNums o.b
  | .vrsum _ vd va _ | .vrmax _ vd va _ | .vrmin _ vd va _ | .vbcast _ vd va _ _ _ | .vrot _ vd va _ _ _ => groupNums vd ++ groupNums va
  | .vperm _ vd va vb _ _ | .vzip _ vd va vb _ _ _ | .vunzip _ vd va vb _ _ _ => groupNums vd ++ groupNums va ++ groupNums vb
  | .vsel _ vd va b _ => groupNums vd ++ groupNums va ++ bNums b
  | .mpop _ n _ | .mfirst _ n _ => nums [n]
  | .vins _ vd n _ => nums [n] ++ groupNums vd
  | .vext _ n va _ => nums [n] ++ groupNums va
  | .vgath vd m vs _ | .vscat vd m vs _ => groupNums vd ++ memNums m ++ groupNums vs
  | .lsum _ d m _ | .lmax _ d m _ | .lmin _ d m _ | .lscale _ d m _ => memNums m ++ runFrom d.toNat 2
  | .qnt fmt t vd va vc n | .qntg fmt t vd va vc n =>
    groupNums vd ++ runFrom (8 * va.toNat) (8 * blockGroups fmt t) ++ nums [n] ++ (if sparseFmt fmt then groupNums vc else [])
  | .dqnt fmt t vd va n _ => groupNums va ++ runFrom (8 * vd.toNat) (8 * blockGroups fmt t) ++ nums [n]
  | .ldvt vd m s | .stvt vd m s => nums [s] ++ groupNums vd ++ memNums m
  | .bdot vd va vb n => nums [n] ++ groupNums vd ++ groupNums va ++ groupNums vb
  | .bscale vd va n _ => nums [n] ++ groupNums vd ++ groupNums va
  | .mmd _ _ _ c | .mms _ _ _ c | .mmu _ _ _ c | .mmus _ _ _ c => runFrom c.toNat 4
  | .ufcfg a => runFrom a.toNat 2
  | _ => []

/-- The register that the first instruction of a pair writes (R104): a class A instruction writes w[d] and nothing else; nop writes nothing. -/
def pairDest (w : InstWord) : Option Nat := if fMajor w = 0x01 then none else some (gD w).toNat

/-- Whether a PAIR bit is legal for the words of its two slots (R104). -/
noncomputable def pairLegal (w1 w2 : InstWord) : Bool :=
  classOf w1 == .a && classOf w2 ≠ .d &&
    (match pairDest w1, decode w2 with
     | some d, .ok i => !(named i).contains d
     | _, _ => true)

/-! The choice of a context (R360). -/

/-- Whether a context may take the turn of its core (R360, R284, R156): Ready, or in a wait that an event may interrupt; not stopped; no issue in
the last 15 cycles; no result of a register form outstanding (R191). -/
def eligible (s : State) (c : Nat) : Bool :=
  let x := s.ctx c
  (x.state == .ready || (x.state == .waiting && (eventFor x).isSome)) && !x.stopped
    && (match x.lastIssue with | some n => decide (n + 16 ≤ (s.core (coreOf c)).rot) | none => true)
    && !(s.core (coreOf c)).vents.any (·.ctx == c) && x.yielded ≠ some (s.core (coreOf c)).rot

/-- The context that takes the turn of core `i` (R360). -/
def chosen (s : State) (i : Nat) : Option Nat :=
  let p := (s.core i).rot % 16
  let e := slotEntry s i p
  let c := 64 * i + slotCtx e
  if slotMode e = 1 then (if eligible s c then some c else none)
  else if slotMode e = 2 then
    if eligible s c then some c
    else longest s ((ctxsOfCore i).filter fun d => (s.ctx d).pool.toNat == slotPool e && eligible s d)
  else none

/-! Issue. -/

/-- The word at issue is decoded and executed (R108). -/
noncomputable def execWord (s : State) : Out :=
  match decode s.cur.word with
  | .ok i => exec i s
  | .error .zeroWord => .next (raise s (flt .zeroWord))
  | .error .illegal => .next (raise s (flt .illegal))

/-- The instruction that a latch holds is at issue (R11, R281). -/
def withLatch (s : State) (c : Nat) (l : Latch) : State :=
  { s with cur := { ctx := c, codept := l.codept, word := l.word, paired := l.paired, latched := true, ops := l.ops, pos := s.cur.pos,
                    spent := false } }

/-- A fault charged before decoding (R456), with the word that the last fill delivered. -/
def raiseFetch (s : State) (w : InstWord) (f : FaultInfo) : State :=
  raise { s with cur := { s.cur with word := w } } { f with preDecode := true }

/-- Both instructions of a pair (R105, R106): if the first faults, neither takes effect; if the second spends the turn, neither does (R190), but
for what the turn waits for: a translation that fails before the turn goes on is asked for again, and charged once the first has completed (R106). -/
noncomputable def issuePair (s : State) (w1 w2 : InstWord) : Out :=
  match execWord { s with cur := { s.cur with word := w1 } } with
  | .next t =>
    if t.me.state ≠ .ready then .next t
    else
      match execWord { t with cur := { t.cur with word := w2, codept := nextPoint s.cur.codept, paired := true } } with
      | .next u =>
        if u.cur.spent then
          .next (spendTurn (({ s with work := u.work }.modCore s.myCore fun x => { x with
            want := (u.core s.myCore).want, wantCtx := (u.core s.myCore).wantCtx }).modMe fun x => { x with miss := u.me.miss }))
        else .next u
      | o => o
  | o => o

/-- The instruction of a slot of a line that the core holds issues, alone or as a pair (R87 to R91, R104). -/
noncomputable def issueLine (s : State) (loc : Nat) (f : FetchLine) (slot : Nat) : Out :=
  let w := slotWord f.line slot
  if f.bad then
    .next (raiseFetch (dropLine s s.myCore loc) w (fltAt .illegal 2 0))
  else if illLine f.line then .next (raiseFetch s w (fltAt .illegal 3 0))
  else if slot < 4 && pairBit f.line slot && w ≠ 0 then
    let w2 := slotWord f.line (slot + 1)
    if pairLegal w w2 then issuePair s w w2 else .next (raiseFetch s w (fltAt .illegal 3 0))
  else execWord { s with cur := { s.cur with word := w } }

/-- What a fetch held up by a region lock waits with (R171, R456): it keeps whether a replay makes it. -/
def fetchLatch (s : State) : Latch := heldLatch s (match s.me.latch with | some l => l.replay | none => false) true

/-- A latch without a word once its line is being fetched afresh (R456). -/
def refetch (s : State) : State := s.modMe fun x => { x with latch := x.latch.map fun l => { l with ops := [1] } }

/-- A fetch at the program counter, and the issue of what it finds (R91, R147, R456). -/
noncomputable def fetchIssue (s : State) : Out :=
  let slot := s.me.pc % 64
  let line : Int := (s.me.pc / 64 : Nat)
  let fresh : Bool := match s.me.latch with | some l => l.ops ≠ [] | none => true
  if 4 < slot then .next (raiseFetch s 0 (flt .badTarget))
  else
    match (do codeSteps s (s.k 15); lookLine s (s.k 15) line 0) with
    | .error f => .next (raiseFetch s 0 f)
    | .ok (.away _) => .next (awaitLine s (s.k 15) line (heldLatch s true true))
    | .ok .locked => .next (spendTurn (waitFor s .cond (some (fetchLatch s))))
    | .ok (.absent loc) => .next (awaitFill (refetch s) loc)
    | .ok (.held loc f) =>
      if fresh then issueLine (s.modMe fun x => { x with latch := none }) loc f slot
      else .next (awaitFill (refetch (dropLine s s.myCore loc)) loc)

/-! Turns. -/

/-- Whether the turn of a core waits within its cycle for a line of its fetch buffer (R12). -/
def Core.awaits (x : Core) : Bool := x.want.isSome || x.wantCtx.isSome

/-- The turn of a context (R281, R284): an entry or an event, the instruction in its latch, or the one at its program counter. -/
noncomputable def runCtx (s : State) (c : Nat) : Out :=
  let x := s.ctx c
  match eventFor x, x.latch with
  | some _, _ => exec (.eventDelivery c) (actAt s c)
  | none, some l => if l.noWord then fetchIssue (actAt s c) else execWord (withLatch s c l)
  | none, none => fetchIssue (actAt s c)

/-- A core serves the position of its rotation counter (R360). A delivery, a turn spent and a fetch that waits issue no instruction (R190, R284). A
turn that waits for the fill of a line is served again (R12). -/
noncomputable def serveTurn (s : State) (i : Nat) : Out :=
  let p := (s.core i).rot % 16
  let t := { s with cur := { Issue.none with pos := p } }
  match chosen s i with
  | none => exec (.unusedTurn i) t
  | some c =>
    let delivers := (eventFor (t.ctx c)).isSome
    match runCtx t c with
    | .next u =>
      if (u.core i).awaits then .next u
      else
        let u := if delivers || u.cur.spent || (u.ctx c).state = .absent then u else u.modCtx c fun x => { x with lastIssue := some (s.core i).rot }
        .next (moveBinding u i p (some c))
    | o => o

/-- The idle cycles of a core, and its next sleep depth when that is due (R18, R367). -/
def countIdle (s : State) (i : Nat) : State :=
  let t := s.modCore i fun x => { x with idle := if coreIdle s i then x.idle + 1 else 0 }
  let d := match (t.core i).depth with | none => 0 | some n => n + 1
  if d ≤ 2 && depthDue t i d then t.pushOnce (.sleepDepthEntry i) else t

/-- One arithmetic cycle of a core (R12, R16, R18, R367, R440): a replay holds it; a core that sleeps or whose barn is retired issues nothing. -/
noncomputable def coreTurn (s : State) (i : Nat) : Out :=
  let s := s.modCore i fun x => { x with want := none, wantCtx := none }
  if 0 < (s.core i).hold then .next (s.modCore i fun x => { x with hold := x.hold - 1 })
  else
    let next (o : Out) : Out :=
      match o with
      | .next t =>
        if (t.core i).awaits then .next t
        else .next (countIdle (t.modCore i fun x => { x with rot := x.rot + 1 }) i)
      | o => o
    match (if (s.core i).commit.isSome then exec (.slotTableTakesEffect i) s else .next s) with
    | .next t =>
      if (t.barn (barnOfCore i)).retired then next (.next t)
      else if (t.core i).depth.isSome then next (.next (if coreIdle t i then t else t.pushOnce (.coreWake i)))
      else next (serveTurn t i)
    | o => o

/-- The end of a cycle: CYCLE counts, sleeps count down (R155), and TIMER_CMP is compared (R37). -/
def endCycle (s : State) : State :=
  let t := { s with cycle := s.cycle + 1 }
  let t := s.ctxs.foldl (fun t p =>
    let t := match p.2.wait with
      | .sleep (some (n + 1)) =>
        let u := t.modCtx p.1 fun x => { x with wait := .sleep (some n) }
        if n = 0 then u.pushOnce (.sleepExpiry p.1) else u
      | _ => t
    fireTimer t p.1) t
  s.barns.foldl (fun t p => t.modBarn p.1 fun b => { b with replays := if t.cycle % 2 ^ 20 = 0 then 0 else b.replays }) t

/-- The cores that the state lists. -/
def listedCores (s : State) : List Nat := s.cores.map (·.1)

/-- The focus moves to the next core that the state lists, or to the first one, with the end of a cycle (log 2); the waits of its contexts are
tried before its turn, in the order in which they began (R21). -/
def advance (s : State) : State :=
  let (t, f) := match (listedCores s).find? (s.focus < ·) with
    | some i => (s, i)
    | none => (endCycle s, ((listedCores s).head?).getD 0)
  let waits := (ctxsOfCore f).filter fun c => (t.ctx c).state == .waiting && (t.ctx c).wait == .cond
  { t with focus := f, passed := false, todo := sortBy (fun c d => (t.ctx c).since ≤ (t.ctx d).since) waits }

/-! What a step does (log 2). -/

/-- Whether a constructor of `Instr` is a step of the device or of the outside world: it has no word. -/
def isStep (i : Instr) : Bool := encode i == 0

/-- A step that is due is taken; it stays due, last, until it can act. -/
def takeDue (s : State) (i : Instr) : Out := exec i { s with work := s.work.erase i ++ [i] }

/-- Whether a region lock still holds up the fetch of a context (R171). -/
def fetchLocked (s : State) (c : Nat) : Bool :=
  let t := actAt s c
  match lookLine t (t.k 15) (t.me.pc / 64 : Nat) 0 with
  | .ok .locked => true
  | _ => false

/-- A context whose fetch no lock holds up any more is Ready, and issues at its next turn (R10, R12). -/
def fetchReady (s : State) (c : Nat) (l : Latch) : State :=
  s.modCtx c fun x => { x with state := .ready, wait := .none, latch := if l.replay then some l else none }

/-- Another try of the instruction for which a context waits (R10, R286); a fetch issues nothing outside a turn. -/
noncomputable def retry (s : State) (c : Nat) : Out :=
  let x := s.ctx c
  match x.state, x.wait, x.latch with
  | .waiting, .cond, some l => if l.noWord then .next (if fetchLocked s c then s else fetchReady s c l) else execWord (withLatch s c l)
  | _, _, _ => .next s

/-- A turn of the core in focus, and the move of the focus once the turn is over. -/
noncomputable def turn (s : State) : Out :=
  match coreTurn s s.focus with
  | .next t => .next (if (t.core s.focus).awaits then t else advance t)
  | o => o

/-- The packet that an input brings by the fabric (R391). -/
def packetOf : Instr → Option Packet
  | .windowRead p | .windowWrite p | .windowWrite64 p | .windowAtomic p | .replyWithData p | .replyStatus p | .refusal p | .blockCopied p
  | .hitchPrepared p | .hitchCommit p | .hitchAbort p | .hitchJoinRequest p | .hitchDetachRequest p | .hitchAcknowledge p | .exitNotice p
  | .withdraw p | .unknownPacketType p => some p
  | .ringSlotWrite m | .timedMessageArrival m | .recallArrival m | .acknowledgement m => (match m with | .fabric p => some p | .here _ => none)
  | _ => none

/-- A packet for another package goes on from here by its minimal route, after a detour too: by the row hop to the destination column, or by the column
hop, on the virtual channel of its hops so far (R390, R392). A detour is its source's to take: one whose port is down is returned with HITCH_GONE (R395). -/
def State.forward (s : State) (p : Packet) : State :=
  let t := s.calm (arrivalPort s p)
  if portUp s (firstHop s p.drow.toNat p.dcol.toNat) then { t with sent := t.sent ++ [{ p with vc := p.vc + 1 }] }
  else sendPacket t (replyTo p 0x06 FaultCode.hitchGone.code)

/-- Whether the mesh, HBM and the fabric are powered: not before the listening state, in minimal mode or without power (R431, R433, R436). -/
def meshUp (s : State) : Bool := s.power ≠ .off && (s.boot.mode == .listening || s.boot.mode == .running)

/-- Whether an input is one of the security controller, the host link or the supply, which the package takes while its mesh, HBM and fabric are down
(R410, R423 to R426, R431 to R436). -/
def controllerInput (i : Instr) : Bool :=
  match i with
  | .powerGood _ | .powerLoss | .startWatchdog | .thermalThrottle _ | .securityAlarm _ | .testModeEntry | .hostLoss _ | .ideIntegrityFailure _ | .getVersion _
  | .getCapabilities _ | .negotiateAlgorithms _ | .getDigests _ | .getCertificate _ | .challenge _ | .getMeasurements _ _ | .keyExchange _ | .finish _ | .keyUpdate _
  | .heartbeat _ | .endSession _ | .vendorDefinedRequest _ _ | .unsupportedRequest _ _ | .heartbeatTimeout _ | .lockInterfaceRequest _ _
  | .getDeviceInterfaceReport _ _ | .startInterfaceRequest _ _ | .stopInterfaceRequest _ _ => true
  | .registerWrite (.mgmt _) _ => false
  | .registerWrite _ _ => true
  | _ => false

/-- Whether an input is taken: without power only power-good is (R429, R436), and before the listening state and in minimal mode only what the security
controller serves (R431, R433). -/
def takesInput (s : State) (i : Instr) : Bool :=
  meshUp s || (match i with | .powerGood _ => true | _ => s.power ≠ .off && controllerInput i)

/-- A choice of the agenda. Cores, engines and memory act while the mesh is powered (R431, R433). -/
noncomputable def choose (s : State) (c : Choice) : Out :=
  match c with
  | .input i =>
    if !takesInput s i then .next s
    else
      match packetOf i with
      | some p => if p.drow.toNat = s.row && p.dcol.toNat = s.col then exec i s else .next (s.forward p)
      | none => if isStep i then exec i s else .next s
  | .word n => .next { s with pick := n }
  | .device n => if !meshUp s then .next s else match s.work[n]? with | some i => takeDue s i | none => .next s
  | .retry c => if !meshUp s then .next s else retry s c
  | .turn => if !meshUp s then .next s else turn s

/-- A step of the shared unit that can act: its results are written before a context's next turn (R191). -/
def vectorDue (s : State) : Option Instr :=
  s.work.find? fun i => match i with
    | .vectorResult c => (s.core (coreOf c)).vents.any fun e => e.ctx == c && e.started
    | .vectorPipeGrant b => (coresOfBarn b).any fun i => (s.core i).vents.any fun e => !e.started
    | _ => false

/-- Whether a step of the memory system is one that the translation of a context's request waits for (R344). -/
def translates (s : State) (c : Nat) (i : Instr) : Bool :=
  match i with
  | .translationMiss n => n == c
  | .tableWalkDone k asid g =>
    (match (s.ctx c).miss with
     | some (va, _) => k == stationOf (barnOf c) va && asid == (s.ctx c).asid.toNat && g == va / 2 ^ 16
     | none => false)
  | _ => false

/-- The step for which the turn of the core in focus waits: the fill of a line, or the translation of its address (R12, R17, R89). -/
def fillDue (s : State) : Option Instr :=
  match (s.core s.focus).want, (s.core s.focus).wantCtx with
  | some loc, _ => s.work.find? fun i => match i with | .lineFill c l _ _ => c == s.focus && l == loc | _ => false
  | none, some c => s.work.find? (translates s c)
  | none, none => none

/-- Whether instructions issue: the package has started and is in power (R431, R432, R436). -/
def issuing (s : State) : Bool := s.power == .run && s.boot.mode == .running

/-- The next step where the agenda leaves it open (log 2). -/
noncomputable def nextStep (s : State) : Out :=
  if !meshUp s then .next s
  else if !issuing s then (match s.work with | i :: _ => takeDue s i | [] => .next s)
  else
    match vectorDue s <|> fillDue s, s.todo, s.work with
    | some i, _, _ => takeDue s i
    | none, c :: r, _ => retry { s with todo := r } c
    | none, [], i :: _ => if s.passed then turn s else takeDue { s with passed := true } i
    | none, [], [] => turn s

/-! Placing an instruction (log 1). -/

/-- A line with a word in its first slot, no TARGET and no PAIR bit, and its parity (R87, R88). -/
def lineOf (w : InstWord) : Block :=
  let l : Block := w.setWidth 512
  l ||| ((lineParity l).setWidth 512 <<< 504)

/-- The code capability of the placed line. -/
def placedCode : Cap := { Cap.null with count := 32768, kind := 5, rights := 0x05, length := 0x1000, base := 0x4000 }

/-- The context that runs the placed instruction: Ready, of world 0, with SYS and a window of 128 registers. -/
def placedCtx : Ctx := { Ctx.reset with state := .ready, wsize := 16, sys := true, k := vset Ctx.reset.k 15 placedCode }

/-- The state with a word at the next fetch of core 0, whose turn is next. -/
def withFirstWord (s : State) (w : InstWord) : State :=
  let loc := coreLoc 0 0x4000
  let k := s.core 0
  let t := s.writeBytes loc ((List.range 64).map (byteOf (lineOf w).toNat))
  let t := t.setCore 0 { k with
    slots := vset k.slots (k.rot % 16) 0x4001#64, commit := none, hold := 0, want := none, wantCtx := none, depth := none, vents := k.vents.filter (·.ctx ≠ 1),
    lines := (loc, { line := lineOf w, bad := false }) :: k.lines.filter (·.1 ≠ loc) }
  let t := (t.setCtx 1 placedCtx).modBarn 0 fun b => { b with retired := false }
  { t with focus := 0, agenda := .turn :: s.agenda, power := .run, boot := { s.boot with mode := .running } }

end Sys2Proof.Machine
end

