-- ==== Sys2Proof/Machine/Step.lean ====
section
/-! DEFINITION. One step of the package, and the placing of an instruction at the next fetch. -/

namespace Sys2Proof.Machine

/-- ONE STEP (log 2): the first choice of the agenda, or what the model does next by itself. -/
noncomputable def step (s : State) : Host.Outcome State Fault Refusal :=
  match s.agenda with
  | c :: r => choose { s with agenda := r } c
  | [] => nextStep s

namespace State

/-- The state with an instruction where the next step fetches: the first slot of the line at 0x4000 of core 0's memory, held in the core's fetch
buffer, with context 1 of core 0 bound to the position whose turn is next (log 1). The line stands for what a launch places and the core has
fetched. -/
def withFetchWord (s : State) (nbits w : Nat) : State :=
  withFirstWord s (BitVec.ofNat 96 (w % 2 ^ nbits))

end State

end Sys2Proof.Machine
end

