-- ==== Sys2Proof/Safety.lean ====
section
/-! DEFINITION. What a safe state and a safe run are: memory in its canonical form, and no step that stops. A fault of the GX9 is no stop: it parks
its context (R271, R272). And the words in which the statements are made: the conditions under which an instruction runs, and what it changes. -/

namespace Sys2Proof

open Sys2Proof.Machine

/-- The invariant of every run: memory has its canonical form (log 5). -/
abbrev Inv (s : State) : Prop := Memory.wf s.mem = true

/-- The states of the runs that begin at power-good, whatever inputs the agenda holds at each step (log 2). -/
inductive Reachable : State → Prop
  | reset : Reachable State.reset
  | input (s : State) (inputs : List Choice) : Reachable s → Reachable { s with agenda := inputs }
  | step (s t : State) : Reachable s → Machine.step s = .next t → Reachable t

/-- A step that stops the machine. -/
def Stops (s : State) : Prop := ∀ t, Machine.step s ≠ .next t

/-! Conditions on the state before an instruction. -/

/-- A context is at issue: the state in which the meaning of an instruction runs. -/
abbrev AtIssue (s : State) : Prop := s.me.state ≠ .absent

/-- An instruction passes the checks that come before its operands' (R108): illegal, privilege, reproducible mode and window. -/
abbrev Passes (q : Req) (s : State) : Prop := AtIssue s ∧ q.check s.me = none

/-- The window of the context at issue holds every register below `top` (R8). -/
abbrev InWindow (s : State) (top : Nat) : Prop := AtIssue s ∧ top ≤ 8 * s.me.wsize

/-- The context at issue does not run in reproducible mode (R5). -/
abbrev Free (s : State) : Prop := s.me.repro = false

/-- The context at issue is no timed actor that has begun: its writes need no undo record (R163). -/
abbrev Untimed (s : State) : Prop := (s.me.actor && s.me.began) = false

/-- An access of `n` bytes through a memory operand passes the checks of R30 at issue, waits for no copy channel (R23) and no region lock (R171), and
falls into the issuing core's own memory at a location (R46, R161). -/
def OwnAccess (s : State) (m : MemOp) (c : Machine.Class) (n : Nat) (write : Bool) (loc : Nat) : Prop :=
  ∃ addr, accessSteps s (s.k m.k) c (offsetOf s m) n n = .ok addr ∧ heldByChannel s s.myCore (s.k m.k) addr n write = false ∧
    routeOf s s.cur.ctx (s.k m.k) addr = .here loc ∧ ownCore s.cur.ctx loc = true ∧ lockedOut s s.cur.ctx loc n = false

/-- The same, where the access leaves the core: for another memory of the package or for a translated address (R161). -/
def AwayAccess (s : State) (m : MemOp) (c : Machine.Class) (n : Nat) (write : Bool) : Prop :=
  ∃ addr, accessSteps s (s.k m.k) c (offsetOf s m) n n = .ok addr ∧ heldByChannel s s.myCore (s.k m.k) addr n write = false ∧
    ((∃ loc, routeOf s s.cur.ctx (s.k m.k) addr = .here loc ∧ ownCore s.cur.ctx loc = false) ∨
      ∃ va, routeOf s s.cur.ctx (s.k m.k) addr = .xlat va)

/-- A location that a store of the context at issue may change at once: its block is not poisoned (R333) and holds no stashed capability (R164). -/
abbrev Storable (s : State) (loc : Nat) : Prop := s.poisoned loc = false ∧ s.blockStashed loc = false

/-- An access lies within one 64-byte block, as every access of R160 does through a capability whose base is a multiple of 64 (log 5). -/
abbrev InBlock (loc n : Nat) : Prop := loc % 64 + n ≤ 64

/-- The line of a transfer's target lies in the core's fetch buffer with its parity, and its slot may be entered (R89, R91, R99). -/
def TargetReady (s : State) (k : Cap) (line : Int) (slot detail : Nat) : Prop :=
  ∃ loc l, lookLine s k line detail = .ok (.held loc l) ∧ l.bad = false ∧ enterable l.line slot = true

/-! What an instruction leaves unchanged. -/

/-- Nothing of the package changes but registers and contexts. -/
def OnlyContexts (s t : State) : Prop := t = { s with regs := t.regs, ctxs := t.ctxs }

/-- Every context but the one at issue is unchanged. -/
def OthersKept (s t : State) : Prop := ∀ c, c ≠ s.cur.ctx → t.ctx c = s.ctx c

/-- Every register-file entry is unchanged but those of the registers named, in the window of the context at issue. -/
def RegsKept (s t : State) (ns : List Nat) : Prop := ∀ key, (∀ n ∈ ns, key ≠ s.regKey s.cur.ctx n) → mget 0 t.regs key = mget 0 s.regs key

/-- Every byte of memory outside a range of locations reads as before. -/
def BytesKept (s t : State) (loc n : Nat) : Prop := ∀ a, a < loc ∨ loc + n ≤ a → t.readByte a = s.readByte a

/-- The context at issue is `x`, and goes on at a code point. -/
def GoesOn (t : State) (x : Ctx) (p : Nat) : Prop := t.me = { x with state := .ready, wait := .none, acc := none, latch := none, pc := p }

/-- An instruction ends at a code point, and changes the registers named, the context at issue to `x`, and nothing else. -/
def EndsAt (s t : State) (x : Ctx) (p : Nat) (ns : List Nat) : Prop :=
  OnlyContexts s t ∧ OthersKept s t ∧ RegsKept s t ns ∧ BytesKept s t 0 0 ∧ GoesOn t x p

/-- The next slot in sequential order (R91). -/
def following (s : State) : Nat := nextPoint s.cur.codept

/-- An instruction completes at the next slot, writes one register, and changes nothing else. -/
def Gives (i : Instr) (s : State) (d : WReg) (v : Word) : Prop :=
  ∃ t, exec i s = .next t ∧ t.w d = v ∧ EndsAt s t s.me (following s) [d.toNat]

/-- An instruction completes at a code point and changes nothing else. -/
def Reaches (i : Instr) (s : State) (p : Nat) : Prop := ∃ t, exec i s = .next t ∧ EndsAt s t s.me p []

/-- The registers of a group (R19). -/
def groupRegs (v : VReg) : List Nat := (List.range 8).map (8 * v.toNat + ·)

/-- An instruction completes at the next slot, changes the capability registers named, and nothing else. -/
def CapsEnd (s t : State) (ks : List KReg) : Prop :=
  ∃ x : Vector Cap 16, EndsAt s t { s.me with k := x } (following s) [] ∧ ∀ r, r ∉ ks → vat Cap.null x r.toNat = s.k r

/-- The context at issue goes on at the next slot, and neither its other fields nor any register nor any other context changes. What else changes is said
beside this. -/
def OnlyMemory (s t : State) : Prop := OthersKept s t ∧ GoesOn t s.me (following s) ∧ t.regs = s.regs ∧ t.cores = s.cores ∧ t.slots = s.slots

/-- A context leaves the core with an access: it waits, the step that serves it is due, and neither registers nor memory nor tags change. -/
def Leaves (s t : State) (w : Wait) (i : Instr) : Prop :=
  t.me.state = .waiting ∧ t.me.wait = w ∧ t.me.acc.isSome = true ∧ i ∈ t.work ∧ t.regs = s.regs ∧ t.mem = s.mem ∧ t.tags = s.tags ∧ t.slots = s.slots ∧ OthersKept s t

/-- The context at issue waits for a condition, with its instruction latched for another try, and nothing else of it, of registers or of memory changes (R10, R11). -/
def Retries (s t : State) : Prop :=
  t.me.state = .waiting ∧ t.me.wait = .cond ∧ (∃ l, t.me.latch = some l ∧ l.word = s.cur.word ∧ l.codept = s.cur.codept ∧ l.replay = true)
    ∧ t.me.k = s.me.k ∧ t.me.m = s.me.m ∧ t.regs = s.regs ∧ t.mem = s.mem ∧ t.tags = s.tags ∧ t.slots = s.slots ∧ OthersKept s t

/-- A step of a context other than at issue: the context goes on at the slot after a latched instruction. -/
def Resumes (s t : State) (c : Nat) (l : Latch) : Prop :=
  (t.ctx c).state = .ready ∧ (t.ctx c).wait = .none ∧ (t.ctx c).acc = none ∧ (t.ctx c).pc = nextPoint l.codept ∧ ∀ e, e ≠ c → t.ctx e = s.ctx e

/-- An instruction parks its context with a fault (R272). -/
def Faults (i : Instr) (s : State) (f : FaultInfo) : Prop := exec i s = .next (raise s f)

/-- A packet of another package is answered (R393): its reply is the last packet sent, and takes a detour where its first hop is down (R392, R395). -/
def Answers (s t : State) (p : Packet) (type status : BitVec 8) : Prop :=
  ∃ x, t.sent = s.sent ++ [x] ∧ { x with det := false, via := 0 } = replyTo p type status

/-! Register forms of the shared unit (R190, R191). -/

/-- A register form takes a vector entry of its core, which holds what the form will write, and its context goes on at the next slot. -/
def Enters (i : Instr) (s : State) (P : VEntry → Prop) : Prop :=
  ∃ t e, exec i s = .next t ∧ GoesOn t s.me (following s) ∧ OthersKept s t ∧ t.regs = s.regs ∧ t.mem = s.mem ∧ t.tiles = s.tiles
    ∧ t.core s.myCore = { s.core s.myCore with vents := (s.core s.myCore).vents ++ [e] } ∧ e.ctx = s.cur.ctx ∧ e.ins = heldLatch s false false
    ∧ e.started = false ∧ Instr.vectorPipeGrant s.myBarn ∈ t.work ∧ P e

/-- What an entry writes: a group, one register, one mask; or it holds a late fault and writes nothing. -/
def WritesGroup (e : VEntry) (vd : VReg) (x : Block) : Prop :=
  e.fault = none ∧ e.masks = [] ∧ e.regs = (List.range 8).map fun i => (8 * vd.toNat + i, x.extractLsb' (64 * i) 64)
def WritesReg (e : VEntry) (n : Nat) (v : Word) : Prop := e.fault = none ∧ e.masks = [] ∧ e.regs = [(n, v)]
def WritesMask (e : VEntry) (m : MReg) (v : Word) : Prop := e.fault = none ∧ e.regs = [] ∧ e.masks = [(m.toNat, v)]
def LateFault (e : VEntry) (c : FaultCode) : Prop := e.fault = some (flt c).lateOf ∧ e.masks = [] ∧ e.regs = []

/-- The source values that a quantisation takes: all of them, or those at the present positions of a sparse target (R78). -/
def keptValues (f : BitVec 8) (mask : Nat) (xs : List Val) : List Val :=
  ((List.range xs.length).filter fun j => !sparseFmt f || mask.testBit j).map fun j => xs.getD j .nan

/-- The mantissa of a value at width `w` and scale `e` (R77). -/
def mantissaAt (w e : Nat) (x : Val) : Int :=
  max (-(2 ^ (w - 1))) (min (2 ^ (w - 1) - 1) (((timesPow x ((w : Int) - 1 + 127 - e)).toInt .rne).getD 0))

/-- The byte of a value in a scaled FP8 block of scale `e` (R79). -/
def byteAt (f : BitVec 8) (e : Nat) (x : Val) : Nat := (timesPow x (127 - (e : Int))).encode (scaledTy f) .rne % 256

/-- A zero block and an invalid block. -/
def ZeroBlock (g : BitVec 16) (b : Block) : Prop := tagScale g = 0 ∧ b = 0
def InvalidBlock (g : BitVec 16) (b : Block) : Prop := tagScale g = 255 ∧ b = 0

/-- The tag and the payload that finite values have at a scale (R77 to R79): mantissas or bytes from bit 0, or from bit 128 above the mask of a sparse
block, and unused bits 0; where all are zero, a zero block. -/
def BlockAt (f : BitVec 8) (mask e : Nat) (ys : List Val) (g : BitVec 16) (b : Block) : Prop :=
  let w := fmtWidth f
  let low := if sparseFmt f then 128 else 0
  if denseFmt f || sparseFmt f then
    ((∀ x ∈ ys, mantissaAt w e x = 0) → ZeroBlock g b)
    ∧ ((∃ x ∈ ys, mantissaAt w e x ≠ 0) → tagScale g = e ∧ b.toNat % 2 ^ low = mask % 2 ^ low ∧ b.toNat / 2 ^ (low + w * ys.length) = 0
      ∧ ∀ i x, ys[i]? = some x → signed w (b.toNat / 2 ^ (low + w * i)) = mantissaAt w e x)
  else
    ((∀ x ∈ ys, byteAt f e x % 128 = 0) → ZeroBlock g b)
    ∧ ((∃ x ∈ ys, byteAt f e x % 128 ≠ 0) → tagScale g = e ∧ ∀ i x, ys[i]? = some x → lane 8 b i = byteAt f e x)

/-- Whether a magnitude does not exceed the greatest of its FP8 type at a scale (R79). -/
def fitsAt (f : BitVec 8) (e : Nat) (x : Val) : Prop := Val.compare (timesPow x.abs (127 - (e : Int))) (.ofInt (if f = 0x30 then 448 else 57344)) ≠ some .gt

/-- What quantisation gives for source values, with a scale of its own choice (`none`) or a given one (R77 to R79). -/
def Quantised (f : BitVec 8) (given : Option Nat) (mask : Nat) (xs : List Val) (g : BitVec 16) (b : Block) : Prop :=
  let ys := keptValues f mask xs
  (ys.any notFinite = true → InvalidBlock g b)
  ∧ (ys.any notFinite = false →
    (given = some 0 → ZeroBlock g b) ∧ (given = some 255 → InvalidBlock g b) ∧ (∀ e, given = some e → 1 ≤ e → e ≤ 254 → BlockAt f mask e ys g b)
    ∧ (given = none → (∀ x ∈ ys, ∃ z e, x = .fin z 0 e) → ZeroBlock g b)
    ∧ (given = none → (denseFmt f || sparseFmt f) = true → ∀ z m k, Val.fin z m k ∈ ys → m ≠ 0 →
      (∀ z' m' k', Val.fin z' m' k' ∈ ys → m' ≠ 0 → (Nat.log2 m' : Int) + k' ≤ Nat.log2 m + k) →
      BlockAt f mask (max 1 (min 254 ((Nat.log2 m : Int) + k + 128))).toNat ys g b)
    ∧ (given = none → (denseFmt f || sparseFmt f) = false → (∃ x ∈ ys, ∀ z e, x ≠ .fin z 0 e) →
      (∀ e, 1 ≤ e → e ≤ 254 → (∀ x ∈ ys, fitsAt f e x) → (∀ d, 1 ≤ d → d < e → ∃ x ∈ ys, ¬fitsAt f d x) → BlockAt f mask e ys g b)
      ∧ ((∀ d, 1 ≤ d → d ≤ 254 → ∃ x ∈ ys, ¬fitsAt f d x) → BlockAt f mask 254 ys g b)))

/-- A lane-wise form enters: lane `i` of its group becomes `f i` under the mask; a lane that is off becomes 0 with `z`, and else is unchanged (R192). -/
def LanesEnter (i : Instr) (s : State) (t : Ty) (vd : VReg) (mask : MReg) (z : Bool) (f : Nat → Nat) : Prop :=
  Enters i s fun e => ∃ x, WritesGroup e vd x ∧ ∀ j, j < t.lanes →
    lane t.width x j = if (s.mask mask).getLsbD j then f j % 2 ^ t.width else if z then 0 else lane t.width (s.v vd) j

/-- The vector entries of the core of the context at issue that no pipe has taken yet (R190, R362). -/
def queued (s : State) : Nat := ((s.core s.myCore).vents.filter fun e => !e.started).length

/-- The window holds the registers named, and a vector entry is free (R190). -/
abbrev MayEnter (s : State) (top : Nat) : Prop := InWindow s top ∧ queued s < 2

/-! A turn (R91, R108, R281, R360). -/

/-- A core may give its next turn to a context: it is awake, its barn is not held and not retired, and no slot table is about to change. -/
abbrev MayTurn (s : State) : Prop :=
  (s.core s.focus).hold = 0 ∧ (s.barn (barnOfCore s.focus)).retired = false ∧ (s.core s.focus).commit = none ∧ (s.core s.focus).depth = none

/-- The state in which a core takes its turn: it awaits no line and no translation of one. -/
def turnState (s : State) : State := s.modCore s.focus fun x => { x with want := none, wantCtx := none }

/-- The state in which context `c` of the core in focus is at issue. -/
def issueState (s : State) (c : Nat) : State :=
  let p := (s.core s.focus).rot % 16
  actAt { turnState s with cur := { Issue.none with pos := p } } c

/-- A word at issue in a state. -/
def withWord (s : State) (w : InstWord) : State := { s with cur := { s.cur with word := w } }

/-- What a turn adds to an instruction that context `c` issued: the issue is noted, unless the instruction spent the turn (R190), a floating binding
moves (R360), the rotation counts (R12), idleness is counted (R367), and the focus moves on (log 2). A turn that awaits a line of the fetch buffer is not over
(R12). -/
def afterTurn (s : State) (c : Nat) (o : Out) : Out :=
  let i := s.focus
  let p := (s.core i).rot % 16
  match o with
  | .next u =>
    if (u.core i).awaits then .next u
    else
      let v := if u.cur.spent || (u.ctx c).state = .absent then u else u.modCtx c fun x => { x with lastIssue := some (s.core i).rot }
      .next (advance (countIdle ((moveBinding v i p (some c)).modCore i fun x => { x with rot := x.rot + 1 }) i))
  | o => o

end Sys2Proof
end

