-- ==== Sys2Proof/Certificates/Slice0/Obligations.lean ====
section
/-! DEFINITION. The statements for the provers: what the instructions, the events and the turns do, over the vocabulary of Sys2Proof.Safety. -/

open Sys2Proof Sys2Proof.Machine

/-! The machine as a whole. -/

/-- Power-good: memory is in its canonical form, nothing is resident, CYCLE is 0 (R33), SLEEP_CTL holds 64 and 1 (R36), every TDI is in CONFIG_UNLOCKED (R425), and the start has not begun (R435). The model's choices: power-good is the state of reset (log 1), a byte that nothing has written reads as 0 (log 5), and the values for which the spec gives no reset value (log 7). -/
def Obligations.ResetState : Prop :=  Inv State.reset ∧ (∀ c, (State.reset.ctx c).state = .absent) ∧ State.reset.cycle = 0 ∧ (∀ i, (State.reset.core i).entryDelay = 64 ∧ (State.reset.core i).maxDepth = 1)
  ∧ (∀ w, (State.reset.tdi w).state = .unlocked) ∧ bootStatus State.reset.boot = 0 ∧ (∀ a, State.reset.readByte a = 0) ∧ issuing State.reset = false

/-- The invariant of memory is kept by every step, from every state. -/
def Obligations.StepKeepsInv : Prop := ∀ s t : State, Inv s → Machine.step s = .next t → Inv t

/-- R92, R108, R117: a word is decoded to a well-formed instruction exactly if it is the word of that instruction; so a word has one meaning at most, and no field is dropped. -/
def Obligations.DecodeAndEncodeAgree : Prop :=  (∀ i : Instr, i.coded = true → i.wf = true → ∀ w : InstWord, decode w = .ok i ↔ encode i = w)
  ∧ ∀ (w : InstWord) (i : Instr), decode w = .ok i → i.wf = true ∧ encode i = w

/-- R92 to R100, R119 to R129: words written out from the fields of their formats are decoded to their instructions; a zero word is ZERO_WORD, and a word with an unused field set, with a type
outside the form's, or of an unassigned function is ILLEGAL. -/
def Obligations.WordsOfTheSpec : Prop :=  let g (major func d a b c : Nat) : Nat := major * 2 ^ 88 + func * 2 ^ 80 + d * 2 ^ 73 + a * 2 ^ 66 + b * 2 ^ 59 + c * 2 ^ 52
  let word (n : Nat) : InstWord := BitVec.ofNat 96 n
  decode (word (g 0x02 0x00 1 2 3 0)) = .ok (.add 1 2 3)
  ∧ decode 0x200A02081800000000000000 = .ok (.fadd .f32 1 2 3 .rne)
  ∧ decode (word (0x40 * 2 ^ 88 + 0x03 * 2 ^ 80 + 5 * 2 ^ 73 + 2 * 2 ^ 69 + 64)) = .ok (.ldd 5 { k := 2, x := 0, xen := false, sh := 0, disp := 64 })
  ∧ decode (word (0x38 * 2 ^ 88 + 7 * 8 + 3)) = .ok (.br { disp := 7, slot := 3 })
  ∧ decode 0xD000000C4020000000000018 = .ok (.tsend 3 8 2 24)
  ∧ decode (word (g 0xF1 0x00 0 0 0 0)) = .ok .evret
  ∧ decode 0 = .error .zeroWord
  ∧ decode 0x200C02081800000000000000 = .error .illegal
  ∧ decode (word (g 0x02 0x00 1 2 3 1)) = .error .illegal
  ∧ decode (word (g 0xF2 0x05 1 2 0 0)) = .error .illegal

/-- R87, R91, R281, R360, R456: a turn whose context is Ready, has no event to take and nothing in its latch, and whose line lies in the core's fetch buffer, executes the instruction that the
word of its slot decodes to; the step is that turn, with what a turn adds. R14, R104, R105: where the line pairs the slot with the next, the first instruction acts, then the second at its own code point, in one turn; if the first leaves Ready the second does not issue, and if the second spends the turn neither takes effect (R190); a PAIR bit that is not legal is ILLEGAL with detail 3. A context that stands at the second slot of a pair issues that instruction alone. -/
def Obligations.StepRunsTheInstruction : Prop := ∀ (s : State),
  (∀ r, s.agenda = .turn :: r → meshUp s = true → Machine.step s = turn { s with agenda := r })
  ∧ (s.agenda = [] → issuing s = true → vectorDue s = none → fillDue s = none → s.todo = [] → (s.work = [] ∨ s.passed = true) → Machine.step s = turn s)
  ∧ (∀ i, s.agenda = [] → issuing s = true → vectorDue s = none → fillDue s = some i → Machine.step s = takeDue s i)
  ∧ (MayTurn s → ∀ c, chosen (turnState s) s.focus = some c →
    let a := issueState s c
    let b := a.modMe fun x => { x with latch := none }
    eventFor (a.ctx c) = none →
    (∀ l, (a.ctx c).latch = some l → l.noWord = false →
      ∀ i, decode l.word = .ok i → turn s = afterTurn s c (exec i (withLatch a c l)))
    ∧ ((a.ctx c).latch = none → a.me.pc % 64 ≤ 4 → codeSteps a (a.k 15) = .ok () → ∀ loc f, lookLine a (a.k 15) ((a.me.pc / 64 : Nat) : Int) 0 = .ok (.held loc f) →
      f.bad = false → illLine f.line = false →
      ((a.me.pc % 64 < 4 → pairBit f.line (a.me.pc % 64) = false) → ∀ i, decode (slotWord f.line (a.me.pc % 64)) = .ok i →
        turn s = afterTurn s c (exec i (withWord b (slotWord f.line (a.me.pc % 64)))))
      ∧ (a.me.pc % 64 < 4 → pairBit f.line (a.me.pc % 64) = true → slotWord f.line (a.me.pc % 64) ≠ 0 →
        let w1 := slotWord f.line (a.me.pc % 64)
        let w2 := slotWord f.line (a.me.pc % 64 + 1)
        (pairLegal w1 w2 = false → turn s = afterTurn s c (.next (raise (withWord b w1) { fltAt .illegal 3 0 with preDecode := true })))
        ∧ (pairLegal w1 w2 = true → ∀ i t, decode w1 = .ok i → exec i (withWord b w1) = .next t →
          (t.me.state ≠ .ready → turn s = afterTurn s c (.next t))
          ∧ (t.me.state = .ready → ∀ j u, decode w2 = .ok j →
            exec j { t with cur := { t.cur with word := w2, codept := nextPoint b.cur.codept, paired := true } } = .next u →
            (u.cur.spent = false → turn s = afterTurn s c (.next u))
            ∧ (u.cur.spent = true → ∃ v, turn s = afterTurn s c (.next v) ∧ v.regs = a.regs ∧ v.mem = a.mem ∧ v.me.k = a.me.k ∧ v.me.pc = a.me.pc))))
      ∧ (slotWord f.line (a.me.pc % 64) = 0 → turn s = afterTurn s c (.next (raise (withWord b 0) (flt .zeroWord))))))

/-- R11, R271, R272, R276, R277: a fault parks its context with the program counter at the instruction, the instruction in the latch, and a record of it that waits to be posted; no register, no
byte of memory and no other context changes. R108, R8, R118: of the checks before the operands', privilege comes before the window. -/
def Obligations.FaultsParkTheirContext : Prop := ∀ (s : State) (f : FaultInfo),
  let t := raise s f
  (t.me.state = .parked ∧ t.me.wait = .none ∧ t.me.pc = s.cur.codept ∧ t.me.fault = some f ∧ t.me.k = s.me.k ∧ t.me.m = s.me.m ∧ t.me.progress = s.me.progress
    ∧ t.me.inEvent = s.me.inEvent ∧ t.me.evtRet = s.me.evtRet
    ∧ (∃ l, t.me.latch = some l ∧ l.codept = s.cur.codept ∧ l.replay = false ∧ l.entry = none ∧ (f.preDecode = false → l.word = s.cur.word))
    ∧ (∃ r, t.me.record = some r ∧ r.code = f.code.code ∧ r.detail = BitVec.ofNat 8 f.detail ∧ r.addr = BitVec.ofNat 64 f.addr ∧ r.insn = s.cur.word
      ∧ r.codept = BitVec.ofNat 64 s.cur.codept ∧ r.progress = s.me.progress ∧ r.paired = s.cur.paired ∧ r.inEvent = s.me.inEvent ∧ r.late = f.late ∧ r.entry = false)
    ∧ Instr.faultRecordPost s.cur.ctx ∈ t.work ∧ OthersKept s t ∧ t.regs = s.regs ∧ t.mem = s.mem ∧ t.tags = s.tags ∧ t.slots = s.slots ∧ t.rings = s.rings ∧ t.cores = s.cores)
  ∧ (AtIssue s → ∀ (d a b : WReg) (ka : KReg) (m : MemOp),
    (8 * s.me.wsize < topOf [d, a, b] → Faults (.add d a b) s (flt .window) ∧ Faults (.div d a b) s (flt .window))
    ∧ (8 * s.me.wsize < max (topOf [d]) (topM m) → s.me.repro = false → Faults (.ldd d m) s (flt .window))
    ∧ (s.me.sup = false → s.me.sys = false → Faults (.fackReplay d a) s (flt .priv) ∧ Faults (.wipe d ka) s (flt .priv)))

/-! Integer arithmetic (R131 to R137). -/

/-- R134, R136, R137: sums, differences and products, wrapping, and the high halves of products. R134: the exact sum or difference, clamped to s64 or to n64. R134: the lesser and the greater, and the set forms, as s64 and as n64. -/
def Obligations.IntegerArithmetic : Prop :=
  (∀ (s : State) (d a b : WReg) (imm : BitVec 48) (sh : BitVec 3), InWindow s (topOf [d, a, b]) →
  Gives (.add d a b) s d (BitVec.ofNat 64 ((s.w a).toNat + (s.w b).toNat))
  ∧ Gives (.sub d a b) s d (BitVec.ofInt 64 ((s.w a).toInt - (s.w b).toInt))
  ∧ Gives (.mul d a b) s d (BitVec.ofNat 64 ((s.w a).toNat * (s.w b).toNat))
  ∧ Gives (.mulh d a b) s d (((s.w a).signExtend 128 * (s.w b).signExtend 128).extractLsb' 64 64)
  ∧ Gives (.mulhn d a b) s d (((s.w a).setWidth 128 * (s.w b).setWidth 128).extractLsb' 64 64)
  ∧ Gives (.addi d a imm) s d (BitVec.ofInt 64 ((s.w a).toInt + imm.toInt))
  ∧ Gives (.addx d a b sh) s d (BitVec.ofNat 64 ((s.w a).toNat + (s.w b).toNat * 2 ^ sh.toNat)))
  ∧ (∀ (s : State) (d a b : WReg), InWindow s (topOf [d, a, b]) →
  (∃ v, Gives (.adds d a b) s d v ∧ v.toInt = max (-(2 ^ 63)) (min (2 ^ 63 - 1) ((s.w a).toInt + (s.w b).toInt)))
  ∧ (∃ v, Gives (.subs d a b) s d v ∧ v.toInt = max (-(2 ^ 63)) (min (2 ^ 63 - 1) ((s.w a).toInt - (s.w b).toInt)))
  ∧ (∃ v, Gives (.addsn d a b) s d v ∧ v.toNat = min (2 ^ 64 - 1) ((s.w a).toNat + (s.w b).toNat))
  ∧ (∃ v, Gives (.subsn d a b) s d v ∧ v.toNat = (s.w a).toNat - (s.w b).toNat))
  ∧ (∀ (s : State) (d a b : WReg), InWindow s (topOf [d, a, b]) →
  (∃ v, Gives (.min d a b) s d v ∧ v.toInt = min (s.w a).toInt (s.w b).toInt)
  ∧ (∃ v, Gives (.max d a b) s d v ∧ v.toInt = max (s.w a).toInt (s.w b).toInt)
  ∧ (∃ v, Gives (.minn d a b) s d v ∧ v.toNat = min (s.w a).toNat (s.w b).toNat)
  ∧ (∃ v, Gives (.maxn d a b) s d v ∧ v.toNat = max (s.w a).toNat (s.w b).toNat)
  ∧ Gives (.seq d a b) s d (if s.w a = s.w b then 1 else 0)
  ∧ Gives (.slt d a b) s d (if (s.w a).toInt < (s.w b).toInt then 1 else 0)
  ∧ Gives (.sltn d a b) s d (if (s.w a).toNat < (s.w b).toNat then 1 else 0))

/-- R135: division never faults. -/
def Obligations.Division : Prop := ∀ (s : State) (d a b : WReg), InWindow s (topOf [d, a, b]) →
  (s.w b = 0 → Gives (.div d a b) s d 0xFFFFFFFFFFFFFFFF ∧ Gives (.divn d a b) s d 0xFFFFFFFFFFFFFFFF
    ∧ Gives (.rem d a b) s d (s.w a) ∧ Gives (.remn d a b) s d (s.w a))
  ∧ ((s.w a).toInt = -(2 ^ 63) → (s.w b).toInt = -1 → Gives (.div d a b) s d (s.w a) ∧ Gives (.rem d a b) s d 0)
  ∧ (s.w b ≠ 0 → Gives (.div d a b) s d ((s.w a).sdiv (s.w b)) ∧ Gives (.rem d a b) s d ((s.w a).srem (s.w b))
    ∧ Gives (.divn d a b) s d (s.w a / s.w b) ∧ Gives (.remn d a b) s d (s.w a % s.w b))

/-- R134, R136: logic, selection, moves and extension; an immediate is sign-extended from bit 47. R134, R136: a shift or rotation uses the low six bits of its amount. R134: counts of zero bits and of one bits, and the reversals of bits and of bytes. -/
def Obligations.BitOperations : Prop :=
  (∀ (s : State) (d a b c : WReg) (imm : BitVec 48) (hi : BitVec 16) (n : BitVec 7),
  InWindow s (topOf [d, a, b, c]) →
  Gives (.andB d a b) s d (s.w a &&& s.w b)
  ∧ Gives (.orB d a b) s d (s.w a ||| s.w b)
  ∧ Gives (.xorB d a b) s d (s.w a ^^^ s.w b)
  ∧ Gives (.andn d a b) s d (s.w a &&& ~~~(s.w b))
  ∧ Gives (.andi d a imm) s d (s.w a &&& BitVec.ofInt 64 imm.toInt)
  ∧ Gives (.ori d a imm) s d (s.w a ||| BitVec.ofInt 64 imm.toInt)
  ∧ Gives (.xori d a imm) s d (s.w a ^^^ BitVec.ofInt 64 imm.toInt)
  ∧ Gives (.sel d a b c) s d (if s.w c = 0 then s.w b else s.w a)
  ∧ Gives (.mov d a) s d (s.w a)
  ∧ Gives (.movi d imm) s d (BitVec.ofInt 64 imm.toInt)
  ∧ (∃ v, Gives (.movhi d a hi) s d v ∧ v.extractLsb' 48 16 = hi ∧ v.extractLsb' 0 48 = (s.w a).extractLsb' 0 48)
  ∧ (1 ≤ n.toNat → n.toNat ≤ 64 → Gives (.sext d a n) s d (((s.w a).setWidth n.toNat).signExtend 64)
    ∧ Gives (.zext d a n) s d (((s.w a).setWidth n.toNat).setWidth 64)))
  ∧ (∀ (s : State) (d a b : WReg) (n : BitVec 6), InWindow s (topOf [d, a, b]) →
  (∃ v, Gives (.shl d a b) s d v ∧ ∀ i, v.getLsbD i = (decide (i < 64) && decide ((s.w b).toNat % 64 ≤ i) && (s.w a).getLsbD (i - (s.w b).toNat % 64)))
  ∧ (∃ v, Gives (.shr d a b) s d v ∧ v.toNat = (s.w a).toNat / 2 ^ ((s.w b).toNat % 64))
  ∧ (∃ v, Gives (.sar d a b) s d v ∧ v.toInt = (s.w a).toInt / 2 ^ ((s.w b).toNat % 64))
  ∧ (∃ v, Gives (.rol d a b) s d v ∧ ∀ i, i < 64 → v.getLsbD ((i + (s.w b).toNat) % 64) = (s.w a).getLsbD i)
  ∧ (∃ v, Gives (.ror d a b) s d v ∧ ∀ i, i < 64 → v.getLsbD i = (s.w a).getLsbD ((i + (s.w b).toNat) % 64))
  ∧ (∃ v, Gives (.shli d a n) s d v ∧ v.toNat = (s.w a).toNat * 2 ^ n.toNat % 2 ^ 64)
  ∧ (∃ v, Gives (.shri d a n) s d v ∧ v.toNat = (s.w a).toNat / 2 ^ n.toNat)
  ∧ (∃ v, Gives (.sari d a n) s d v ∧ v.toInt = (s.w a).toInt / 2 ^ n.toNat))
  ∧ (∀ (s : State) (d a : WReg), InWindow s (topOf [d, a]) →
  (∃ v, Gives (.clz d a) s d v ∧ v.toNat ≤ 64 ∧ (∀ i, i < v.toNat → (s.w a).getLsbD (63 - i) = false)
    ∧ (v.toNat < 64 → (s.w a).getLsbD (63 - v.toNat) = true))
  ∧ (∃ v, Gives (.ctz d a) s d v ∧ v.toNat ≤ 64 ∧ (∀ i, i < v.toNat → (s.w a).getLsbD i = false)
    ∧ (v.toNat < 64 → (s.w a).getLsbD v.toNat = true))
  ∧ (∃ v, Gives (.popc d a) s d v ∧ v.toNat = ((List.range 64).filter fun i => (s.w a).getLsbD i).length)
  ∧ (∃ v, Gives (.brev d a) s d v ∧ ∀ i, i < 64 → v.getLsbD (63 - i) = (s.w a).getLsbD i)
  ∧ (∃ v, Gives (.bswap d a) s d v ∧ ∀ i, i < 8 → v.extractLsb' (8 * (7 - i)) 8 = (s.w a).extractLsb' (8 * i) 8))

/-! Scalar floating point (R138 to R145). -/

/-- R138, R139, R62 to R64, R66: a floating-point form decodes its operands, computes exactly, rounds once to the type, and writes the pattern with the bits above the type's width
zero (R133). R140, R141: fclass sets the one bit of R140's table that the sign, the exponent field and the fraction of its operand give, and the set forms give 1 or 0. R62: with a NaN operand a floating-point form gives the canonical NaN of its type. R142, R65, R133: conversions. A floating-point result has the bits above its width zero; an integer one is extended by the signedness of its type. That cvt between integer types of one width keeps the bits is the model's reading (log 26). -/
def Obligations.FloatingPoint : Prop :=
  (∀ (s : State) (t : FTy) (d a b c : WReg) (rm : Rm), InWindow s (topOf [d, a, b, c]) →
  let x := Val.decode t.ty (s.w a).toNat
  let y := Val.decode t.ty (s.w b).toNat
  let z := Val.decode t.ty (s.w c).toNat
  let out (r : Rm) (v : Val) : Word := BitVec.ofNat 64 (v.encode t.ty r % 2 ^ t.ty.width)
  Gives (.fadd t d a b rm) s d (out rm (Val.add rm x y))
  ∧ Gives (.fsub t d a b rm) s d (out rm (Val.add rm x y.neg))
  ∧ Gives (.fmul t d a b rm) s d (out rm (Val.mul x y))
  ∧ Gives (.fdiv t d a b rm) s d (out rm (Val.div x y))
  ∧ Gives (.fsqrt t d a rm) s d (out rm (Val.sqrt x))
  ∧ Gives (.fmin t d a b) s d (out .rne (Val.min x y))
  ∧ Gives (.fmax t d a b) s d (out .rne (Val.max x y))
  ∧ Gives (.fabs t d a) s d (out .rne x.abs)
  ∧ Gives (.fneg t d a) s d (out .rne x.neg)
  ∧ Gives (.fma t d a b c rm) s d (out rm (Val.add rm (Val.mul x y) z))
  ∧ Gives (.fms t d a b c rm) s d (out rm (Val.add rm (Val.mul x y) z.neg))
  ∧ Gives (.fnma t d a b c rm) s d (out rm (Val.add rm (Val.mul x y).neg z))
  ∧ Gives (.fnms t d a b c rm) s d (out rm (Val.add rm (Val.mul x y).neg z.neg))
  ∧ Gives (.fint t d a rm) s d (out rm (Val.fint rm x)))
  ∧ (∀ (s : State) (t : FTy) (d a b : WReg), InWindow s (topOf [d, a, b]) →
  (let q : Nat × Nat := match t with | .bf16 => (8, 7) | .f16 => (5, 10) | .f32 => (8, 23) | .f64 => (11, 52)
    let f := (s.w a).toNat % 2 ^ q.2
    let e := (s.w a).toNat / 2 ^ q.2 % 2 ^ q.1
    let neg := (s.w a).getLsbD (q.1 + q.2)
    let bit : Nat :=
      if e = 2 ^ q.1 - 1 then (if f = 0 then (if neg then 0 else 7) else if f / 2 ^ (q.2 - 1) = 0 then 8 else 9)
      else if e = 0 then (if f = 0 then (if neg then 3 else 4) else if neg then 2 else 5)
      else if neg then 1 else 6
    Gives (.fclass t d a) s d (1 <<< bit))
  ∧ (let o := Val.compare (Val.decode t.ty (s.w a).toNat) (Val.decode t.ty (s.w b).toNat)
    Gives (.fseq t d a b) s d (if o = some .eq then 1 else 0)
    ∧ Gives (.fslt t d a b) s d (if o = some .lt then 1 else 0)
    ∧ Gives (.fsle t d a b) s d (if o = some .lt ∨ o = some .eq then 1 else 0)
    ∧ Gives (.fsun t d a b) s d (if o = none then 1 else 0)))
  ∧ (∀ (s : State) (t : FTy) (d a b c : WReg) (rm : Rm), InWindow s (topOf [d, a, b, c]) →
  Val.decode t.ty (s.w a).toNat = .nan →
  let q : Word := match t with | .bf16 => 0x7FC0 | .f16 => 0x7E00 | .f32 => 0x7FC00000 | .f64 => 0x7FF8000000000000
  ∀ i ∈ [Instr.fadd t d a b rm, .fsub t d a b rm, .fmul t d a b rm, .fdiv t d a b rm, .fsqrt t d a rm, .fmin t d a b, .fmax t d a b, .fabs t d a,
      .fneg t d a, .fma t d a b c rm, .fms t d a b c rm, .fnma t d a b c rm, .fnms t d a b c rm, .fint t d a rm,
      .fadd t d b a rm, .fsub t d b a rm, .fmul t d b a rm, .fdiv t d b a rm, .fmin t d b a, .fmax t d b a, .fma t d b a c rm, .fma t d b c a rm,
      .fms t d b c a rm, .fnma t d b c a rm, .fnms t d b c a rm], Gives i s d q)
  ∧ (∀ (s : State) (dst src : Ty) (d a : WReg) (rm : Rm), InWindow s (topOf [d, a]) →
  (∀ i, src.isFp = false → i = src.int (s.w a).toNat →
    (dst.isFp = false → Gives (.cvt dst src d a rm) s d (extend dst (wrap dst.width i))
      ∧ Gives (.cvts dst src d a rm) s d (BitVec.ofInt 64 (max dst.lo (min dst.hi i))))
    ∧ (dst.isFp = true → Gives (.cvt dst src d a rm) s d (BitVec.ofNat 64 ((Val.ofInt i).encode dst rm % 2 ^ dst.width))))
  ∧ (src.isFp = true → dst.isFp = true → Gives (.cvt dst src d a rm) s d (BitVec.ofNat 64 ((Val.decode src (s.w a).toNat).encode dst rm % 2 ^ dst.width)))
  ∧ (src.isFp = true → dst.isFp = false → Val.decode src (s.w a).toNat = .nan → Gives (.cvt dst src d a rm) s d 0 ∧ Gives (.cvts dst src d a rm) s d 0)
  ∧ (src.isFp = true → dst.isFp = false → ∀ neg, Val.decode src (s.w a).toNat = .inf neg →
    Gives (.cvt dst src d a rm) s d (BitVec.ofInt 64 (if neg then dst.lo else dst.hi))
    ∧ Gives (.cvts dst src d a rm) s d (BitVec.ofInt 64 (if neg then dst.lo else dst.hi)))
  ∧ (src.isFp = true → dst.isFp = false → ∀ i, (Val.decode src (s.w a).toNat).toInt rm = some i →
    Gives (.cvt dst src d a rm) s d (BitVec.ofInt 64 (max dst.lo (min dst.hi i)))
    ∧ Gives (.cvts dst src d a rm) s d (BitVec.ofInt 64 (max dst.lo (min dst.hi i)))))

/-- R101, R143, R144: a compare-skip of s64 operands, and of floating-point ones, goes on at the next slot, or after the `n` slots that it annuls. A float condition with a NaN
operand holds for ne and un only. R151: loop subtracts one and is taken unless the result is 0; incblt adds one and is taken while the signed result is below the bound. A bound in the same register is
read after the increment. -/
def Obligations.SkipsAndLoops : Prop :=
  (∀ (s : State) (t : Ty) (a : WReg) (q : SkipOp) (n : BitVec 2), InWindow s (max (a.toNat + 1) (topQ q)) →
  let p := (s.w a).toNat % 2 ^ t.width
  let goes (holds : Prop) (i : Instr) : Prop :=
    (holds → Reaches i s (skipPoint n.toNat (following s))) ∧ (¬holds → Reaches i s (following s))
  let x := t.int p
  let y := t.int (skipOperand s t q)
  let o := Val.compare (Val.decode t p) (Val.decode t (skipOperand s t q))
  (t.isFp = false → goes (x = y) (.skeq t a q n) ∧ goes (x ≠ y) (.skne t a q n) ∧ goes (x < y) (.sklt t a q n) ∧ goes (y ≤ x) (.skge t a q n)
    ∧ goes (y < x) (.skgt t a q n) ∧ goes (x ≤ y) (.skle t a q n))
  ∧ (t.isFp = true → goes (o = some .eq) (.skeq t a q n) ∧ goes (o ≠ some .eq) (.skne t a q n) ∧ goes (o = some .lt) (.sklt t a q n)
    ∧ goes (o = some .eq ∨ o = some .gt) (.skge t a q n) ∧ goes (o = some .gt) (.skgt t a q n) ∧ goes (o = some .lt ∨ o = some .eq) (.skle t a q n)
    ∧ goes (o = none) (.skun t a q n) ∧ goes (o ≠ none) (.skor t a q n)))
  ∧ (∀ (s : State) (a b : WReg) (g : Target), InWindow s (topOf [a, b]) →
  let line : Int := (s.cur.codept / 64 : Nat) + g.disp.toInt
  let p := 64 * line.toNat + g.slot.toNat
  let writes (i : Instr) (v : Word) (q : Nat) : Prop := ∃ t, exec i s = .next t ∧ t.w a = v ∧ EndsAt s t s.me q [a.toNat]
  (s.w a = 1 → writes (.loop a g) 0 (following s))
  ∧ (s.w a ≠ 1 → TargetReady s (s.k 15) line g.slot.toNat 0 → writes (.loop a g) (s.w a - 1) p)
  ∧ (a ≠ b → ¬(s.w a + 1).toInt < (s.w b).toInt → writes (.incblt a b g) (s.w a + 1) (following s))
  ∧ (a ≠ b → (s.w a + 1).toInt < (s.w b).toInt → TargetReady s (s.k 15) line g.slot.toNat 0 → writes (.incblt a b g) (s.w a + 1) p)
  ∧ writes (.incblt a a g) (s.w a + 1) (following s))

/-! Control (R146 to R157). -/

/-- R157: nop completes and changes nothing. R154 to R156: halt ends the context's program, a sleep waits for 16 n cycles or for an event, and yield gives up the next turn of the position. R284: where an event may be delivered already, the sleep is over as it begins. -/
def Obligations.NopHaltSleepYield : Prop :=
  (∀ s : State, AtIssue s → Reaches .nop s (following s))
  ∧ (∀ (s : State) (n : BitVec 32), AtIssue s →
  (∃ t, exec .halt s = .next t ∧ t.me.state = .halted ∧ t.me.pc = following s ∧ t.regs = s.regs ∧ t.mem = s.mem ∧ OthersKept s t)
  ∧ (s.me.deliverable.isSome = true → Reaches (.sleep n) s (following s))
  ∧ (s.me.state = .ready → s.me.deliverable = none → ∃ t, exec (.sleep n) s = .next t ∧ t.me.state = .waiting ∧ t.regs = s.regs ∧ t.mem = s.mem ∧ OthersKept s t
    ∧ (n = 0 → t.me.wait = .sleep none) ∧ (n ≠ 0 → t.me.wait = .sleep (some (16 * n.toNat))))
  ∧ (∃ t, exec .yield s = .next t ∧ EndsAt s t { s.me with yielded := some ((s.core s.myCore).rot + 16) } (following s) []))

/-- R98, R99, R148 to R150: branches, calls and returns reach a target in a line that the core holds and that may be entered; a call writes the point after it to its link register, and
a target register is read before the link is written. R152, R153: the cross-capability transfers exchange k15 with their code capability and go on at the target in the new buffer. R99: a transfer to a slot that may not be entered parks the context with BAD_TARGET and changes no register: no link is written. R89, R91: a transfer whose target line the core does not hold makes its turn wait for the fill of the line, which is due; the context is unchanged. -/
def Obligations.Transfers : Prop :=
  (∀ (s : State) (d a : WReg) (g : Target), InWindow s (topOf [d, a]) →
  let line : Int := (s.cur.codept / 64 : Nat) + g.disp.toInt
  let link := BitVec.ofNat 64 (following s)
  (TargetReady s (s.k 15) line g.slot.toNat 0 →
    let p := 64 * line.toNat + g.slot.toNat
    Reaches (.br g) s p
    ∧ (∃ t, exec (.call d g) s = .next t ∧ t.w d = link ∧ EndsAt s t s.me p [d.toNat])
    ∧ (s.w a = 0 → Reaches (.beqz a g) s p) ∧ (s.w a ≠ 0 → Reaches (.bnez a g) s p)
    ∧ ((s.w a).toInt < 0 → Reaches (.bltz a g) s p) ∧ (0 ≤ (s.w a).toInt → Reaches (.bgez a g) s p))
  ∧ (s.w a ≠ 0 → Reaches (.beqz a g) s (following s)) ∧ (s.w a = 0 → Reaches (.bnez a g) s (following s))
  ∧ (0 ≤ (s.w a).toInt → Reaches (.bltz a g) s (following s)) ∧ ((s.w a).toInt < 0 → Reaches (.bgez a g) s (following s))
  ∧ (pointOk (s.w a) = true →
    (TargetReady s (s.k 15) ((s.w a).toNat / 64 : Nat) ((s.w a).toNat % 64) 0 →
      Reaches (.jr a) s (s.w a).toNat
      ∧ ∃ t, exec (.callr d a) s = .next t ∧ t.w d = link ∧ EndsAt s t s.me (s.w a).toNat [d.toNat])
    ∧ (TargetReady s (s.k 15) ((s.w a).toNat / 64 : Nat) ((s.w a).toNat % 64) 12 → Reaches (.ret a) s (s.w a).toNat)))
  ∧ (∀ (s : State) (d a : WReg) (kc : KReg) (g : Target), InWindow s (topOf [d, a]) → kc ≠ 15 →
  codeSteps s (s.k kc) = .ok () →
  let x : Ctx := { s.me with k := vset (vset s.me.k 15 (s.k kc)) kc.toNat (s.k 15) }
  (TargetReady s (s.k kc) g.disp.toInt g.slot.toNat 0 →
    let p := 64 * g.disp.toInt.toNat + g.slot.toNat
    (∃ t, exec (.jk kc g) s = .next t ∧ EndsAt s t x p [])
    ∧ ∃ t, exec (.callk d kc g) s = .next t ∧ t.w d = BitVec.ofNat 64 (following s) ∧ EndsAt s t x p [d.toNat])
  ∧ (pointOk (s.w a) = true → TargetReady s (s.k kc) ((s.w a).toNat / 64 : Nat) ((s.w a).toNat % 64) 12 →
    ∃ t, exec (.retk a kc) s = .next t ∧ EndsAt s t x (s.w a).toNat []))
  ∧ (∀ (s : State) (d : WReg) (g : Target), InWindow s (topOf [d]) →
  ∀ loc l, lookLine s (s.k 15) ((s.cur.codept / 64 : Nat) + g.disp.toInt) 0 = .ok (.held loc l) → l.bad = false → enterable l.line g.slot.toNat = false →
  Faults (.br g) s (fltAt .badTarget 0 0) ∧ Faults (.call d g) s (fltAt .badTarget 0 0)
  ∧ ∀ t, exec (.call d g) s = .next t → t.regs = s.regs ∧ t.me.state = .parked ∧ t.me.pc = s.cur.codept)
  ∧ (∀ (s : State) (g : Target) (loc : Nat), AtIssue s →
  lookLine s (s.k 15) ((s.cur.codept / 64 : Nat) + g.disp.toInt) 0 = .ok (.absent loc) →
  ∃ t, exec (.br g) s = .next t ∧ Instr.lineFill s.myCore loc 0 0 ∈ t.work ∧ (t.core s.myCore).want = some loc ∧ t.ctxs = s.ctxs ∧ t.regs = s.regs ∧ t.mem = s.mem)

/-! Loads, stores, tags and locks (R159 to R172). -/

/-- R165, R167, R202: a load from the core's own memory writes the bytes in memory order, zero-extended or sign-extended, and changes nothing else. R30: the checks of an access come in the order null, kind, rights, bounds, alignment: the first that fails is the fault that a load raises. -/
def Obligations.OwnLoads : Prop :=
  (∀ (s : State) (m : MemOp) (d r : WReg) (vd : VReg) (loc : Nat),
  InWindow s (max (max (topOf [d, r]) (topV vd)) (topM m)) → ((s.k m.k).kind ≠ 3 ∨ Free s) → unreadable s loc = false →
  (OwnAccess s m .load 1 false loc → Gives (.ldb d m) s d ((s.readByte loc).setWidth 64) ∧ Gives (.ldbs d m) s d ((s.readByte loc).signExtend 64))
  ∧ (OwnAccess s m .load 2 false loc → Gives (.ldh d m) s d (BitVec.ofNat 64 (s.readLe loc 2))
    ∧ Gives (.ldhs d m) s d ((BitVec.ofNat 16 (s.readLe loc 2)).signExtend 64))
  ∧ (OwnAccess s m .load 4 false loc → Gives (.ldw d m) s d (BitVec.ofNat 64 (s.readLe loc 4))
    ∧ Gives (.ldws d m) s d ((BitVec.ofNat 32 (s.readLe loc 4)).signExtend 64))
  ∧ (OwnAccess s m .load 8 false loc → Gives (.ldd d m) s d (BitVec.ofNat 64 (s.readLe loc 8)))
  ∧ (OwnAccess s m .load 64 false loc →
    Gives (.ldtag d m) s d ((s.tag loc).setWidth 64)
    ∧ (∃ t, exec (.ldv vd m) s = .next t ∧ t.v vd = BitVec.ofNat 512 (s.readLe loc 64) ∧ EndsAt s t s.me (following s) (groupRegs vd))
    ∧ ∃ t, exec (.ldvt vd m r) s = .next t ∧ t.w r = (s.tag loc).setWidth 64 ∧ (r.toNat / 8 ≠ vd.toNat → t.v vd = BitVec.ofNat 512 (s.readLe loc 64))
      ∧ EndsAt s t s.me (following s) (r.toNat :: groupRegs vd)))
  ∧ (∀ (s : State) (d : WReg) (m : MemOp), InWindow s (max (topOf [d]) (topM m)) → ((s.k m.k).kind ≠ 3 ∨ Free s) →
  let k := s.k m.k
  ((k.kind = 0 → Faults (.ldd d m) s (flt .capNull))
  ∧ (k.kind = 4 → Faults (.ldd d m) s (flt .capKind))
  ∧ (k.kind = 1 → k.versioned = false → k.base.toNat < 2 ^ 47 →
    ((k.world ≠ s.me.world ∨ k.read = false) → Faults (.ldd d m) s (flt .capRights))
    ∧ (k.world = s.me.world → k.read = true →
      (∀ f, boundsStep s s.myCore s.me.world k (offsetOf s m) 8 = .error f → f.code = .capBounds ∧ Faults (.ldd d m) s f)
      ∧ (∀ addr, boundsStep s s.myCore s.me.world k (offsetOf s m) 8 = .ok addr → offsetOf s m % 8 ≠ 0 →
        ∃ f, f.code = .align ∧ Faults (.ldd d m) s f)))))

/-- R165, R167, R202: a store to the core's own memory writes the low bytes of its register, or its group, or its tag, and leaves every other byte, tag and register unchanged. R333: a store to a poisoned block is discarded; only a write of all 64 bytes and the tag ends the poison. -/
def Obligations.OwnStores : Prop :=
  (∀ (s : State) (m : MemOp) (d : WReg) (vd : VReg) (loc : Nat),
  InWindow s (max (max (topOf [d]) (topV vd)) (topM m)) → Untimed s → Storable s loc →
  (∀ p ∈ [(Instr.stb d m, 1), (.sth d m, 2), (.stw d m, 4), (.std d m, 8)], OwnAccess s m .store p.2 true loc → InBlock loc p.2 →
    ∃ t, exec p.1 s = .next t ∧ OnlyMemory s t ∧ t.tags = s.tags ∧ BytesKept s t loc p.2
      ∧ ∀ i, i < p.2 → t.readByte (loc + i) = (s.w d).extractLsb' (8 * i) 8)
  ∧ (OwnAccess s m .store 64 true loc → InBlock loc 64 →
    (∃ t, exec (.stv vd m) s = .next t ∧ OnlyMemory s t ∧ t.tags = s.tags ∧ BytesKept s t loc 64
      ∧ ∀ i, i < 64 → t.readByte (loc + i) = (s.v vd).extractLsb' (8 * i) 8)
    ∧ (∃ t, exec (.sttag d m) s = .next t ∧ OnlyMemory s t ∧ t.mem = s.mem ∧ t.tag loc = (s.w d).setWidth 16
      ∧ ∀ a, a / 64 ≠ loc / 64 → t.tag a = s.tag a)
    ∧ (∃ t, exec (.stvt vd m d) s = .next t ∧ OnlyMemory s t ∧ t.tag loc = (s.w d).setWidth 16 ∧ (∀ a, a / 64 ≠ loc / 64 → t.tag a = s.tag a)
      ∧ BytesKept s t loc 64 ∧ ∀ i, i < 64 → t.readByte (loc + i) = (s.v vd).extractLsb' (8 * i) 8)))
  ∧ (∀ (s : State) (m : MemOp) (d : WReg) (vd : VReg) (loc : Nat),
  InWindow s (max (max (topOf [d]) (topV vd)) (topM m)) → Untimed s → s.poisoned loc = true → s.blockStashed loc = false →
  (OwnAccess s m .store 8 true loc → ∃ t, exec (.std d m) s = .next t ∧ t.mem = s.mem ∧ t.tags = s.tags ∧ t.poison = s.poison)
  ∧ (OwnAccess s m .store 64 true loc → ∃ t, exec (.stvt vd m d) s = .next t ∧ t.poisoned loc = false ∧ t.tag loc = (s.w d).setWidth 16))

/-- R168: a flag-carrying store to the core's own memory writes its data and adds one to its flag word. R169: wrep with an empty set completes and changes nothing; with members of other packages it sends each of them one request, in ascending order, and waits. -/
def Obligations.FlagAndReplicatingStores : Prop :=
  (∀ (s : State) (m : MemOp) (d f : WReg) (vd : VReg) (loc floc : Nat),
  InWindow s (max (max (topOf [d, f]) (topV vd)) (topM m)) → Untimed s → Storable s loc → Storable s floc → unreadable s floc = false →
  InBlock floc 8 → hasPosted s s.cur.ctx = false →
  let flag := ((s.k m.k).base.toNat + (s.w f).toNat : Nat)
  heldByChannel s s.myCore (s.k m.k) flag 8 true = false → routeOf s s.cur.ctx (s.k m.k) flag = .here floc → ownCore s.cur.ctx floc = true →
  lockedOut s s.cur.ctx floc 8 = false → (s.k m.k).kind ≠ 6 →
  ∀ p ∈ [(Instr.stdf d m f, 8, (s.w d).setWidth 512), (.stvf vd m f, 64, s.v vd)],
    OwnAccess s m .flagStore p.2.1 true loc → InBlock loc p.2.1 → flagSteps s (s.k m.k) (offsetOf s m) (s.w f).toNat p.2.1 = .ok flag → (floc + 8 ≤ loc ∨ loc + p.2.1 ≤ floc) →
    ∃ t, exec p.1 s = .next t ∧ OnlyMemory s t ∧ t.tags = s.tags ∧ (∀ i, i < p.2.1 → t.readByte (loc + i) = p.2.2.extractLsb' (8 * i) 8)
      ∧ t.readLe floc 8 = (s.readLe floc 8 + 1) % 2 ^ 64
      ∧ ∀ a, (a < loc ∨ loc + p.2.1 ≤ a) → (a < floc ∨ floc + 8 ≤ a) → t.readByte a = s.readByte a)
  ∧ (∀ (s : State) (m : MemOp) (r : WReg) (vd : VReg),
  InWindow s (max (max (topV vd) (r.toNat + 3)) (topM m)) → capSteps s (s.k m.k) .replicate = .ok () →
  let k := s.k m.k
  let foff : Int := (s.wn (r.toNat + 2)).toNat
  let set := memberSet (s.wn r.toNat) (s.wn (r.toNat + 1))
  (set = [] → replicaSteps s k (offsetOf s m) foff 0 false = .ok () → Reaches (.wrep vd m r) s (following s))
  ∧ (set ≠ [] → (∀ j ∈ set, replicaSteps s k (offsetOf s m) foff j true = .ok ()) →
    (hasPosted s s.cur.ctx = true ∨ set.any (replicaHeld s k (offsetOf s m) foff) = true) → ∃ t, exec (.wrep vd m r) s = .next t ∧ Retries s t)
  ∧ (set ≠ [] → (∀ j ∈ set, replicaSteps s k (offsetOf s m) foff j true = .ok ()) → hasPosted s s.cur.ctx = false →
    set.any (replicaHeld s k (offsetOf s m) foff) = false → Untimed s → s.me.state = .ready →
    (hitchOf s s.me.launch).isSome = true →
    (∀ j ∈ set, ∃ o, routeOf s s.cur.ctx k ((k.base.toNat : Int) + offsetOf s m + j * 2 ^ 40).toNat = .member j o) →
    ∃ t, exec (.wrep vd m r) s = .next t ∧ t.me.state = .waiting ∧ t.me.wait = .members ∧ t.sent.length = s.sent.length + set.length
      ∧ (t.sent.drop s.sent.length).map (·.dmem) = set.map (BitVec.ofNat 7) ∧ t.regs = s.regs ∧ t.mem = s.mem))

/-- R161: an access to another memory leaves the core; the context waits for its reply, or for the acceptance of its posted write. R161, R390, R398: a load through a hitched window sends one read request to the member of another package and waits for its reply; an accepted store sends one write request. -/
def Obligations.AwayAndWindowAccesses : Prop :=
  (∀ (s : State) (m : MemOp) (d r : WReg) (vd : VReg),
  InWindow s (max (max (topOf [d, r]) (topV vd)) (topM m)) → ((s.k m.k).kind ≠ 3 ∨ Free s) → s.me.state = .ready →
  (∀ p ∈ [(Instr.ldb d m, 1), (.ldbs d m, 1), (.ldh d m, 2), (.ldhs d m, 2), (.ldw d m, 4), (.ldws d m, 4), (.ldd d m, 8), (.ldv vd m, 64), (.ldtag d m, 64),
      (.ldvt vd m r, 64)], AwayAccess s m .load p.2 false → ∃ t, exec p.1 s = .next t ∧ Leaves s t .reply (.memoryReply s.cur.ctx))
  ∧ ∀ p ∈ [(Instr.stb d m, 1), (.sth d m, 2), (.stw d m, 4), (.std d m, 8), (.stv vd m, 64), (.sttag d m, 64), (.stvt vd m r, 64)],
    AwayAccess s m .store p.2 true → ∃ t, exec p.1 s = .next t ∧ Leaves s t .accept (.postedWriteAccept s.cur.ctx))
  ∧ (∀ (s : State) (m : MemOp) (d : WReg) (j off : Nat), InWindow s (max (topOf [d]) (topM m)) → (s.k m.k).kind = 6 →
  (hitchOf s s.me.launch).isSome = true → hasPosted s s.cur.ctx = false → s.me.state = .ready →
  (∀ addr, accessSteps s (s.k m.k) .load (offsetOf s m) 8 8 = .ok addr → heldByChannel s s.myCore (s.k m.k) addr 8 false = false →
    routeOf s s.cur.ctx (s.k m.k) addr = .member j off →
    ∃ t p, exec (.ldd d m) s = .next t ∧ t.sent = s.sent ++ [p] ∧ p.type = 0x01 ∧ p.dmem = BitVec.ofNat 7 j ∧ p.off = BitVec.ofNat 40 off ∧ p.width = 8
      ∧ t.me.state = .waiting ∧ t.me.wait = .reply ∧ hasTx t s.cur.ctx = true ∧ t.regs = s.regs ∧ t.mem = s.mem)
  ∧ (∀ addr, accessSteps s (s.k m.k) .store (offsetOf s m) 8 8 = .ok addr → heldByChannel s s.myCore (s.k m.k) addr 8 true = false →
    routeOf s s.cur.ctx (s.k m.k) addr = .member j off → ∃ t, exec (.std d m) s = .next t ∧ Leaves s t .accept (.postedWriteAccept s.cur.ctx))
  ∧ (∀ c a v, (s.ctx c).acc = some a → (s.ctx c).state = .waiting → (s.ctx c).wait = .accept → heldUp s c = false → a.op = .store 8 v →
    (hitchOf s (s.ctx c).launch).isSome = true → c = s.cur.ctx → reach s c a.k a.addr true = .far j off → memberStep s a.k a.addr = .ok () → hasPosted s c = false →
    ∃ t p, exec (.postedWriteAccept c) s = .next t ∧ t.sent = s.sent ++ [p] ∧ p.type = 0x02 ∧ p.dmem = BitVec.ofNat 7 j ∧ p.off = BitVec.ofNat 40 off
      ∧ p.data = v.setWidth 64 ∧ Resumes s t c a.ins ∧ t.mem = s.mem))

/-- R170, R172, R298: lock releases the region that its context holds and is granted the new one when a register is free and nothing overlaps; unlock releases it; both wait for the context's posted writes to the region that it holds. -/
def Obligations.RegionLocks : Prop := ∀ (s : State) (m : MemOp) (l : WReg), Passes { priv := 1, top := max (topOf [l]) (topM m) } s →
  let len := (s.w l).toNat
  let c := s.cur.ctx
  (∀ start, lockSteps s (s.k m.k) (offsetOf s m) len = .ok start → regionPending s c = false → lockFree (releaseLock s c) c (coreLoc s.myCore start) len = true →
    ∃ t, exec (.lock m l) s = .next t ∧ GoesOn t s.me (following s) ∧ t.regs = s.regs ∧ t.mem = s.mem ∧ OthersKept s t
      ∧ ∀ q : RegionLock, q ∈ (t.core s.myCore).locks ↔ (q ∈ (s.core s.myCore).locks ∧ q.holder ≠ c) ∨ q = { holder := c, start := coreLoc s.myCore start, len := len })
  ∧ (∀ start, lockSteps s (s.k m.k) (offsetOf s m) len = .ok start → regionPending s c = false → lockFree (releaseLock s c) c (coreLoc s.myCore start) len = false →
    ∃ t, exec (.lock m l) s = .next t ∧ t.me.state = .waiting ∧ t.me.wait = .lock (coreLoc s.myCore start) len ∧ Instr.lockGrant c ∈ t.work)
  ∧ (regionPending s c = false → ∃ t, exec .unlock s = .next t ∧ GoesOn t s.me (following s) ∧ t.regs = s.regs ∧ t.mem = s.mem ∧ OthersKept s t
    ∧ ∀ q : RegionLock, q ∈ (t.core s.myCore).locks ↔ q ∈ (s.core s.myCore).locks ∧ q.holder ≠ c)
  ∧ (regionPending s c = true → (∃ t, exec .unlock s = .next t ∧ Retries s t ∧ t.cores = s.cores)
    ∧ ∀ start, lockSteps s (s.k m.k) (offsetOf s m) len = .ok start → ∃ t, exec (.lock m l) s = .next t ∧ Retries s t ∧ t.cores = s.cores)

/-! Steps of the memory system (R89, R161, R168, R170, R295, R339 to R348, R439). -/

/-- R161, R165, R341: the reply of a load that left the core writes its register, and the context goes on. A translated address that neither cache level holds waits for a walk
instead. R161, R343, R295: an accepted store lets its context go on with memory unchanged; memory changes when the write is performed, and then only its bytes. -/
def Obligations.RepliesAndPostedWrites : Prop :=
  (∀ (s : State) (c : Nat) (a : Access) (d : WReg) (n : Nat) (sext : Bool),
  (s.ctx c).acc = some a → (s.ctx c).state = .waiting → (s.ctx c).wait = .reply → heldUp s c = false → a.op = .load d n sext → a.at_ = none →
  (∀ loc shared, reach s c a.k a.addr false = .here loc shared → postedTo s c loc n = false → lockedOut s c loc n = false → routerOk s c loc = true →
    unreadable s loc = false → (shared = true ∨ badSeal s (s.ctx c).world loc = false) →
    ∃ t, exec (.memoryReply c) s = .next t ∧ t.regOf c d.toNat = loaded n sext (s.readLe loc n) ∧ Resumes s t c a.ins ∧ t.mem = s.mem ∧ t.tags = s.tags
      ∧ ∀ key, key ≠ s.regKey c d.toNat → mget 0 t.regs key = mget 0 s.regs key)
  ∧ (∀ stn asid va, reach s c a.k a.addr false = .miss stn asid va →
    ∃ t, exec (.memoryReply c) s = .next t ∧ (t.ctx c).miss = some (va, false) ∧ Instr.translationMiss c ∈ t.work ∧ t.regs = s.regs ∧ t.mem = s.mem))
  ∧ (∀ (s : State) (c : Nat) (a : Access) (n : Nat) (v : Block),
  ((s.ctx c).acc = some a → (s.ctx c).state = .waiting → (s.ctx c).wait = .accept → heldUp s c = false → a.op = .store n v → n ≤ 8 →
    (s.ctx c).actor = false →
    ∀ loc shared, reach s c a.k a.addr true = .here loc shared → lockedOut s c loc n = false → routerOk s c loc = true → withdrawn s loc = false → s.blockStashed loc = false →
    ∃ t p, exec (.postedWriteAccept c) s = .next t ∧ t.posted = s.posted ++ [p] ∧ p.src = c ∧ p.loc = loc ∧ Instr.writePerformed p.id ∈ t.work
      ∧ Resumes s t c a.ins ∧ t.mem = s.mem ∧ t.regs = s.regs)
  ∧ (∀ p, s.posted.find? (·.id == p.id) = some p → performable s p = true → p.op = .store n v → s.poisoned p.loc = false → badSeal s (s.ctx p.src).world p.loc = false → (∀ x, s.slot x = Cap.null) →
    ∃ t, exec (.writePerformed p.id) s = .next t ∧ t.ctxs = s.ctxs ∧ t.regs = s.regs ∧ t.tags = s.tags ∧ (∀ q ∈ t.posted, q.id ≠ p.id)
      ∧ BytesKept s t p.loc n ∧ ∀ i, i < n → t.readByte (p.loc + i) = BitVec.ofNat 8 (v.toNat / 2 ^ (8 * i))))

/-- R168, R170, R89, R439: a flag word is incremented, a waited-for lock is granted, a due line enters the fetch buffer, and scrub changes no value. R268, R427: the pass of a wipe leaves every byte of its range zero where no poisoned or unverified block is taken in part, writes the number of blocks that were not verified to its register, and keeps a receipt of each range of a wipe that world 0 issued. R171: the regions that its own context locks do not hold it back. R421: a wipe that reaches a withdrawn extent parks its context with POISON as a late fault. -/
def Obligations.MemoryStepsAndWipes : Prop :=
  (∀ (s : State) (c : Nat),
  (∀ a, (s.ctx c).acc = some a → (s.ctx c).state = .waiting → (s.ctx c).wait = .flag → heldUp s c = false → a.op = .flagInc → a.at_ = none → hasPosted s c = false →
    (s.ctx c).actor = false → (∀ x, s.slot x = Cap.null) →
    ∀ loc shared, reach s c a.k a.addr true = .here loc shared → lockedOut s c loc 8 = false → pinnedSource s [(loc, 8)] = false → routerOk s c loc = true → unreadable s loc = false →
    (shared = true ∨ badSeal s (s.ctx c).world loc = false) →
    ∃ t, exec (.flagIncrement c) s = .next t ∧ t.readLe loc 8 = (s.readLe loc 8 + 1) % 2 ^ 64 ∧ BytesKept s t loc 8 ∧ Resumes s t c a.ins ∧ t.regs = s.regs)
  ∧ (∀ start len, (s.ctx c).state = .waiting → (s.ctx c).wait = .lock start len → lockFree s c start len = true →
    ∃ t, exec (.lockGrant c) s = .next t ∧ ({ holder := c, start := start, len := len } : RegionLock) ∈ (t.core (coreOf c)).locks ∧ (t.ctx c).state = .ready)
  ∧ (∀ core name loc shared w, Instr.lineFill core name 0 0 ∈ s.work → fillFrom s core name = some (loc, shared, w) → unreadable s loc = false →
    (shared = true ∨ badSeal s w loc = false) → lineLocked s core loc = false → lineParity (BitVec.ofNat 512 (s.readLe loc 64)) = 0 →
    ∃ t, exec (.lineFill core name 0 0) s = .next t ∧ heldLine t core name = some { line := BitVec.ofNat 512 (s.readLe loc 64), bad := false } ∧ t.ctxs = s.ctxs
      ∧ t.mem = s.mem)
  ∧ (let scrubbed (t : State) : Prop := t = { s with work := t.work, barns := t.barns, free := t.free } ∧ ∀ b, t.barn b = { s.barn b with corr := (t.barn b).corr }
    (∀ core bank, ∃ t, exec (.scrubMaintenanceSlot core bank) s = .next t ∧ scrubbed t)
    ∧ (∀ loc, ∃ t, exec (.scrubBlock loc false) s = .next t ∧ scrubbed t))
  ∧ (∀ loc, ∃ t, exec (.scrubBlock loc true) s = .next t ∧ t.poisoned loc = true ∧ t.mem = s.mem ∧ t.regs = s.regs ∧ t.ctxs = s.ctxs))
  ∧ (∀ (s : State) (c : Nat) (d : WReg) (k : Cap) (ps : List (Nat × Nat × Bool)),
  (s.ctx c).state = .waiting → (s.ctx c).wait = .wipe d k → heldUp s c = false → wipeRange s c k = .ok ps →
  let bs := ps.map fun p => (p.1, p.2.1)
  (∀ p ∈ bs, lockedOut s c p.1 p.2 = false) → pinnedSource s bs = false → hasPosted s c = false →
  (∀ a, (wipeReach s k ps).2 = some a → ∃ t, exec (.wipePassEnd c) s = .next t ∧ (t.ctx c).state = .parked ∧ (t.ctx c).fault = some (fltAt .poison 0 a).lateOf
    ∧ t.regs = s.regs ∧ t.receipts = s.receipts)
  ∧ (wipeReach s k ps = (ps, none) → ∃ (t : State) (bad : List Nat), exec (.wipePassEnd c) s = .next t ∧ (t.ctx c).state = .ready ∧ t.regOf c d.toNat = BitVec.ofNat 64 bad.length
    ∧ ((s.ctx c).world = 0 → t.receipts = s.receipts ++ receiptsOf s k.world bs bad)
    ∧ ((s.ctx c).world ≠ 0 → t.receipts = s.receipts)
    ∧ (s.keys = true → (∀ p ∈ ps, p.2.1 = 64 ∨ (s.poisoned p.1 = false ∧ (p.2.2 = true ∨ badSeal s (s.ctx c).world p.1 = false))) →
      ∀ p ∈ ps, ∀ i, i < p.2.1 → t.readByte (p.1 + i) = 0)
    ∧ ∀ a, a < 2 ^ 100 → (∀ p ∈ bs, a < p.1 ∨ p.1 + p.2 ≤ a) → (∀ p ∈ bs, a / 16 < p.1 / 16 ∨ (p.1 + p.2 - 1) / 16 < a / 16) → t.readByte a = s.readByte a))

/-- R344, R345: a request that misses both levels starts a walk at its station, or parks behind the walk of its granule, or is refused by a full store and retried. R341, R344, R345, R346, R348: a walk that ends installs its leaf in both levels and releases every request parked for its granule, or makes a fault entry that firmware reads
and removes, fails or replays. R266, R347: a station acknowledges an invalidation once the writes translated before it are performed, and the last acknowledgement ends xinv. The model's choice: reading an entry is followed by a replay where its cause is 1 and by a failure of its granule where it is any other, as firmware does (log 20). -/
def Obligations.Translation : Prop :=
  (∀ (s : State) (n : Nat) (q : Need), needOf s (sourceOf n) = some q → requestParked s (sourceOf n) = false →
  let k := stationOf q.barn q.va
  let g := q.va / 2 ^ 16
  let marked := (s.station k).markers.any fun m => m.asid == q.asid && m.granule == g
  ((cachedLeaf s q.barn q.asid q.va q.write).isSome = true → ∃ t, exec (.translationMiss n) s = .next t ∧ t.stations = s.stations)
  ∧ (cachedLeaf s q.barn q.asid q.va q.write = none →
    ((s.station k).parked.length < Config.parkedStore →
      ∃ t, exec (.translationMiss n) s = .next t ∧ (∃ r ∈ (t.station k).parked, r.src = sourceOf n ∧ r.granule = g ∧ r.asid = q.asid)
        ∧ (marked = false → Instr.tableWalkDone k q.asid g ∈ t.work) ∧ t.mem = s.mem)
    ∧ (Config.parkedStore ≤ (s.station k).parked.length →
      ∃ t, exec (.translationMiss n) s = .next t ∧ (t.station k).parked = (s.station k).parked ∧ Instr.niRetry n ∈ t.work
        ∧ ∃ r ∈ (t.station k).refused, r.src = sourceOf n)))
  ∧ (∀ (s : State) (k asid g : Nat),
  (∀ w r, (s.station k).markers.find? (fun m => (m.asid == asid && m.granule == g) && m.walking) = some w →
    (s.station k).parked.find? (fun r => r.asid == asid && r.granule == g && r.behind == 0) = some r →
    (∀ leaf, walk s w.root asid (g * 2 ^ 16) r.world r.write = .ok leaf →
      ∃ t, exec (.tableWalkDone k asid g) s = .next t ∧ leaf ∈ (t.station k).cache ∧ leaf ∈ mget [] t.yards (k / 8)
        ∧ (∀ r ∈ (t.station k).parked, ¬(r.asid = asid ∧ r.granule = g ∧ r.behind = 0)) ∧ t.mem = s.mem ∧ t.ctxs = s.ctxs)
    ∧ (∀ cause level, walk s w.root asid (g * 2 ^ 16) r.world r.write = .error (cause, level) → (s.station k).buffer.length < Config.faultBuffer →
      ∃ t e, exec (.tableWalkDone k asid g) s = .next t ∧ (t.station k).buffer = (s.station k).buffer ++ [e] ∧ e.cause = cause ∧ e.level = level
        ∧ e.asid = asid ∧ e.granule = g ∧ (t.station k).parked = (s.station k).parked)
    ∧ (∀ e, walk s w.root asid (g * 2 ^ 16) r.world r.write = .error e → Config.faultBuffer ≤ (s.station k).buffer.length →
      ∃ t, exec (.tableWalkDone k asid g) s = .next t ∧ (t.station k).dropped = true ∧ (t.station k).buffer = (s.station k).buffer))
  ∧ (∃ t, exec (.fbPop k) s = .next t ∧ (t.station k).buffer = (s.station k).buffer.tail ∧ t.ctxs = s.ctxs
    ∧ ∀ e rest, (s.station k).buffer = e :: rest → (e.cause = 1 → Instr.stnReplayAll k ∈ t.work)
      ∧ (e.cause ≠ 1 → Instr.fbFail k (granuleWord e.asid e.granule) ∈ t.work ∧ t.mem = s.mem))
  ∧ (∃ t, exec (.stnReplayAll k) s = .next t ∧ (t.station k).parked = [] ∧ (t.station k).dropped = false ∧ t.mem = s.mem ∧ t.ctxs = s.ctxs)
  ∧ (∃ t, exec (.stnInvalidateAll k) s = .next t ∧ (t.station k).cache = [] ∧ (t.station k).parked = (s.station k).parked ∧ t.mem = s.mem)
  ∧ (∀ v : BitVec 64, (∀ r ∈ (s.station k).parked, ∃ e, r.src = .ctx e) →
    ∃ t, exec (.fbFail k v) s = .next t
      ∧ ∀ r ∈ (t.station k).parked, ¬(r.asid = (v.extractLsb' 48 16).toNat ∧ r.granule = (v.extractLsb' 16 30).toNat ∧ r.behind = 0))
  ∧ (∀ n r, r ∈ (s.station k).refused → r.src = sourceOf n → k < 32 → ∃ t, exec (.niRetry n) s = .next t ∧ Instr.translationMiss n ∈ t.work))
  ∧ (∀ (s : State) (c k : Nat) (left : List Nat) (l : Latch),
  (s.ctx c).state = .waiting → (s.ctx c).wait = .acks left → (s.ctx c).latch = some l → fMajor l.word = 0xF4 → k ∈ left →
  (∀ p ∈ s.posted, p.id < (s.ctx c).since → p.loc < 2 ^ 64 ∨ p.txid.isSome = true) →
  (∀ q ∈ s.ctxs, ∀ a loc sh, q.2.acc = some a → a.at_ = some (loc, sh) → loc < 2 ^ 64) → (∀ core loc e1 e2, Instr.lineFill core loc e1 e2 ∈ s.work → loc < 2 ^ 64) →
  ∃ t, exec (.stationAck c k) s = .next t ∧ t.mem = s.mem ∧ t.regs = s.regs
    ∧ (left = [k] → (t.ctx c).state = .ready ∧ (t.ctx c).pc = nextPoint l.codept)
    ∧ (left ≠ [k] → (t.ctx c).state = .waiting ∧ (t.ctx c).wait = .acks (left.erase k)))

/-! Capabilities (R26 to R32, R173 to R180). -/

/-- R20, R28, R174: cmov and cswap move whole capabilities, of no reserved kind, cdrop destroys an owned one, and k15 is no operand of them. R28, R29, R175: csplit divides the count of a capability between two pieces, which are the same but for their counts. -/
def Obligations.CapabilityMovesAndSplits : Prop :=
  (∀ (s : State) (d a : KReg), AtIssue s →
  (d ≠ 15 → a ≠ 15 → (s.k a).kind.toNat < 8 →
    (d = a → Reaches (.cmov d a) s (following s))
    ∧ (d ≠ a → s.k d = Cap.null → ∃ t, exec (.cmov d a) s = .next t ∧ t.k d = s.k a ∧ t.k a = Cap.null ∧ CapsEnd s t [d, a])
    ∧ (d ≠ a → (s.k d).isNull = false → Faults (.cmov d a) s (flt .capKind))
    ∧ ((s.k d).kind.toNat < 8 → ∃ t, exec (.cswap d a) s = .next t ∧ t.k d = s.k a ∧ t.k a = s.k d ∧ CapsEnd s t [d, a]))
  ∧ (d ≠ 15 → a ≠ 15 → 8 ≤ (s.k a).kind.toNat → ∀ i ∈ [Instr.cmov d a, .cswap d a, .cswap a d], Faults i s (flt .capKind))
  ∧ (a ≠ 15 → (s.k a).isNull = true → Reaches (.cdrop a) s (following s))
  ∧ (a ≠ 15 → (s.k a).kind = 1 → (s.k a).count = 32768 → regionBusy s (s.k a) = false →
    (pinned s s.cur.ctx (s.k a) = false → ∃ t, exec (.cdrop a) s = .next t ∧ t.k a = Cap.null ∧ CapsEnd s t [a])
    ∧ (pinned s s.cur.ctx (s.k a) = true → ∃ t, exec (.cdrop a) s = .next t ∧ Retries s t))
  ∧ (∀ i ∈ [Instr.cmov 15 a, .cmov a 15, .cswap 15 a, .cswap a 15, .cdrop 15], Faults i s (flt .capRights)))
  ∧ (∀ (s : State) (d a : KReg) (b : WReg) (mode : Bool) (kind : BitVec 4), InWindow s (topOf [b]) →
  d ≠ 15 → a ≠ 15 → d ≠ a → s.k d = Cap.null → (s.k a).isNull = false → splitKind (s.k a) mode = some kind → (s.k a).fractionable = true →
  (kind ≠ 3 ∨ (s.k a).atomic = true) →
  (0 < (s.w b).toNat → (s.w b).toNat < (s.k a).count.toNat →
    ∃ t, exec (.csplit d a b mode) s = .next t ∧ (t.k d).count.toNat = (s.w b).toNat ∧ (t.k d).count.toNat + (t.k a).count.toNat = (s.k a).count.toNat
      ∧ (t.k d).kind = kind ∧ t.k a = { t.k d with count := (t.k a).count }
      ∧ (t.k d).base = (s.k a).base ∧ (t.k d).length = (s.k a).length ∧ (t.k d).world = (s.k a).world ∧ (t.k d).gen = (s.k a).gen
      ∧ (t.k d).rights &&& ~~~(s.k a).rights = 0 ∧ (kind = 2 → (t.k d).write = false ∧ (t.k d).atomic = false) ∧ CapsEnd s t [d, a])
  ∧ ((s.w b = 0 ∨ (s.k a).count.toNat ≤ (s.w b).toNat) → Faults (.csplit d a b mode) s (fltVal .capBounds 4 (s.w b).toNat)))

/-- R175, R176: a whole owned buffer that is split into read fractions and joined again is the same capability. R176: pieces of one buffer join by their counts, and have the rights that both had; once the count is full, fractions are whole and owned again, and they and a window carry write and atomic. Two adjacent whole owned buffers join by their lengths. R177 to R179: cnarrow divides a whole owned buffer in two at a byte; crights only takes rights away; cinsp reads a field. -/
def Obligations.CapabilityJoinsAndRights : Prop :=
  (∀ (s t u : State) (d a : KReg) (b : WReg), (s.k a).kind = 1 → (s.k a).count = 32768 →
  (s.k a).rights &&& 0x0E = 0x0A → exec (.csplit d a b false) s = .next t → t.me.state = .ready → exec (.cjoin a d) t = .next u → u.me.state = .ready →
  u.k a = s.k a ∧ u.k d = Cap.null ∧ u.regs = s.regs ∧ u.mem = s.mem)
  ∧ (∀ (s : State) (d a : KReg), AtIssue s → d ≠ 15 → a ≠ 15 → d ≠ a → (s.k d).isNull = false → (s.k a).isNull = false →
  (countable (s.k d) (s.k a) = true →
    let x := s.k d
    let n := x.count + (s.k a).count
    let r := x.rights &&& (s.k a).rights
    ∃ t, exec (.cjoin d a) s = .next t ∧ t.k a = Cap.null ∧ CapsEnd s t [d, a] ∧ t.k d = { x with
      count := n,
      kind := if n = 32768 ∧ (x.kind = 2 ∨ x.kind = 3) then 1 else x.kind,
      rights := if n = 32768 ∧ (x.kind = 2 ∨ x.kind = 3 ∨ x.kind = 6) then r ||| 0x0A else r })
  ∧ (countable (s.k d) (s.k a) = false → adjacent (s.k d) (s.k a) = true →
    ∃ t, exec (.cjoin d a) s = .next t ∧ t.k a = Cap.null ∧ t.k d = { s.k d with length := (t.k d).length }
      ∧ (t.k d).length.toNat = (s.k d).length.toNat + (s.k a).length.toNat ∧ CapsEnd s t [d, a])
  ∧ (countable (s.k d) (s.k a) = false → adjacent (s.k d) (s.k a) = false → Faults (.cjoin d a) s (flt .capKind)))
  ∧ (∀ (s : State) (d a : KReg) (b w : WReg) (mask : BitVec 8), InWindow s (topOf [b, w]) → d ≠ 15 → a ≠ 15 →
  (d ≠ a → s.k d = Cap.null → (s.k a).plainOwned = true → 1 ≤ (s.w b).toNat → (s.w b).toNat < (s.k a).length.toNat →
    ∃ t, exec (.cnarrow d a b) s = .next t ∧ (t.k a).length.toNat = (s.w b).toNat ∧ (t.k a).base = (s.k a).base
      ∧ (t.k d).length.toNat + (t.k a).length.toNat = (s.k a).length.toNat ∧ (t.k d).base = (s.k a).base + (s.w b).setWidth 48
      ∧ (t.k d).rights = (s.k a).rights ∧ (t.k a).rights = (s.k a).rights ∧ CapsEnd s t [d, a])
  ∧ ((s.k a).isNull = false → (s.k a).kind.toNat < 8 → ∃ t, exec (.crights a mask false) s = .next t ∧ t.k a = { s.k a with rights := (s.k a).rights &&& mask } ∧ CapsEnd s t [a])
  ∧ ((s.k a).plainOwned = true → pinned s s.cur.ctx (s.k a) = false →
    ∃ t, exec (.crights a mask true) s = .next t ∧ (t.k a).kind = 5 ∧ (t.k a).base = (s.k a).base ∧ (t.k a).write = false ∧ CapsEnd s t [a])
  ∧ (8 ≤ (s.k a).kind.toNat → Faults (.crights a mask false) s (flt .capKind) ∧ (Free s → Faults (.cinsp w a 3) s (flt .capKind)))
  ∧ (Free s → (s.k a).kind.toNat < 8 → Gives (.cinsp w a 0) s w ((s.k a).base.setWidth 64) ∧ Gives (.cinsp w a 1) s w ((s.k a).length.setWidth 64)
    ∧ Gives (.cinsp w a 2) s w ((s.k a).rights.setWidth 64) ∧ Gives (.cinsp w a 3) s w ((s.k a).kind.setWidth 64)
    ∧ Gives (.cinsp w a 4) s w ((s.k a).count.setWidth 64) ∧ Gives (.cinsp w a 5) s w ((s.k a).gen.setWidth 64)
    ∧ Gives (.cinsp w a 6) s w ((s.k a).world.setWidth 64)))

/-- R164, R180: cstash puts a capability into a slot of the core's memory, where its bytes read as zero, and cfetch takes it out and clears the slot. R181, R182: in the core's own memory a returning atomic gives its old value and writes the new one, and a reduction only writes it; no other byte and no other register changes. R161, R183, R185: an atomic on another memory waits for its reply; a reduction without acq is posted; and reproducible mode refuses a returning atomic through an atomic fraction. -/
def Obligations.StashesAndAtomics : Prop :=
  (∀ (s : State) (kd : KReg) (m : MemOp) (loc addr : Nat), InWindow s (topM m) → kd ≠ 15 → Untimed s → InBlock loc 16 → loc % 16 = 0 →
  slotSteps s m = .ok addr → OwnAccess s m .slot 16 true loc → unreadable s loc = false → hasPosted s s.cur.ctx = false →
  ((s.k kd).isNull = false → (s.k kd).kind ≠ 5 → (s.k kd).kind.toNat < 8 → timedReceive s (s.k kd) = false → regionBusy s (s.k kd) = false → (s.k kd).world = (s.k m.k).world →
    pinned s s.cur.ctx (s.k kd) = false → s.slot loc = Cap.null →
    ∃ t, exec (.cstash kd m) s = .next t ∧ t.k kd = Cap.null
      ∧ t.slot loc = { s.k kd with base := BitVec.ofNat 48 (meshForm s.myCore (s.k kd).base.toNat) }
      ∧ (∀ a, a / 16 ≠ loc / 16 → t.slot a = s.slot a ∧ t.readByte a = s.readByte a) ∧ (∀ i, i < 16 → t.readByte (loc + i) = 0) ∧ t.regs = s.regs)
  ∧ (s.k kd = Cap.null → (s.slot loc).isNull = false → tableSlot s (s.k m.k) addr = false →
    ∃ t, exec (.cfetch kd m) s = .next t ∧ t.k kd = s.slot loc ∧ t.slot loc = Cap.null ∧ (∀ i, i < 16 → t.readByte (loc + i) = 0)
      ∧ (∀ a, a / 16 ≠ loc / 16 → t.slot a = s.slot a ∧ t.readByte a = s.readByte a) ∧ t.regs = s.regs))
  ∧ (∀ (s : State) (t : ATy) (d r : WReg) (m : MemOp) (acq rel : Bool) (loc : Nat),
  InWindow s (max (topOf [d, r]) (topM m)) → Free s → Untimed s → Storable s loc → unreadable s loc = false →
  hasPosted s s.cur.ctx = false → OwnAccess s m .atomic (atomicBytes t) true loc → InBlock loc (atomicBytes t) →
  let n := atomicBytes t
  let old := s.readLe loc n
  let src := (s.w r).toNat
  let w := t.ty.width
  let i := t.ty.int
  (∀ p ∈ [(Instr.aswap t d m r acq rel, src % 2 ^ w), (.aand t d m r acq rel, old % 2 ^ w &&& src % 2 ^ w), (.aor t d m r acq rel, old % 2 ^ w ||| src % 2 ^ w),
      (.axor t d m r acq rel, old % 2 ^ w ^^^ src % 2 ^ w), (.aadd t d m r acq rel, AtomOp.add.apply t old src), (.amax t d m r acq rel, AtomOp.max.apply t old src),
      (.amin t d m r acq rel, AtomOp.min.apply t old src), (.acas t d m r acq rel, if old = (s.w d).toNat % 2 ^ w then src % 2 ^ w else old)],
    ∃ u, exec p.1 s = .next u ∧ u.w d = extend t.ty old ∧ u.readLe loc n = p.2 % 2 ^ w ∧ BytesKept s u loc n ∧ RegsKept s u [d.toNat] ∧ OthersKept s u
      ∧ GoesOn u s.me (following s) ∧ u.tags = s.tags)
  ∧ (∀ p ∈ [(Instr.redand t m r acq rel, old % 2 ^ w &&& src % 2 ^ w), (.redor t m r acq rel, old % 2 ^ w ||| src % 2 ^ w),
      (.redxor t m r acq rel, old % 2 ^ w ^^^ src % 2 ^ w), (.redadd t m r acq rel, AtomOp.add.apply t old src), (.redmax t m r acq rel, AtomOp.max.apply t old src),
      (.redmin t m r acq rel, AtomOp.min.apply t old src)],
    ∃ u, exec p.1 s = .next u ∧ u.readLe loc n = p.2 % 2 ^ w ∧ BytesKept s u loc n ∧ OnlyMemory s u ∧ u.tags = s.tags)
  ∧ (t.isFp = false → AtomOp.add.apply t old src = (old + src) % 2 ^ w ∧ i (AtomOp.max.apply t old src) = max (i old) (i src)
    ∧ i (AtomOp.min.apply t old src) = min (i old) (i src)))
  ∧ (∀ (s : State) (t : ATy) (d r : WReg) (m : MemOp) (rel : Bool), InWindow s (max (topOf [d, r]) (topM m)) →
  (Free s → s.me.state = .ready → AwayAccess s m .atomic (atomicBytes t) true →
    (∀ i ∈ [Instr.aswap t d m r false rel, .aadd t d m r false rel, .aand t d m r false rel, .aor t d m r false rel, .axor t d m r false rel, .amax t d m r false rel,
        .amin t d m r false rel, .acas t d m r false rel, .redadd t m r true rel, .redand t m r true rel, .redor t m r true rel, .redxor t m r true rel,
        .redmax t m r true rel, .redmin t m r true rel], ∃ u, exec i s = .next u ∧ Leaves s u .reply (.memoryReply s.cur.ctx))
    ∧ ∀ i ∈ [Instr.redadd t m r false rel, .redand t m r false rel, .redor t m r false rel, .redxor t m r false rel, .redmax t m r false rel, .redmin t m r false rel],
      ∃ u, exec i s = .next u ∧ Leaves s u .accept (.postedWriteAccept s.cur.ctx))
  ∧ (s.me.repro = true → (s.k m.k).kind = 3 → ∀ i ∈ [Instr.aswap t d m r false rel, .aadd t d m r false rel, .acas t d m r false rel, .amax t d m r true rel],
    Faults i s (flt .repro)))

/-! Atomics (R181 to R185). -/

/-! Versioned regions (R186 to R189). -/

/-- R186: opening a region gives a handle on its latest version, or a private version, whose bytes and tags start equal to the latest's. The number of a private version, the one under which it would be published, and its handle's generation are the model's choice (log 15). R187, R188: verpub makes the private version the latest and gives its number; verclose discards an unpublished version, or gives up a read handle; both end the handle. -/
def Obligations.Versions : Prop :=
  (∀ (s : State) (kd kn : KReg), AtIssue s → kd ≠ kn →
  let r := regionOf s (s.k kn)
  (openSteps s kd kn 0x81 = .ok () → ∃ t, exec (.veropenRead kd kn) s = .next t ∧ (t.k kd).kind = 7 ∧ (t.k kd).gen = BitVec.ofNat 12 r.latest
    ∧ (t.k kd).rights = 0x11 ∧ (t.k kd).base = (s.k kn).base ∧ t.k kn = s.k kn ∧ GoesOn t { s.me with k := t.me.k } (following s) ∧ t.regs = s.regs
    ∧ (t.region (regionKey (s.k kn))).latest = r.latest ∧ OthersKept s t)
  ∧ (openSteps s kd kn 0x83 = .ok () → r.mayOpen = true → ∃ t, exec (.veropenPrivate kd kn) s = .next t ∧ (t.k kd).kind = 7
    ∧ (t.k kd).gen = BitVec.ofNat 12 (r.latest + 1) ∧ (t.k kd).rights = 0x13 ∧ (t.region (regionKey (s.k kn))).priv = some (r.latest + 1)
    ∧ (t.region (regionKey (s.k kn))).latest = r.latest ∧ t.regs = s.regs ∧ OthersKept s t
    ∧ (Inv s → Map.wf 0 s.tags = true → r.versions.any (·.num == r.latest) = true → (∀ v ∈ r.versions, v.num % 2 ^ 32 ≠ (r.latest + 1) % 2 ^ 32) →
      ∀ off, off < 2 ^ 32 →
        t.rawByte (versionLoc (regionKey (s.k kn)) (r.latest + 1) off) = s.rawByte (versionLoc (regionKey (s.k kn)) r.latest off)
        ∧ t.tag (versionLoc (regionKey (s.k kn)) (r.latest + 1) off) = s.tag (versionLoc (regionKey (s.k kn)) r.latest off)))
  ∧ (openSteps s kd kn 0x83 = .ok () → r.mayOpen = false → Faults (.veropenPrivate kd kn) s (flt .capKind)))
  ∧ (∀ (s : State) (d : WReg) (kn : KReg) (p : Nat), InWindow s (topOf [d]) →
  let key := regionKey (s.k kn)
  (s.region key).priv = some p → p = (s.region key).latest + 1 → p % 4096 = (s.k kn).gen.toNat →
  (handleSteps s kn 0x02 = .ok () → hasPosted s s.cur.ctx = false → pinned s s.cur.ctx (s.k kn) = false →
    ∃ t, exec (.verpub d kn) s = .next t ∧ t.w d = BitVec.ofNat 64 p ∧ (t.region key).latest = p ∧ (t.region key).priv = none ∧ t.k kn = Cap.null
      ∧ OthersKept s t ∧ RegsKept s t [d.toNat])
  ∧ (handleSteps s kn 0x02 = .ok () → (hasPosted s s.cur.ctx = true ∨ pinned s s.cur.ctx (s.k kn) = true) → ∃ t, exec (.verpub d kn) s = .next t ∧ Retries s t)
  ∧ (handleSteps s kn 0x00 = .ok () → pinned s s.cur.ctx (s.k kn) = false →
    ∃ t, exec (.verclose kn) s = .next t ∧ (t.region key).latest = (s.region key).latest ∧ (t.region key).priv = none ∧ t.k kn = Cap.null ∧ t.regs = s.regs))

/-! Long memory forms (R207 to R210). -/

/-- R207, R209, R210: a gather or scatter with no lane on, and a stream of no chunks, complete at once; otherwise a form whose first point lies outside the core begins at it, which
PROGRESS records, and waits for the reply. A sum of nothing is 0. R46, R209, R210: in the core's own memory a gather is complete when it has issued, and so is the sum of one chunk. That a stream of no chunks completes whatever its offset and its capability is the model's choice (log 24). -/
def Obligations.LongFormsBegin : Prop := ∀ (s : State) (t : Ty) (d : WReg) (m : MemOp) (vd vs : VReg) (mask : MReg),
  InWindow s (max (max (max (topV vd) (topV vs)) (d.toNat + 2)) (topM m)) → Free s → s.me.state = .ready → s.cur.latched = false →
  let b := 2 ^ m.sh.toNat
  let lanes := gatherLanes b
  let leaves (x : Nat) : Prop := ∀ loc, routeOf s s.cur.ctx (s.k m.k) x = .here loc → ownCore s.cur.ctx loc = false
  let begins (i : Instr) (p : Nat) : Prop := ∃ u, exec i s = .next u ∧ u.me.state = .waiting ∧ u.me.wait = .reply ∧ u.me.progress = BitVec.ofNat 64 (p + 1)
    ∧ Instr.memoryReply s.cur.ctx ∈ u.work ∧ u.regs = s.regs ∧ u.mem = s.mem ∧ OthersKept s u
  let ends (i : Instr) : Prop := ∃ u, exec i s = .next u ∧ GoesOn u { s.me with progress := 0 } (following s) ∧ u.regs = s.regs ∧ u.mem = s.mem ∧ OthersKept s u
  (nextLane (s.mask mask) 0 lanes = none → ends (.vgath vd m vs mask) ∧ ends (.vscat vd m vs mask))
  ∧ (∀ j, nextLane (s.mask mask) 0 lanes = some j →
    let off := offsetOf s m + (lane 32 (s.v vs) j * b : Nat)
    (∀ x, accessSteps s (s.k m.k) .load off b b = .ok x → leaves x → begins (.vgath vd m vs mask) j)
    ∧ ∀ x, accessSteps s (s.k m.k) .store off b b = .ok x → leaves x → begins (.vscat vd m vs mask) j)
  ∧ (∀ at_ : Nat → Nat, (∀ j, j < lanes → (s.mask mask).getLsbD j = true → ∃ x, accessSteps s (s.k m.k) .load (offsetOf s m + (lane 32 (s.v vs) j * b : Nat)) b b = .ok x
      ∧ heldByChannel s s.myCore (s.k m.k) x b false = false ∧ routeOf s s.cur.ctx (s.k m.k) x = .here (at_ j) ∧ ownCore s.cur.ctx (at_ j) = true
      ∧ lockedOut s s.cur.ctx (at_ j) b = false ∧ unreadable s (at_ j) = false) →
    ∃ u, exec (.vgath vd m vs mask) s = .next u ∧ GoesOn u { s.me with progress := 0 } (following s) ∧ RegsKept s u (groupRegs vd) ∧ u.mem = s.mem ∧ OthersKept s u
      ∧ ∀ j, j < 64 / b → lane (8 * b) (u.v vd) j = if j < lanes ∧ (s.mask mask).getLsbD j = true then s.readLe (at_ j) b else lane (8 * b) (s.v vd) j)
  ∧ (s.wn (d.toNat + 1) = 0 → ends (.lscale t d m mask)
    ∧ ∃ u, exec (.lsum t d m mask) s = .next u ∧ u.w d = 0 ∧ RegsKept s u [d.toNat] ∧ GoesOn u { s.me with progress := 0 } (following s) ∧ u.mem = s.mem)
  ∧ (0 < (s.wn (d.toNat + 1)).toNat → (s.wn (d.toNat + 1)).toNat ≤ 2 ^ 26 →
    (∀ x, accessSteps s (s.k m.k) .load (offsetOf s m) 64 64 = .ok x → leaves x → begins (.lsum t d m mask) 0 ∧ begins (.lmax t d m mask) 0 ∧ begins (.lmin t d m mask) 0)
    ∧ ∀ x, accessSteps s (s.k m.k) .rescale (offsetOf s m) 64 64 = .ok x → leaves x → begins (.lscale t d m mask) 0)
  ∧ (∀ loc, s.wn (d.toNat + 1) = 1 → OwnAccess s m .load 64 false loc → unreadable s loc = false →
    ∀ p ∈ [(Instr.lsum t d m mask, RedOp.sum), (.lmax t d m mask, .max), (.lmin t d m mask, .min)],
      ∃ u, exec p.1 s = .next u ∧ EndsAt s u { s.me with progress := 0 } (following s) [d.toNat]
        ∧ u.w d = BitVec.ofNat 64 ((reduceLanes p.2 t (s.mask mask) (BitVec.ofNat 512 (s.readLe loc 64))).getD (identity p.2 (compTy t))))
  ∧ (2 ^ 26 < (s.wn (d.toNat + 1)).toNat → Faults (.lsum t d m mask) s (fltVal .capBounds 0 (s.wn (d.toNat + 1)).toNat))

/-! The register forms of the shared unit (R190 to R206). -/

/-- R192, R194, R195: the lane-wise arithmetic. Integer lanes wrap or clamp, floating-point lanes compute exactly and round once. -/
def Obligations.VectorArithmetic : Prop := ∀ (s : State) (o : VBin), MayEnter s (max (max (topV o.vd) (topV o.va)) (topB o.b)) →
  let t := o.ty
  let a (j : Nat) : Nat := lane t.width (s.v o.va) j
  let b (j : Nat) : Nat := bLane s t o.rm o.b j
  let puts (i : Instr) (f : Nat → Nat) : Prop := LanesEnter i s t o.vd o.mask o.z f
  let int (f : Int → Int → Int) (j : Nat) : Nat := wrap t.width (f (t.int (a j)) (t.int (b j)))
  let fp (f : Val → Val → Val) (j : Nat) : Nat := (f (Val.decode t (a j)) (Val.decode t (b j))).encode t o.rm
  (t.isFp = false →
    puts (.vadd o) (int (· + ·)) ∧ puts (.vsub o) (int (· - ·)) ∧ puts (.vmul o) (int (· * ·)) ∧ puts (.vmin o) (int min) ∧ puts (.vmax o) (int max)
    ∧ puts (.vadds o) (int fun x y => max t.lo (min t.hi (x + y))) ∧ puts (.vsubs o) (int fun x y => max t.lo (min t.hi (x - y)))
    ∧ puts (.vand o) (fun j => a j &&& b j) ∧ puts (.vor o) (fun j => a j ||| b j) ∧ puts (.vxor o) (fun j => a j ^^^ b j)
    ∧ puts (.vandn o) (fun j => a j &&& (b j ^^^ (2 ^ t.width - 1))) ∧ puts (.vshl o) (fun j => a j * 2 ^ (b j % t.width))
    ∧ puts (.vshr o) (fun j => a j / 2 ^ (b j % t.width)) ∧ puts (.vsar o) (fun j => wrap t.width (signed t.width (a j) / 2 ^ (b j % t.width))))
  ∧ (t.isFp = true →
    puts (.vadd o) (fp (Val.add o.rm)) ∧ puts (.vsub o) (fp fun x y => Val.add o.rm x y.neg) ∧ puts (.vmul o) (fp Val.mul) ∧ puts (.vdiv o) (fp Val.div)
    ∧ (o.rm = .rne → puts (.vmin o) (fp Val.min) ∧ puts (.vmax o) (fp Val.max)))
  ∧ ∀ c : VReg, InWindow s (topV c) →
    let un : VUn := { vd := o.vd, va := o.va, mask := o.mask, ty := t, rm := o.rm, z := o.z }
    let ter : VTer := { vd := o.vd, va := o.va, b := o.b, vc := c, mask := o.mask, ty := t, rm := o.rm, z := o.z }
    let fused (n m : Bool) (j : Nat) : Nat :=
      let p := Val.mul (Val.decode t (a j)) (Val.decode t (b j))
      let z := Val.decode t (lane t.width (s.v c) j)
      (Val.add o.rm (if n then p.neg else p) (if m then z.neg else z)).encode t o.rm
    let fp1 (f : Val → Val) (r : Rm) (j : Nat) : Nat := (f (Val.decode t (a j))).encode t r
    (t.isFp = false → puts (.vabs un) (fun j => (t.int (a j)).natAbs) ∧ puts (.vneg un) (fun j => wrap t.width (-(t.int (a j)))))
    ∧ (t.isFp = true → puts (.vabs un) (fp1 Val.abs .rne) ∧ puts (.vneg un) (fp1 Val.neg .rne) ∧ puts (.vsqrt un) (fp1 Val.sqrt o.rm)
      ∧ puts (.vfma ter) (fused false false) ∧ puts (.vfms ter) (fused false true) ∧ puts (.vfnma ter) (fused true false))

/-- R196, R198 to R201: comparisons into a mask, reductions, shuffles, mask forms, and the insertion and extraction of a lane. -/
def Obligations.VectorMasksAndShuffles : Prop := ∀ (s : State) (o : VCmp) (vd vb : VReg) (n : WReg) (j : BitVec 6) (h : Bool) (d a b : MReg),
  MayEnter s (max (max (max (topV o.va) (topB o.b)) (max (topV vd) (topV vb))) (topOf [n])) →
  let t := o.ty
  let x (i : Nat) : Nat := lane t.width (s.v o.va) i
  let y (i : Nat) : Nat := lane t.width (s.v vb) i
  let z (i : Nat) : Nat := bLane s t .rne o.b i
  let sets (i : Instr) (rel : Nat → Prop) : Prop := Enters i s fun e => ∃ v, WritesMask e o.md v ∧ ∀ k, v.getLsbD k = true ↔
    k < t.lanes ∧ (((s.mask o.mask).getLsbD k = true ∧ rel k) ∨ ((s.mask o.mask).getLsbD k = false ∧ o.z = false ∧ (s.mask o.md).getLsbD k = true))
  let int (f : Int → Int → Prop) (k : Nat) : Prop := f (t.int (x k)) (t.int (z k))
  let ord (k : Nat) : Option Ordering := Val.compare (Val.decode t (x k)) (Val.decode t (z k))
  let bits (i : Instr) (f : Bool → Bool → Bool) : Prop := Enters i s fun e => ∃ v, WritesMask e d v
    ∧ ∀ k, v.getLsbD k = (decide (k < t.lanes) && f ((s.mask a).getLsbD k) ((s.mask b).getLsbD k))
  let puts (i : Instr) (f : Nat → Nat) : Prop := LanesEnter i s t vd o.mask o.z f
  let half := if h then t.lanes / 2 else 0
  let tree (r : RedOp) : Word := extend (compTy t) ((reduceLanes r t (s.mask o.mask) (s.v o.va)).getD (identity r (compTy t)))
  (t.isFp = false → sets (.vcmpeq o) (int (· = ·)) ∧ sets (.vcmpne o) (int (· ≠ ·)) ∧ sets (.vcmplt o) (int (· < ·)) ∧ sets (.vcmpge o) (int (· ≥ ·))
    ∧ sets (.vcmpgt o) (int (· > ·)) ∧ sets (.vcmple o) (int (· ≤ ·)))
  ∧ (t.isFp = true → sets (.vcmpeq o) (ord · = some .eq) ∧ sets (.vcmpne o) (ord · ≠ some .eq) ∧ sets (.vcmplt o) (ord · = some .lt)
    ∧ sets (.vcmpge o) (fun k => ord k = some .eq ∨ ord k = some .gt) ∧ sets (.vcmpgt o) (ord · = some .gt)
    ∧ sets (.vcmple o) (fun k => ord k = some .lt ∨ ord k = some .eq) ∧ sets (.vcmpun o) (ord · = none) ∧ sets (.vcmpor o) (ord · ≠ none))
  ∧ (∀ p ∈ [(Instr.vrsum t vd o.va o.mask, RedOp.sum), (.vrmax t vd o.va o.mask, .max), (.vrmin t vd o.va o.mask, .min)],
    Enters p.1 s fun e => WritesReg e (8 * vd.toNat) (tree p.2))
  ∧ (t.isFp = false → tree .sum = BitVec.ofInt 64 (((List.range t.lanes).filter fun k => (s.mask o.mask).getLsbD k).map fun k => t.int (x k)).sum)
  ∧ puts (.vperm t vd o.va vb o.mask o.z) (fun i => x (y i % t.lanes))
  ∧ puts (.vbcast t vd o.va j o.mask o.z) (fun _ => x j.toNat)
  ∧ puts (.vrot t vd o.va j o.mask o.z) (fun i => x ((i + j.toNat) % t.lanes))
  ∧ puts (.vzip t vd o.va vb h o.mask o.z) (fun i => if i % 2 = 0 then x (half + i / 2) else y (half + i / 2))
  ∧ puts (.vunzip t vd o.va vb h o.mask o.z)
    (fun i => if i < t.lanes / 2 then x (2 * i + h.toNat) else y (2 * (i - t.lanes / 2) + h.toNat))
  ∧ (Enters (.vsel t vd o.va o.b o.mask) s fun e => ∃ v, WritesGroup e vd v ∧ ∀ i, i < t.lanes →
      lane t.width v i = if (s.mask o.mask).getLsbD i then x i else z i % 2 ^ t.width)
  ∧ bits (.mand t d a b) (· && ·) ∧ bits (.mor t d a b) (· || ·) ∧ bits (.mxor t d a b) xor ∧ bits (.mnot t d a) (fun p _ => !p)
  ∧ (Enters (.mpop t n a) s fun e => WritesReg e n.toNat (BitVec.ofNat 64 ((List.range t.lanes).filter fun k => (s.mask a).getLsbD k).length))
  ∧ (Enters (.mfirst t n a) s fun e => WritesReg e n.toNat (BitVec.ofNat 64 (((List.range t.lanes).find? fun k => (s.mask a).getLsbD k).getD t.lanes)))
  ∧ (Enters (.vins t vd n j) s fun e => ∃ v, WritesGroup e vd v ∧ ∀ i, i < t.lanes →
      lane t.width v i = if i = j.toNat then (s.w n).toNat % 2 ^ t.width else lane t.width (s.v vd) i)
  ∧ (Enters (.vext t n o.va j) s fun e => WritesReg e n.toNat (extend t (x j.toNat)))

/-- R75 to R81, R197, R203 to R206: conversion of a part, quantisation, its inverse, the block dot product and the change of a scale, with the late faults that the unit finds in
the order reserved, clash, ill-formed. A dequantisation leaves its tag register as it was, also where that lies among its destinations: the model's reading (log 25). -/
def Obligations.VectorFormats : Prop := ∀ (s : State) (t : Ty) (fmt delta : BitVec 8) (vd va vb : VReg) (n : WReg) (rm : Rm), t.isFp = true →
  MayEnter s (max (max (max (topV vd) (topV va)) (max (topV vb) (topOf [n]))) (max (topRun vd (blockGroups fmt t)) (topRun va (blockGroups fmt t)))) →
  let tag : BitVec 16 := (s.w n).setWidth 16
  let tagB : BitVec 16 := (s.w n).extractLsb' 16 16
  let xs := (List.range (blockVals fmt)).map fun j => Val.decode t (runLane s t va j)
  let quant (i : Instr) (P : BitVec 16 → Block → Prop) : Prop := Enters i s fun e => ∃ (g : BitVec 16) (b : Block), e.fault = none ∧ e.masks = []
    ∧ e.regs = ((List.range 8).map fun i => (8 * vd.toNat + i, b.extractLsb' (64 * i) 64)) ++ [(n.toNat, g.setWidth 64)] ∧ tagFormat g = fmt ∧ P g b
  let late (i : Instr) (c : FaultCode) : Prop := Enters i s fun e => LateFault e c
  let checks (i : Instr) (accept : BitVec 8 → Bool) : Prop :=
    (fmtReserved (tagFormat tag) = true → late i .fmtReserved)
    ∧ (fmtReserved (tagFormat tag) = false → accept (tagFormat tag) = false → late i .fmtClash)
    ∧ (fmtReserved (tagFormat tag) = false → accept (tagFormat tag) = true → illFormed tag (s.v va) = true → late i .fmtIll)
  (blockFmt fmt = true → ∀ c : VReg, (sparseFmt fmt = true → InWindow s (topV c)) →
    let mask := (s.wn (8 * c.toNat)).toNat + 2 ^ 64 * (s.wn (8 * c.toNat + 1)).toNat
    (sparseFmt fmt = true → 384 / fmtWidth fmt < popcount 128 mask → late (.qnt fmt t vd va c n) .fmtIll ∧ late (.qntg fmt t vd va c n) .fmtIll)
    ∧ ((sparseFmt fmt = true → popcount 128 mask ≤ 384 / fmtWidth fmt) →
      quant (.qnt fmt t vd va c n) (Quantised fmt none mask xs) ∧ quant (.qntg fmt t vd va c n) (Quantised fmt (some ((s.w n).toNat % 256)) mask xs)))
  ∧ (blockFmt fmt = true → checkTag (· == fmt) tag (s.v va) = none → Enters (.dqnt fmt t vd va n rm) s fun e => e.fault = none ∧ e.masks = []
    ∧ (∀ p ∈ e.regs, p.1 ≠ n.toNat)
    ∧ ∀ g, g < blockGroups fmt t → ∃ x : Block, (∀ i, i < 8 → 8 * (vd.toNat + g) + i ≠ n.toNat → (8 * (vd.toNat + g) + i, x.extractLsb' (64 * i) 64) ∈ e.regs)
      ∧ ∀ i, i < t.lanes → lane t.width x i = (((blockValues tag (s.v va))[g * t.lanes + i]?).getD .nan).encode t rm % 2 ^ t.width)
  ∧ checks (.dqnt fmt t vd va n rm) (· == fmt)
  ∧ (checkTag denseOrSparse tag (s.v va) = none → checkTag denseOrSparse tagB (s.v vb) = none →
    (blockVals (tagFormat tag) = blockVals (tagFormat tagB) → Enters (.bdot vd va vb n) s fun e => WritesReg e (8 * vd.toNat) (BitVec.ofNat 64
      (addPair ((s.wn (8 * vd.toNat)).toNat % 2 ^ 32) tag tagB (dotSum (mantissas tag (s.v va)) (mantissas tagB (s.v vb))))))
    ∧ (blockVals (tagFormat tag) ≠ blockVals (tagFormat tagB) → late (.bdot vd va vb n) .fmtClash))
  ∧ checks (.bdot vd va vb n) denseOrSparse
  ∧ (checkTag blockFmt tag (s.v va) = none → Enters (.bscale vd va n delta) s fun e => ∃ (g : BitVec 16) (b : Block), e.fault = none
    ∧ e.regs = ((List.range 8).map fun i => (8 * vd.toNat + i, b.extractLsb' (64 * i) 64)) ++ [(n.toNat, g.setWidth 64)] ∧ tagFormat g = tagFormat tag
    ∧ ((tagScale tag = 0 ∨ tagScale tag = 255) → tagScale g = tagScale tag ∧ b = s.v va)
    ∧ (tagScale tag ≠ 0 → tagScale tag ≠ 255 →
      (1 ≤ (tagScale tag : Int) + delta.toInt → (tagScale tag : Int) + delta.toInt ≤ 254 → (tagScale g : Int) = tagScale tag + delta.toInt ∧ b = s.v va)
      ∧ (254 < (tagScale tag : Int) + delta.toInt → tagScale g = 255 ∧ b = 0) ∧ ((tagScale tag : Int) + delta.toInt < 1 → tagScale g = 0 ∧ b = 0)))
  ∧ checks (.bscale vd va n delta) blockFmt
  ∧ ∀ (src dst : Ty) (mask : MReg) (z sat : Bool) (p : BitVec 4),
    let es := src.width
    let ed := dst.width
    let k := 512 / max es ed
    let base := if ed < es then p.toNat * k else 0
    base + k ≤ 512 / ed →
    Enters (.vcvt dst { vd := vd, va := va, mask := mask, ty := src, rm := rm, z := z } p sat) s fun e => ∃ x, WritesGroup e vd x
      ∧ (∀ i, i < k → lane ed x (base + i) =
        if (s.mask mask).getLsbD i then convert dst src rm sat (lane es (s.v va) (if es < ed then p.toNat * k + i else i)) % 2 ^ ed
        else if z then 0 else lane ed (s.v vd) (base + i))
      ∧ ∀ j, j < 512 / ed → (j < base ∨ base + k ≤ j) → lane ed x j = lane ed (s.v vd) j

/-- R190, R191, R362: with both vector entries waiting for a pipe the turn is spent and nothing changes; a grant starts the head entry of the core whose turn it is; the result step writes
what the entry holds, or parks the context with its late fault and writes nothing. -/
def Obligations.VectorResultsLand : Prop := ∀ (s : State) (o : VBin) (c b : Nat) (e : VEntry),
  (InWindow s (max (max (topV o.vd) (topV o.va)) (topB o.b)) → 2 ≤ queued s → exec (.vadd o) s = .next (spendTurn s))
  ∧ (∀ r, (s.core (4 * b + ((s.barn b).lastVector + 1) % 4)).vents = e :: r → e.started = false →
    ∃ t, exec (.vectorPipeGrant b) s = .next t ∧ (t.core (4 * b + ((s.barn b).lastVector + 1) % 4)).vents = { e with started := true } :: r
      ∧ Instr.vectorResult e.ctx ∈ t.work ∧ t.ctxs = s.ctxs ∧ t.regs = s.regs ∧ t.mem = s.mem)
  ∧ ((s.core (coreOf c)).vents.find? (fun e => e.ctx == c && e.started) = some e →
    (e.fault = none → (e.regs.map (·.1)).Nodup → e.masks.length ≤ 1 →
      ∃ t, exec (.vectorResult c) s = .next t ∧ (∀ p ∈ e.regs, t.regOf c p.1 = p.2)
        ∧ (∀ p ∈ e.masks, 0 < p.1 → p.1 < 8 → vat 0 (t.ctx c).m p.1 = p.2) ∧ (t.core (coreOf c)).vents = (s.core (coreOf c)).vents.erase e
        ∧ (∀ key, (∀ p ∈ e.regs, key ≠ s.regKey c p.1) → mget 0 t.regs key = mget 0 s.regs key) ∧ t.mem = s.mem
        ∧ (∀ d, d ≠ c → t.ctx d = s.ctx d) ∧ (t.ctx c).pc = (s.ctx c).pc ∧ (t.ctx c).state = (s.ctx c).state
        ∧ ((∀ p ∈ e.masks, p.1 = 0) → t.ctx c = s.ctx c) ∧ t.mask 0 = BitVec.allOnes 64)
    ∧ (∀ f, e.fault = some f → f.code ≠ .poison → ∃ t, exec (.vectorResult c) s = .next t ∧ (t.ctx c).state = .parked ∧ (t.ctx c).pc = e.ins.codept
        ∧ (t.ctx c).fault = some f ∧ t.regs = s.regs ∧ t.mem = s.mem ∧ Instr.faultRecordPost c ∈ t.work))

/-! Tiles and the matrix forms (R211 to R222, R382). -/

/-- R190, R211 to R222: a tile form or a matrix form takes a tile entry and the lock of its tile, or, for a matrix form, its place behind the holder, and its context waits; R46: an accld or an accst of the core's own memory
has copied its rows when it has issued; an actor may not use one; ufcfg writes the unfolding configuration. -/
def Obligations.TileFormsBegin : Prop := ∀ (s : State) (x : TileReg) (m : MemOp) (r : WReg) (ka kb : KReg),
  InWindow s (max (r.toNat + 4) (topM m)) →
  let held := vat none (s.barn s.myBarn).tileLock x.toNat
  let begins (i : Instr) (w : Wait) (step : Instr) (p : Nat) : Prop := ∃ t, exec i s = .next t ∧ t.me.state = .waiting ∧ t.me.wait = w ∧ t.me.progress = BitVec.ofNat 64 p
    ∧ step ∈ t.work ∧ (t.core s.myCore).tents = (s.core s.myCore).tents ++ [s.cur.ctx]
    ∧ vat none (t.barn s.myBarn).tileLock x.toNat = (match held with | some c => some c | none => some s.cur.ctx)
    ∧ (held ≠ none → vat [] (t.barn s.myBarn).tileWait x.toNat = vat [] (s.barn s.myBarn).tileWait x.toNat ++ [s.cur.ctx])
    ∧ t.regs = s.regs ∧ t.mem = s.mem ∧ t.tiles = s.tiles ∧ OthersKept s t
  let leaves (x : Nat) : Prop := ∀ loc, routeOf s s.cur.ctx (s.k m.k) x = .here loc → ownCore s.cur.ctx loc = false
  let c2 := s.wn (r.toNat + 2)
  let d := descOf (s.wn r.toNat) (s.wn (r.toNat + 1)) c2 (s.wn (r.toNat + 3))
  (s.me.actor = false → Free s → s.me.state = .ready → s.cur.latched = false → (s.core s.myCore).tents.length < 4 →
    inTile (s.barn s.myBarn) x.toNat s.cur.ctx = false → (∀ c ∈ (s.core s.myCore).tents, (s.ctx c).tileAt ≤ s.stamp) →
    (held = none → begins (.acczero x) .tile (.tileOpComplete s.cur.ctx) s.me.progress.toNat)
    ∧ (held = none → ∀ first q : Nat, (s.w r).toNat = first + 256 * q → 1 ≤ q → first + q ≤ 32 →
      (∀ addr, accessSteps s (s.k m.k) .load (offsetOf s m) 64 64 = .ok addr → leaves addr → begins (.accld x m r) .reply (.memoryReply s.cur.ctx) 1)
      ∧ (∀ addr, accessSteps s (s.k m.k) .store (offsetOf s m) 64 64 = .ok addr → leaves addr → begins (.accst x m r) .reply (.memoryReply s.cur.ctx) 1)
      ∧ ∀ at_ : Nat → Nat,
        let own (c : Machine.Class) (w : Bool) (i : Nat) : Prop := ∃ a, accessSteps s (s.k m.k) c (offsetOf s m + (64 * i : Nat)) 64 64 = .ok a
          ∧ heldByChannel s s.myCore (s.k m.k) a 64 w = false ∧ routeOf s s.cur.ctx (s.k m.k) a = .here (at_ i) ∧ ownCore s.cur.ctx (at_ i) = true
          ∧ lockedOut s s.cur.ctx (at_ i) 64 = false
        let ended (t : State) : Prop := t.me.state = .waiting ∧ t.me.wait = .tile ∧ t.me.progress = 0 ∧ Instr.tileOpComplete s.cur.ctx ∈ t.work
        ((∀ i, i < 16 * q → at_ i = at_ 0 + 64 * i ∧ own .store true i ∧ Storable s (at_ i) ∧ InBlock (at_ i) 64) →
          ∃ t, exec (.accst x m r) s = .next t ∧ ended t
            ∧ (∀ i j, i < 16 * q → j < 16 → t.readLe (at_ i + 4 * j) 4 = (mget 0 s.tiles (tileKey s.myBarn x.toNat (first + i / 16) (16 * (i % 16) + j))).toNat)
            ∧ BytesKept s t (at_ 0) (1024 * q) ∧ t.tags = s.tags ∧ t.tiles = s.tiles ∧ t.regs = s.regs ∧ OthersKept s t)
        ∧ ((∀ i, i < 16 * q → own .load false i ∧ unreadable s (at_ i) = false) → ∃ t, exec (.accld x m r) s = .next t ∧ ended t
          ∧ (∀ i j, i < 16 * q → j < 16 → (mget 0 t.tiles (tileKey s.myBarn x.toNat (first + i / 16) (16 * (i % 16) + j))).toNat = s.readLe (at_ i + 4 * j) 4)
          ∧ t.regs = s.regs ∧ t.mem = s.mem ∧ OthersKept s t))
    ∧ (∀ c, held = some c → c ≠ s.cur.ctx → ∃ t, exec (.acczero x) s = .next t ∧ Retries s t)
    ∧ (∀ f ∈ [MatForm.mmd, .mms], descSteps f d c2 = .ok () →
      begins (if f = .mmd then .mmd x ka kb r else .mms x ka kb r) .matrix (.matrixKBlock s.cur.ctx) 1)
    ∧ ∀ f ∈ [MatForm.mmu, .mmus], descSteps f d c2 = .ok () → unfoldSteps s.me.ufc0 s.me.ufc1 c2 d.kg = .ok () →
      begins (if f = .mmu then .mmu x ka kb r else .mmus x ka kb r) .matrix (.matrixKBlock s.cur.ctx) 1)
  ∧ (s.me.actor = true → ∀ i ∈ [Instr.acczero x, .accld x m r, .accst x m r, .mmd x ka kb r, .mms x ka kb r, .mmu x ka kb r, .mmus x ka kb r],
    Faults i s (flt .illegal))
  ∧ (∃ t, exec (.ufcfg r) s = .next t ∧ EndsAt s t { s.me with ufc0 := s.w r, ufc1 := s.wn (r.toNat + 1) } (following s) [])

/-- R82, R212, R213, R218, R382, R383: the steps of the sequencer. acczero makes every element +0; the K-blocks of a packed group add their K-groups, in order, to the elements of the
descriptor's rows and columns and to no other, up to the one in which a fault is found; the end of a form gives up its entry and its lock. That a packed group begins at the K-block where the form stands is the model's choice (log 24). -/
def Obligations.TileFormsEnd : Prop := ∀ (s : State) (c : Nat) (a : Access) (x : TileReg), (s.ctx c).state = .waiting → (s.ctx c).acc = some a →
  (s.core (coreOf c)).tents.head? = some c →
  let free (t : State) : Prop := (t.core (coreOf c)).tents = (s.core (coreOf c)).tents.erase c ∧ vat none (t.barn (barnOf c)).tileLock x.toNat ≠ some c
  ((s.ctx c).wait = .tile →
    (a.op = .tileZero x → ∃ t, exec (.tileOpComplete c) s = .next t ∧ Resumes s t c a.ins ∧ free t ∧ t.regs = s.regs ∧ t.mem = s.mem
      ∧ (∀ row col, row < 32 → col < 256 → mget 0 t.tiles (tileKey (barnOf c) x.toNat row col) = 0)
      ∧ ∀ key, key / 8192 ≠ 8 * barnOf c + x.toNat → mget 0 t.tiles key = mget 0 s.tiles key)
    ∧ (∀ inward first rows, a.op = .tileCopy x inward first rows → ∃ t, exec (.tileOpComplete c) s = .next t ∧ Resumes s t c a.ins ∧ free t ∧ t.tiles = s.tiles
      ∧ t.mem = s.mem))
  ∧ (∀ (f : MatForm) (kb : Cap) (c0 c1 c2 c3 u0 u1 : Word) (fa fb : BitVec 8) far, (s.ctx c).wait = .matrix →
    a.op = .matrix f x kb c0 c1 c2 c3 u0 u1 (some (fa, fb)) far →
    let d := descOf c0 c1 c2 c3
    let j := pointOf (s.ctx c)
    (d.kg ≤ 2 * j → ∃ t, exec (.matrixComplete c) s = .next t ∧ Resumes s t c a.ins ∧ free t ∧ (t.ctx c).progress = 0 ∧ t.tiles = s.tiles ∧ t.mem = s.mem)
    ∧ (2 * j < d.kg → descSteps f d c2 = .ok () → hasTx s c = false → requestParked s (.ctx c) = false →
      ((s.barn (barnOf c)).lastMatrix + 1) % 4 = coreOf c % 4 → vat none (s.barn (barnOf c)).tileLock x.toNat = some c →
      let pack := ((List.range (packOf f d.n)).map (j + ·)).filter (2 * · < d.kg)
      let u := actFor (s.did (.matrixKBlock c)) c a.ins
      ∀ done got bad, checkPack u a.k kb far f d (unfoldOf u0 u1) fa fb none pack [] [] = .inr (done, got, bad) →
      ∃ t, exec (.matrixKBlock c) s = .next t ∧ pointOf (t.ctx c) = j + done.length ∧ t.regs = s.regs ∧ t.mem = s.mem
        ∧ (bad = none → done = pack ∧ (t.ctx c).wait = .matrix ∧ (if 2 * (j + done.length) < d.kg then Instr.matrixKBlock c else .matrixComplete c) ∈ t.work)
        ∧ (∀ v e, bad = some (v, e) → (t.ctx c).state = .parked ∧ (t.ctx c).fault = some e.lateOf ∧ vat none (t.barn (barnOf c)).tileLock x.toNat = some c)
        ∧ (∀ row col, row < 32 → col < 256 →
          let old := mget 0 s.tiles (tileKey (barnOf c) x.toNat row col)
          mget 0 t.tiles (tileKey (barnOf c) x.toNat row col) =
            if row < d.m ∧ col < d.n then
              (done.map (kGroups d)).flatten.foldl (fun acc g => BitVec.ofNat 32 (addGroup got fa (blockVals fa) (blockVals fb) (g / 2) row col
                (aBlock f d (unfoldOf u0 u1) (blockVals fa) row (64 * g)) (bBlock d (blockVals fb) col (64 * g)) (64 * g) acc.toNat)) old
            else old)
        ∧ ∀ key, key / 8192 ≠ 8 * barnOf c + x.toNat → mget 0 t.tiles key = mget 0 s.tiles key))

/-! Rings and messages (R226 to R234, R369 to R372, R399). -/

/-- R226 to R228: ringmk makes an owned buffer a ring and its capability the receive end; ringsend issues a send end whose count comes out of the ring's reserve; ringfree gives a
send end's count back, be its ring here or saved with its launch, or makes the receive end an owned buffer of zeros again. R171: all three wait while another context locks the ring's memory. That ringsend of a fault ring's receive end issues a send end as any other's does is the model's choice (log 30, R274). -/
def Obligations.RingEnds : Prop := ∀ (s : State) (ka kd : KReg) (b : WReg) (tag : BitVec 16), InWindow s (topOf [b]) → ka ≠ 15 → kd ≠ 15 →
  (s.me.actor && s.me.began) = false →
  let k := s.k ka
  let kept (t : State) (r : KReg) : Prop := GoesOn t { s.me with k := t.me.k } (following s) ∧ (∀ q, q ≠ r → t.k q = s.k q) ∧ t.regs = s.regs ∧ OthersKept s t
  (∀ loc cells timed, k.plainOwned = true → k.world = s.me.world → k.read = true → k.write = true → k.send = true → ringPlace s k = some loc →
    rangeStashed s loc k.length.toNat = false → (s.w b).toNat = cells + (if timed then 2 ^ 16 else 0) → 1 ≤ cells → cells ≤ (if timed then 256 else 4096) →
    64 + 80 * cells ≤ k.length.toNat →
    (timed = true → s.me.actor = true ∧ (s.rings.any fun r => r.2.live && r.2.timed && r.2.owner == s.cur.ctx) = false) →
    pinned s s.cur.ctx k = false → lockedOut s s.cur.ctx loc k.length.toNat = false → makesFeed s timed = false →
    ∃ t, exec (.ringmk ka b) s = .next t ∧ t.k ka = { k with kind := 4, rights := 0x11, gen := k.gen + 1, base := BitVec.ofNat 48 (loc + 64), length := k.length - 64 }
      ∧ (t.ring loc).live = true ∧ (t.ring loc).timed = timed ∧ (t.ring loc).cells = cells ∧ (t.ring loc).slots = [] ∧ (t.ring loc).reserve = 32768
      ∧ (t.ring loc).gen = k.gen + 1 ∧ (t.ring loc).owner = s.cur.ctx ∧ kept t ka ∧ t.mem = s.mem ∧ t.slots = s.slots)
  ∧ (recvEndSteps s k = .ok () → s.k kd = Cap.null →
    let r := s.ring (portOf k)
    (1 ≤ (s.w b).toNat → (s.w b).toNat ≤ r.reserve - 1 → ringLocked s s.cur.ctx (portOf k) = true → ∃ t, exec (.ringsend kd ka b tag) s = .next t ∧ Retries s t)
    ∧ (1 ≤ (s.w b).toNat → (s.w b).toNat ≤ r.reserve - 1 → ringLocked s s.cur.ctx (portOf k) = false → ∃ t, exec (.ringsend kd ka b tag) s = .next t
      ∧ t.k kd = { world := r.world, gen := r.gen, count := (s.w b).setWidth 16, kind := 4, rights := 0x10, length := 64, base := BitVec.ofNat 48 (portOf k), stag := tag }
      ∧ (t.ring (portOf k)).reserve + (s.w b).toNat = r.reserve ∧ (t.ring (portOf k)).slots = r.slots ∧ kept t kd ∧ t.mem = s.mem)
    ∧ (¬(1 ≤ (s.w b).toNat ∧ (s.w b).toNat ≤ r.reserve - 1) → Faults (.ringsend kd ka b tag) s (fltVal .capBounds 0 (s.w b).toNat)))
  ∧ (k.kind = 4 → k.world = s.me.world → genOk s k = true → farEnd s k = none →
    ((pinned s s.cur.ctx k = true ∨ ringLocked s s.cur.ctx (portOf k) = true) → ∃ t, exec (.ringfree ka) s = .next t ∧ Retries s t)
    ∧ (pinned s s.cur.ctx k = false → ringLocked s s.cur.ctx (portOf k) = false →
    let r := s.ring (portOf k)
    (k.count ≠ 32768 → ∃ t, exec (.ringfree ka) s = .next t ∧ t.k ka = Cap.null
      ∧ (t.heldRing (portOf k)).reserve = (s.heldRing (portOf k)).reserve + k.count.toNat ∧ kept t ka ∧ t.mem = s.mem)
    ∧ (k.count = 32768 → r.timed = false → r.fault = false → r.reserve = 32768 → r.slots = [] → ∃ t, exec (.ringfree ka) s = .next t
      ∧ (t.k ka).kind = 1 ∧ (t.k ka).rights = r.saved ∧ (t.k ka).length = BitVec.ofNat 32 r.length ∧ (t.k ka).count = 32768 ∧ (t.ring (portOf k)).live = false ∧ kept t ka
      ∧ (∀ i, i < r.length → t.readByte (portOf k + i) = 0) ∧ ∀ a, (a < portOf k ∨ portOf k + r.length ≤ a) → t.rawByte a = s.rawByte a)))

/-- R230 to R232, R234, R370 to R372, R399: a send becomes a message and its context waits until the message is in its ring; the message takes a slot at the ring's end, waits
while the ring is full, or is resent after back-pressure; a receive takes the oldest slot. R331, R333: a ring whose memory another context locks keeps both waiting, and a slot in a poisoned block gives a receive POISON. -/
def Obligations.MessagesTravel : Prop := ∀ (s : State),
  (∀ (ka kc : KReg) (b : WReg) (len : BitVec 6), InWindow s (topPayload b len.toNat) → s.me.actor = false → ka ≠ 15 → kc ≠ 15 → len.toNat ≤ 48 →
    sendEndSteps s (s.k ka) = .ok () → ((s.heldRing (portOf (s.k ka))).timed = false ∨ (farEnd s (s.k ka)).isSome = true) → s.me.state = .ready →
    (goneEnd s s.me.launch (s.k ka) = true → Faults (.send ka b len) s (flt .hitchGone).lateOf) ∧ (goneEnd s s.me.launch (s.k ka) = false →
    let sends (t : State) (m : Msg) : Prop := t.msgs = s.msgs ++ [m] ∧ m.kind = .untimed ∧ m.from_ = s.cur.ctx ∧ m.launch = 0 ∧ m.tag = (s.k ka).stag ∧ m.len = len.toNat
      ∧ (∀ i, i < len.toNat → m.payload.extractLsb' (8 * i) 8 = (s.wn (b.toNat + i / 8)).extractLsb' (8 * (i % 8)) 8)
      ∧ m.port = (if (farEnd s (s.k ka)).isSome then (s.k ka).base.toNat else portOf (s.k ka))
      ∧ t.me.state = .waiting ∧ t.me.wait = .ring m.id ∧ t.regs = s.regs ∧ t.mem = s.mem ∧ OthersKept s t
    (∃ t m, exec (.send ka b len) s = .next t ∧ sends t m ∧ m.cap = Cap.null ∧ Instr.ringSlotWrite (.here m.id) ∈ t.work ∧ t.me.k = s.me.k)
    ∧ (carrySteps s (s.k kc) (portOf (s.k ka)) (farEnd s (s.k ka)).isSome = .ok () →
      (pinned s s.cur.ctx (s.k kc) = false → ∃ t m, exec (.sendk ka b kc len) s = .next t ∧ sends t m ∧ m.orig = s.k kc ∧ m.reg = some kc ∧ t.k kc = Cap.null
        ∧ (∀ r, r ≠ kc → t.k r = s.k r) ∧ (if m.copy then Instr.moveByteCopy m.id else .ringSlotWrite (.here m.id)) ∈ t.work)
      ∧ (pinned s s.cur.ctx (s.k kc) = true → ∃ t, exec (.sendk ka b kc len) s = .next t ∧ Retries s t))))
  ∧ (∀ (d : WReg) (ka kc : KReg), InWindow s (d.toNat + 8) → s.me.actor = false → Free s → ka ≠ 15 → kc ≠ 15 → recvEndSteps s (s.k ka) = .ok () →
    let port := portOf (s.k ka)
    (s.ring port).timed = false →
    (ringLocked s s.cur.ctx port = true → ∀ i ∈ [Instr.recv d ka kc, .tryrecv d ka kc], ∃ t, exec i s = .next t ∧ Retries s t)
    ∧ (ringLocked s s.cur.ctx port = false →
    ((s.ring port).slots = [] → (∃ t, exec (.recv d ka kc) s = .next t ∧ Retries s t)
      ∧ ∃ t, exec (.tryrecv d ka kc) s = .next t ∧ t.w d = 0 ∧ t.wn (d.toNat + 1) = 0xFFFFFFFFFFFFFFFF ∧ EndsAt s t s.me (following s) [d.toNat, d.toNat + 1])
    ∧ ∀ x rest, (s.ring port).slots = x :: rest → (x.cap = false ∨ s.k kc = Cap.null) → ∀ i ∈ [Instr.recv d ka kc, .tryrecv d ka kc],
      (∀ f, slotStep s port x = .error f → f.code = .poison ∧ Faults i s f)
      ∧ (slotStep s port x = .ok () → ∃ t, exec i s = .next t ∧ t.w d = BitVec.ofNat 64 x.vrt ∧ t.wn (d.toNat + 1) = headerHi x
        ∧ (∀ j, j < 6 → t.wn (d.toNat + 2 + j) = x.payload.extractLsb' (64 * j) 64) ∧ (t.ring port).slots = rest
        ∧ t.k kc = (if x.cap then x.side else s.k kc) ∧ (∀ r, r ≠ kc → t.k r = s.k r) ∧ RegsKept s t ((List.range 8).map (d.toNat + ·)) ∧ OthersKept s t
        ∧ GoesOn t { s.me with k := t.me.k } (following s) ∧ t.mem = s.mem)))
  ∧ (∀ id m, msgOf s id = some m → m.kind = .untimed → m.copy = false → m.launch = 0 → hasPosted s m.from_ = false → msgOut s m = false → copying s m = false →
    m.far = false →
    let comesBack : Prop := ∃ t, exec (.ringSlotWrite (.here id)) s = .next t ∧ Instr.backPressureResend id ∈ t.work ∧ t.msgs = s.msgs ∧ t.rings = s.rings
    (destAway s m = true → comesBack) ∧ (destAway s m = false → ringEnded s m = false → ringRefuses s (msgWorld s m) (barnOf m.from_) (msgLaunch s m) m.ring false = none →
    (ringAway s m.ring = true → comesBack)
    ∧ (ringAway s m.ring = false → slotLocked s m = true → exec (.ringSlotWrite (.here id)) s = .next s)
    ∧ (ringAway s m.ring = false → (m.defer_ = false ∨ (s.ctx (s.ring m.ring).owner).state ≠ .ended) → (s.ring m.ring).cells ≤ (s.ring m.ring).slots.length →
      exec (.ringSlotWrite (.here id)) s = .next s)
    ∧ (ringAway s m.ring = false → slotLocked s m = false → (s.ring m.ring).slots.length < (s.ring m.ring).cells →
      ∃ t, exec (.ringSlotWrite (.here id)) s = .next t ∧ (t.ring m.ring).slots = (s.ring m.ring).slots ++ [{ slotOf m with cell := (s.ring m.ring).freeCell }] ∧ msgOf t id = none
        ∧ Resumes s t m.from_ (heldOf s m.from_) ∧ t.regs = s.regs ∧ t.mem = s.mem)))
  ∧ (∀ p h l, ingress s p (fun l => inPaddock l p.off.toNat) = .ok (h, l) →
    let m := packetMsg p .untimed
    let r := s.ring m.port
    let answers (type status : BitVec 8) : Prop := ∃ t, exec (.ringSlotWrite (.fabric p)) s = .next t ∧ t.rings = s.rings ∧ Answers s t p type status ∧ t.ctxs = s.ctxs
    (l.stage = .saved → answers 0x0B 0)
    ∧ (l.stage ≠ .saved → (r.live = false ∨ r.timed = true) → answers 0x06 FaultCode.capKind.code)
    ∧ (l.stage ≠ .saved → r.live = true → r.timed = false →
      (ringAway s m.port = false → lockedAny s m.port r.length = false → r.slots.length < r.cells →
        ∃ t x, exec (.ringSlotWrite (.fabric p)) s = .next t ∧ (t.ring m.port).slots = r.slots ++ [x] ∧ x.vrt = p.vrt.toNat ∧ x.remote = some p
          ∧ Answers s t p 0x06 0 ∧ t.ctxs = s.ctxs)
      ∧ ((ringAway s m.port = true ∨ lockedAny s m.port r.length = true) → answers 0x0B 0)
      ∧ (r.cells ≤ r.slots.length → (m.defer_ = false ∨ (s.ctx r.owner).state ≠ .ended) → answers 0x0B 0)
      ∧ (ringAway s m.port = false → lockedAny s m.port r.length = false → r.cells ≤ r.slots.length → m.defer_ = true → (s.ctx r.owner).state = .ended → answers 0x06 FaultCode.capKind.code)))
  ∧ (∀ id m, msgOf s id = some m → ∃ t, exec (.backPressureResend id) s = .next t ∧ (if m.copy then Instr.moveByteCopy id else arrivalOf m) ∈ t.work ∧ t.msgs = s.msgs)
  ∧ (∀ id m src first, msgOf s id = some m → m.copy = true → m.launch = 0 → hasPosted s m.from_ = false → m.far = false → copying s m = false → destAway s m = false →
    place (coreOf m.from_) m.orig.base.toNat = .sram src → lockedAny s src m.orig.length.toNat = false → rangeReadable s src m.orig.length.toNat = true →
    ringRefuses s (msgWorld s m) (barnOf m.from_) (msgLaunch s m) m.ring false = none →
    freeRunAt (s.barn (portBarn m.ring)).pool (runBlocks m.orig) = some first →
    let run := barnLoc (portBarn m.ring) (Config.poolBase + 64 * first)
    let n := m.orig.length.toNat
    (s.slots.filter fun c => src ≤ 16 * c.1 && 16 * c.1 + 16 ≤ src + n) = [] →
    (s.slots.filter fun c => decide (run ≤ 16 * c.1 + 15) && decide (16 * c.1 < run + 64 * ((src % 64 + n + 63) / 64))) = [] →
    ∃ t m', exec (.moveByteCopy id) s = .next t ∧ m' ∈ t.msgs ∧ m'.id = m.id ∧ m'.copy = false ∧ m'.orig = m.orig
      ∧ m'.cap = { m.cap with base := BitVec.ofNat 48 (0x1000000 + Config.poolBase + 64 * first + src % 64) } ∧ arrivalOf m' ∈ t.work
      ∧ (∀ i, i < n → t.readByte (run + src % 64 + i) = s.readByte (src + i)) ∧ t.regs = s.regs ∧ t.ctxs = s.ctxs
      ∧ ∀ a, (a < run ∨ run + 64 * ((src % 64 + n + 63) / 64) ≤ a) → t.rawByte a = s.rawByte a)

/-! Timed actors (R235 to R243, R311 to R326). -/

/-- R235 to R243, R311, R316: what a timed actor's instructions do: a send takes the next VRT and is logged; trecv takes the pending message of least VRT and makes a checkpoint;
rollb undoes the messages from the least straggler or recalled one on: their undo records are restored, their sends recalled, their deferred actions and checkpoints gone, and the registers are
those of the earliest one's checkpoint, but for a capability that is still away; once every capability has come back the actor goes on at that checkpoint; recall sends a recall; the deferred actions are recorded; GVT is read and waited for. -/
def Obligations.TimedActors : Prop := ∀ (s : State) (ka kd : KReg) (a b c : WReg) (len : BitVec 6), ka ≠ 15 → kd ≠ 15 →
  let x := s.me
  (∀ T : Nat, T = (s.w c).toNat → InWindow s (max (c.toNat + 1) (topPayload b len.toNat)) → x.actor = true → sendEndSteps s (s.k ka) = .ok () →
    farEnd s (s.k ka) = none → (s.heldRing (portOf (s.k ka))).timed = true → goneEnd s x.launch (s.k ka) = false →
    let v := T * 0x10000000 + x.actorId.toNat * 0x400 + (x.seq + 1).toNat
    (0x1000000000 ≤ T → Faults (.tsend ka b c len) s (fltVal .capBounds 11 T))
    ∧ (T < 0x1000000000 → (v ≤ x.lvt.toNat ∨ (x.loft.sends.any fun e => e.vrt == v && e.live) = true) → Faults (.tsend ka b c len) s (fltVal .vrtDup 11 v))
    ∧ (T < 0x1000000000 → x.lvt.toNat < v → (x.loft.sends.any (·.vrt == v)) = false → loftRoom x 32 = .ok true → x.state = .ready →
      let sends (t : State) (m : Msg) (k : Cap) : Prop := t.msgs = s.msgs ++ [m] ∧ m.kind = .timed ∧ m.vrt = v ∧ m.from_ = s.cur.ctx ∧ m.port = portOf (s.k ka)
        ∧ t.me.seq = x.seq + 1 ∧ t.me.state = .waiting ∧ t.me.wait = .ring m.id ∧ t.regs = s.regs ∧ t.mem = s.mem ∧ OthersKept s t
        ∧ ∃ e, t.me.loft.sends = x.loft.sends ++ [e] ∧ e.vrt = v ∧ e.during = x.lvt.toNat ∧ e.cap = k ∧ e.live = true
      (∃ t m, exec (.tsend ka b c len) s = .next t ∧ sends t m Cap.null ∧ Instr.timedMessageArrival (.here m.id) ∈ t.work ∧ t.me.k = x.k)
      ∧ (carrySteps s (s.k kd) (portOf (s.k ka)) false = .ok () → pinned s s.cur.ctx (s.k kd) = false →
        ∃ t m, exec (.tsendk kd ka b c len) s = .next t ∧ sends t m (s.k kd) ∧ t.k kd = Cap.null
          ∧ (if m.copy then Instr.moveByteCopy m.id else .timedMessageArrival (.here m.id)) ∈ t.work)))
  ∧ (InWindow s (topOf [a]) → x.actor = true →
    ((s.w a).toNat < 0x10000 → ∃ t, exec (.ckpt a) s = .next t ∧ EndsAt s t { x with ckMask := (s.w a).setWidth 16 } (following s) [])
    ∧ (0x10000 ≤ (s.w a).toNat → Faults (.ckpt a) s (fltVal .capBounds 0 (s.w a).toNat))
    ∧ (∀ e, (x.loft.sends.find? fun e => e.vrt == (s.w a).toNat && e.during == stampOf x && e.live && !e.recalled) = some e → 
      (e.refused = true → ∃ t, exec (.recall kd a) s = .next t ∧ t.me.state = .parked ∧ t.me.fault = some (flt .recallOverflow).lateOf ∧ t.msgs = s.msgs)
      ∧ (e.refused = false → (e.cap.isNull = true ∨ (s.k kd).isNull = true) → x.state = .ready → ∃ t m, exec (.recall kd a) s = .next t ∧ t.msgs = s.msgs ++ [m] ∧ m.kind = .recall ∧ m.vrt = (s.w a).toNat ∧ m.port = e.port
        ∧ Instr.recallArrival (.here m.id) ∈ t.work ∧ t.me.wait = .recall (s.w a).toNat kd ∧ t.me.k = x.k ∧ t.regs = s.regs ∧ t.mem = s.mem))
    ∧ ((x.loft.sends.find? fun e => e.vrt == (s.w a).toNat && e.during == stampOf x && e.live && !e.recalled) = none →
      Faults (.recall kd a) s (fltVal .capBounds 11 (s.w a).toNat)))
  ∧ (∀ m, InWindow s (a.toNat + 8) → x.actor = true → recvEndSteps s (s.k ka) = .ok () →
    let port := portOf (s.k ka)
    let size := 384 + 64 * (maskGroups x).length
    (s.ring port).timed = true → x.loft.used + size ≤ x.loft.length → hasPosted s s.cur.ctx = false → ringLocked s s.cur.ctx port = false → mustRoll s = false →
    (leastPending (s.ring port).slots = some m → (m.cap = false ∨ s.k kd = Cap.null) → slotStep s port m = .ok () →
      ∃ t k, exec (.trecv a ka kd) s = .next t ∧ t.me.lvt = BitVec.ofNat 64 m.vrt ∧ t.me.handling = true ∧ t.me.began = true
        ∧ t.me.loft.checkpoints = x.loft.checkpoints ++ [k] ∧ k.vrt = m.vrt ∧ k.pc = s.cur.codept ∧ k.lvt = x.lvt ∧ k.k = x.k
        ∧ (∀ y ∈ (s.ring port).slots, y.state = .pending → m.vrt ≤ y.vrt) ∧ (∀ y ∈ (t.ring port).slots, y.vrt = m.vrt → y.state = .handled)
        ∧ t.w a = BitVec.ofNat 64 m.vrt ∧ t.wn (a.toNat + 1) = headerHi m ∧ (∀ j, j < 6 → t.wn (a.toNat + 2 + j) = m.payload.extractLsb' (64 * j) 64)
        ∧ (∀ g, g < x.wsize → x.ckMask.getLsbD g = false → (a.toNat + 8 ≤ 8 * g ∨ 8 * g + 8 ≤ a.toNat) → t.groupOf s.cur.ctx g = 0)
        ∧ t.me.pc = following s ∧ t.me.state = .ready ∧ t.mem = s.mem ∧ OthersKept s t)
    ∧ (leastPending (s.ring port).slots = none →
      ∃ t, exec (.trecv a ka kd) s = .next t ∧ t.me.state = .waiting ∧ t.me.wait = .cond ∧ t.rings = s.rings ∧ t.regs = s.regs ∧ t.mem = s.mem))
  ∧ (AtIssue s → x.actor = true → (mustRoll s = false → Reaches .rollb s (following s))
    ∧ (mustRoll s = true → ∀ port, timedPort s s.cur.ctx = some port → hasPosted s s.cur.ctx = false → rollLocked s s.cur.ctx port = false →
      (x.loft.sends.any (·.refused)) = false →
      (∀ v, pendingRoll s s.cur.ctx = some v →
        let undone (w : Nat) : Bool := (s.ring port).slots.any fun h => taken s s.cur.ctx h && decide (v ≤ h.vrt) && h.vrt == w
        ∃ t r, exec .rollb s = .next t ∧ t.me.state = .waiting ∧ t.me.wait = .cond ∧ t.me.rolling = some r ∧ r ≤ v ∧ OthersKept s t
        ∧ t.me.loft.checkpoints = x.loft.checkpoints.filter (fun k => !undone k.vrt)
        ∧ t.me.loft.undos = x.loft.undos.filter (fun u => !undone u.vrt)
        ∧ t.me.loft.defers = x.loft.defers.filter (fun d => !undone d.stamp)
        ∧ ((x.loft.sends.map (·.vrt)).Nodup → ∀ e ∈ x.loft.sends, e.live = true → undone e.during = true →
          (∃ m ∈ t.msgs, m.kind = .recall ∧ m.from_ = s.cur.ctx ∧ m.vrt = e.vrt ∧ m.port = e.port) ∧ ∀ e' ∈ t.me.loft.sends, e'.vrt = e.vrt → e'.live = false)
        ∧ (((s.ring port).slots.map (·.vrt)).Nodup → ∀ h ∈ (s.ring port).slots, undone h.vrt = true →
          (h.state = .handled → { h with state := .pending, side := h.took, took := Cap.null } ∈ (t.ring port).slots)
          ∧ (h.state = .doomed → ∀ y ∈ (t.ring port).slots, y.vrt ≠ h.vrt))
        ∧ ((∀ u ∈ x.loft.undos, undone u.vrt = true → u.bytes.length = 64) →
          (∀ u ∈ x.loft.undos, undone u.vrt = true → (∀ w ∈ x.loft.undos, undone w.vrt = true → w.block = u.block → u.vrt ≤ w.vrt ∧ (w.vrt = u.vrt → w = u)) →
            (∀ i, i < 64 → t.rawByte (64 * u.block + i) = u.bytes.getD i 0) ∧ t.tag (64 * u.block) = u.tag)
          ∧ ∀ a, (∀ u ∈ x.loft.undos, undone u.vrt = true → a / 64 ≠ u.block) → t.rawByte a = s.rawByte a ∧ t.tag a = s.tag a)
        ∧ ∀ h ∈ (s.ring port).slots, undone h.vrt = true → (∀ w, undone w = true → h.vrt ≤ w) →
          ∀ k, x.loft.checkpoints.find? (·.vrt == h.vrt) = some k → t.me.lvt = k.lvt ∧ t.me.seq = k.seq ∧ t.me.m = k.m ∧ t.me.ckMask = k.mask
            ∧ t.me.ufc0 = k.ufc0 ∧ t.me.ufc1 = k.ufc1 ∧ t.me.evtVec = k.evtVec ∧ t.me.evtRet = k.evtRet ∧ t.me.evtEn = k.evtEn ∧ t.me.goal = some k
            ∧ t.k 15 = s.k 15
            ∧ (∀ q : KReg, q ≠ 15 → t.k q = if capAway t.me (vat Cap.null k.k q.toNat) = true then Cap.null else vat Cap.null k.k q.toNat)
            ∧ ((k.groups.map (·.1)).Nodup → (∀ g ∈ k.groups, ∀ i, i < 8 → t.wn (8 * g.1 + i) = g.2.extractLsb' (64 * i) 64)
              ∧ ∀ key, (∀ g ∈ k.groups, ∀ i, i < 8 → key ≠ s.regKey s.cur.ctx (8 * g.1 + i)) → mget 0 t.regs key = mget 0 s.regs key))
      ∧ (pendingRoll s s.cur.ctx = none →
        ((x.loft.sends.any fun e => !e.live) = true → ∃ t, exec .rollb s = .next t ∧ t.me.state = .waiting ∧ t.me.wait = .cond ∧ t.regs = s.regs ∧ t.mem = s.mem)
        ∧ ((x.loft.sends.any fun e => !e.live) = false → ∀ k, x.goal = some k → ∃ t, exec .rollb s = .next t ∧ t.me.state = .ready ∧ t.me.pc = k.pc
          ∧ t.me.inEvent = false ∧ t.me.rolling = none ∧ t.me.k = x.k ∧ t.regs = s.regs ∧ t.mem = s.mem))))
  ∧ (InWindow s (max (topOf [a, c]) (a.toNat + 6)) → x.actor = true → loftRoom x 80 = .ok true →
    let records (i : Instr) (P : Deferred → Prop) : Prop := ∃ t d, exec i s = .next t
      ∧ GoesOn t { x with loft := { x.loft with defers := x.loft.defers ++ [d] } } (following s) ∧ d.stamp = x.lvt.toNat ∧ t.regs = s.regs ∧ t.mem = s.mem ∧ OthersKept s t ∧ P d
    (∀ addr, capSteps s (s.k ka) .deferred = .ok () → (s.k ka).logged = false → boundsStep s s.myCore x.world (s.k ka) (s.w c).toNat 8 = .ok addr →
      (s.w c).toNat % 8 = 0 → ((s.k ka).kind = 6 → memberStep s (s.k ka) addr = .ok ()) →
      records (.deferStore a ka c len) fun d => d.kind = 0 ∧ d.cap = s.k ka ∧ d.words = [s.w a] ∧ d.off = (s.w c).toNat)
    ∧ (sendEndSteps s (s.k ka) = .ok () → ((s.heldRing (portOf (s.k ka))).timed = false ∨ (farEnd s (s.k ka)).isSome = true) →
      records (.deferSend a ka c len) fun d => d.kind = 1 ∧ d.cap = s.k ka ∧ d.len = len.toNat)
    ∧ (∀ l, s.launch? x.launch = some l → (s.w c).toNat < 4 → l.notify.getD (s.w c).toNat 0xFFFFFFFF ≠ 0xFFFFFFFF →
      records (.deferNotify a c len) fun d => d.kind = 2 ∧ d.words = [s.w a, s.wn (a.toNat + 1)]))
  ∧ (InWindow s (topOf [a]) → Gives (.gvtrd a) s a (if x.repro then x.floor else gvtOf s s.cur.ctx)
    ∧ ((s.w a).toNat < (gvtOf s s.cur.ctx).toNat → ∃ t, exec (.gvtwait a) s = .next t
      ∧ EndsAt s t { x with floor := if x.floor < s.w a + 1 then s.w a + 1 else x.floor } (following s) [])
    ∧ ((gvtOf s s.cur.ctx).toNat ≤ (s.w a).toNat → ∃ t, exec (.gvtwait a) s = .next t ∧ Retries s t))

/-- R235: in a timed actor the forms whose effects rollback cannot undo raise ILLEGAL, and the ring forms do after its first trecv. R38, R128: the timed forms raise ILLEGAL in every other
context. -/
def Obligations.ActorForms : Prop := ∀ (s : State) (a b c d : WReg) (ka kb : KReg) (tag : BitVec 16) (n : BitVec 6) (g : GReg) (q : QReg) (mb : MbReg) (ch : ChReg), AtIssue s →
  (s.me.actor = true →
    (∀ i ∈ [Instr.send ka b n, .sendk ka b kb n, .recv d ka kb, .tryrecv d ka kb, .hpush q a, .hpop d q, .hpoll d q, .mbput mb a ka kb, .cpstartCap ch ka kb c, .cpstartAddr ch c,
        .cpmcast ch ka kb c, .cpcancel ch, .garm g a, .garr g, .gwait d g, .garred g a, .gtest d g, .hjoin ka b, .hdetach ka b, .hleave ka], Faults i s (flt .illegal))
    ∧ (s.me.began = true → ∀ i ∈ [Instr.ringmk ka b, .ringsend kb ka b tag, .ringfree ka], Faults i s (flt .illegal)))
  ∧ (s.me.actor = false → ∀ i ∈ [Instr.tsend ka b c n, .tsendk kb ka b c n, .trecv d ka kb, .ckpt a, .rollb, .recall kb a, .deferStore a kb c n, .deferSend a kb c n,
      .deferNotify a c n], Faults i s (flt .illegal))

/-- R314, R315, R320, R323 to R325: a timed message is pending in its ring, or annihilates the recall parked there; a recall annihilates a pending message, dooms a handled one, or
parks; the acknowledgement ends the entry of the send log and the wait of recall; each waits while a region lock covers the ring (R171, R331). That the recall of a handled slot dooms it also where its actor has ended is the model's choice (log 30, R329). A sweep flips the colours and a count whose sum is 0 gives a GVT that never decreases. R242: the first released action of a launch, once nothing of the launch's releases is under way and the actor's earlier writes are performed, is performed at its target: a store, a message
or a completion record of kind 4. -/
def Obligations.TimedStepsAndReleases : Prop :=
  (∀ (s : State),
  (∀ id m, msgOf s id = some m → m.kind = .timed → m.copy = false → m.launch = 0 → hasPosted s m.from_ = false → msgOut s m = false → copying s m = false →
    (unstamped m = true → ∃ t m', exec (.timedMessageArrival (.here id)) s = .next t ∧ m' ∈ t.msgs ∧ m'.id = m.id ∧ m'.colour = some (s.barn (barnOf m.from_)).colour
      ∧ Instr.timedMessageArrival (.here id) ∈ t.work
      ∧ ((t.barn (barnOf m.from_)).s0 + (t.barn (barnOf m.from_)).s1 = (s.barn (barnOf m.from_)).s0 + (s.barn (barnOf m.from_)).s1 + 1) ∧ t.rings = s.rings)
    ∧ (unstamped m = false → m.far = false → destAway s m = true → ∃ t, exec (.timedMessageArrival (.here id)) s = .next t ∧ Instr.backPressureResend id ∈ t.work
      ∧ t.msgs = s.msgs ∧ t.rings = s.rings ∧ t.ctxs = s.ctxs)
    ∧ (unstamped m = false → m.far = false → destAway s m = false → ringEnded s m = false → ringRefuses s (msgWorld s m) (barnOf m.from_) (msgLaunch s m) m.ring false = none → ringAway s m.ring = false →
      let r := s.ring m.ring
      (slotLocked s m = true → exec (.timedMessageArrival (.here id)) s = .next s)
      ∧ (slotLocked s m = false → (r.slots.find? (·.vrt == m.vrt)) = none → r.slots.length < r.cells → ∃ t, exec (.timedMessageArrival (.here id)) s = .next t
        ∧ (t.ring m.ring).slots = r.slots ++ [{ slotOf m with cell := r.freeCell }] ∧ (t.ctx m.from_).state = .ready ∧ msgOf t id = none ∧ t.regs = s.regs ∧ t.mem = s.mem
        ∧ ((∃ h ∈ r.slots, h.state = .handled ∧ m.vrt < h.vrt) → (t.ctx r.owner).events.getLsbD 2 = true))
      ∧ (slotLocked s m = false → ∀ y, r.slots.find? (·.vrt == m.vrt) = some y → y.state = .parked → m.cap = Cap.null → ∃ t k, exec (.timedMessageArrival (.here id)) s = .next t
        ∧ (t.ring m.ring).slots = r.slots.erase y ∧ k ∈ t.msgs ∧ k.kind = .ack ∧ k.from_ = m.from_ ∧ k.vrt = m.vrt ∧ (t.ctx m.from_).state = .ready)))
  ∧ (∀ id m, msgOf s id = some m → m.kind = .recall → msgOut s m = false → unstamped m = false → m.far = false → destAway s m = false → ringAway s m.ring = false → slotLocked s m = false →
    let r := s.ring m.ring
    (∀ x, r.slots.find? (·.vrt == m.vrt) = some x → x.state = .pending → x.remote = none → x.side = Cap.null →
      ∃ t k, exec (.recallArrival (.here id)) s = .next t ∧ (t.ring m.ring).slots = r.slots.erase x ∧ k ∈ t.msgs ∧ k.kind = .ack ∧ k.from_ = x.sender ∧ k.vrt = m.vrt)
    ∧ (∀ x, r.slots.find? (·.vrt == m.vrt) = some x → x.state = .handled →
      ∃ t, exec (.recallArrival (.here id)) s = .next t ∧ (∀ y ∈ (t.ring m.ring).slots, y.vrt = m.vrt → y.state = .doomed) ∧ (t.ctx r.owner).events.getLsbD 3 = true)
    ∧ (r.slots.find? (·.vrt == m.vrt) = none → r.slots.length < r.cells →
      ∃ t x, exec (.recallArrival (.here id)) s = .next t ∧ (t.ring m.ring).slots = r.slots ++ [x] ∧ x.state = .parked ∧ x.vrt = m.vrt ∧ t.ctxs = s.ctxs)
    ∧ (r.slots.find? (·.vrt == m.vrt) = none → r.cells ≤ r.slots.length → ∀ c x, s.ctxs.find? (fun c => awaits c.2 m.port m.vrt) = some (c, x) → x.state = .waiting →
      ∃ t, exec (.recallArrival (.here id)) s = .next t ∧ (t.ctx c).state = .parked ∧ (t.ctx c).fault = some (flt .recallOverflow).lateOf ∧ t.rings = s.rings))
  ∧ (∀ id m c x, msgOf s id = some m → m.kind = .ack → id < s.stamp → s.ctxs.find? (fun c => awaits c.2 m.port m.vrt) = some (c, x) → s.ctx c = x → x.state ≠ .transfer →
    (∀ e, logEntry s c m.vrt = some e → copyLocked s c m.port (decide (2 ^ 47 ≤ m.port)) e.cap = false) →
    ∃ t, exec (.acknowledgement (.here id)) s = .next t ∧ (∀ e ∈ (t.ctx c).loft.sends, e.vrt ≠ m.vrt) ∧ msgOf t id = none
      ∧ ∀ kd e, x.wait = .recall m.vrt kd → logEntry s c m.vrt = some e → e.live = true →
        (t.ctx c).state = .ready ∧ t.capOf c kd = if e.cap.isNull then s.capOf c kd else e.cap)
  ∧ (∀ n l b, s.launch? n = some l → l.round = none → l.stage ≠ .saved → l.stage ≠ .closed → hitchOf s n = none → (paddockBarns l).head? = some b →
    let old := (s.barn b).colour
    ∃ t, exec (.flipSweep n) s = .next t ∧ Instr.countSweep n ∈ t.work ∧ t.ctxs = s.ctxs ∧ (∃ l', t.launch? n = some l' ∧ l'.round = some old ∧ l'.gvt = l.gvt)
      ∧ ∀ c, (paddockBarns l).count c = 1 → (t.barn c).colour = !(s.barn c).colour
        ∧ (if (t.barn c).colour then (t.barn c).m1 else (t.barn c).m0) = 0xFFFFFFFFFFFFFFFF)
  ∧ (∀ n l old, s.launch? n = some l → l.round = some old → l.stage ≠ .saved → hitchOf s n = none →
    let part := sweepPart s n l old
    (part.1 = 0 → ∃ t l', exec (.countSweep n) s = .next t ∧ t.launch? n = some l' ∧ l'.gvt.toNat = max l.gvt.toNat part.2.toNat ∧ l'.round = none)
    ∧ (part.1 ≠ 0 → ∃ t, exec (.countSweep n) s = .next t ∧ Instr.countSweep n ∈ t.work ∧ t.launches = s.launches)))
  ∧ (∀ (s : State) (n c : Nat) (l : Launch) (d : Deferred) (rest : List (Nat × Deferred)), s.launch? n = some l → l.releases = (c, d) :: rest →
  (∀ m ∈ s.msgs, m.launch = n → m.defer_ = false) → (∀ x ∈ s.txs, x.2.1 ≠ .release n) → requestParked s (.release n) = false → earlierDone s c d.order = true →
  releaseAway l d = false →
  let done (t : State) : Prop := (t.launch? n).map (·.releases) = some rest ∧ Instr.deferredRelease n ∈ t.work ∧ t.ctxs = s.ctxs ∧ t.regs = s.regs
  (d.kind = 0 → ∀ loc, releaseRoute s n (homeOf c) d.cap (d.cap.base.toNat + d.off) = .here loc →
    (isSram loc = false ∨ locBarn loc = barnOf (homeOf c) ∨ (s.barn (locBarn loc)).world = l.world) → s.blockStashed loc = false → unreadable s loc = false →
    badSeal s l.world loc = false → lockedAny s loc 8 = false → pinnedSource s [(loc, 8)] = false → InBlock loc 8 →
    ∃ t, exec (.deferredRelease n) s = .next t ∧ done t ∧ t.readLe loc 8 = (d.words.head?.getD 0).toNat ∧ BytesKept s t loc 8)
  ∧ (d.kind = 1 → d.cap.base.toNat < 2 ^ 47 → ∃ t m, exec (.deferredRelease n) s = .next t ∧ t.msgs = s.msgs ++ [m] ∧ m.kind = .untimed ∧ m.from_ = homeOf c ∧ m.port = portOf d.cap
    ∧ m.tag = d.cap.stag ∧ m.len = d.len ∧ m.payload = BitVec.ofNat 384 (packLanes 64 (d.words.map (·.toNat))) ∧ m.launch = n ∧ m.defer_ = true ∧ arrivalOf m ∈ t.work
    ∧ t.ctxs = s.ctxs ∧ t.mem = s.mem)
  ∧ (2 ≤ d.kind → (s.queue d.off).waiting = [] → ringFull s d.off = false → ∃ t r, exec (.deferredRelease n) s = .next t ∧ done t ∧ (t.queue d.off).waiting = [r] ∧ r.kind = 4 ∧ r.launch = n
    ∧ r.d0 = d.words.getD 0 0 ∧ r.d1 = d.words.getD 1 0 ∧ Instr.completionRecord d.off ∈ t.work ∧ t.mem = s.mem))

/-! Gates (R244 to R248). -/

/-- R244 to R248: arming a gate that is not busy, whether it is armed or not; arriving at it, in the current phase or, once that has its arrivals, in the next; waiting for and testing its release; an arrival counts once the accesses before it are performed, and a phase is released to every
taking-part core with the result of the sweep. -/
def Obligations.Gates : Prop := ∀ (s : State) (g : GReg) (a d : WReg),
  let i := s.myCore
  let x := gateOf s i g.toNat
  let arrivals (p : Nat) : Nat := ((x.counted ++ x.waiting).filter (·.phase == p)).length
  let count := (gateDesc x.desc).count
  (InWindow s (topOf [a, d]) → s.me.actor = false →
    (gateBusy x = true ↔ x.armed = true ∧ (x.entered = true ∨ 0 < arrivals x.phase ∨ (count = 0 ∧ (x.released.any (·.1 == x.phase)) = false)))
    ∧ (gateFits s i (s.w a) = true → gateBusy x = false → (∀ c, waitsGate s c g.toNat = false) → ∃ t, exec (.garm g a) s = .next t ∧ (gateOf t i g.toNat).armed = true ∧ (gateOf t i g.toNat).desc = s.w a
      ∧ (gateOf t i g.toNat).phase = 0 ∧ (gateOf t i g.toNat).counted = [] ∧ (gateOf t i g.toNat).released = []
      ∧ (∀ j, j ≠ g.toNat → gateOf t i j = gateOf s i j) ∧ t.me.pc = following s ∧ t.me.state = .ready ∧ t.regs = s.regs ∧ t.mem = s.mem)
    ∧ (gateFits s i (s.w a) = false → Faults (.garm g a) s (fltVal .capBounds 0 (s.w a).toNat))
    ∧ (gateFits s i (s.w a) = true → gateBusy x = true → Faults (.garm g a) s (flt .capKind))
    ∧ ((x.armed = false → Faults (.garr g) s (flt .capKind) ∧ Faults (.garred g a) s (flt .capKind))
      ∧ (∀ ph, x.armed = true → (arrivals x.phase < count ∧ ph = x.phase ∨ count ≤ arrivals x.phase ∧ arrivals (x.phase + 1) < count ∧ ph = x.phase + 1) →
        ∀ p ∈ [(Instr.garr g, none), (.garred g a, match (gateDesc x.desc).op with | 0 => none | 2 => some (((s.w a).setWidth 32).setWidth 64) | _ => some (s.w a))],
          ∃ t e, exec p.1 s = .next t ∧ (gateOf t i g.toNat).waiting = x.waiting ++ [e] ∧ e.ctx = s.cur.ctx ∧ e.phase = ph ∧ e.val = p.2
            ∧ (gateOf t i g.toNat).counted = x.counted ∧ Instr.gateArrivalCounts s.cur.ctx g ∈ t.work ∧ OthersKept s t
            ∧ GoesOn t { s.me with arrived := vset s.me.arrived g.toNat (some ph) } (following s) ∧ t.regs = s.regs ∧ t.mem = s.mem)
      ∧ (x.armed = true → count ≤ arrivals x.phase → count ≤ arrivals (x.phase + 1) →
        (∃ t, exec (.garr g) s = .next t ∧ Retries s t) ∧ ∃ t, exec (.garred g a) s = .next t ∧ Retries s t)
      ∧ (x.armed = true → (∀ q r, x.released.find? (·.1 == gatePhase s x g.toNat) = some (q, r) → Gives (.gwait d g) s d r)
        ∧ (x.released.find? (·.1 == gatePhase s x g.toNat) = none → ∃ t, exec (.gwait d g) s = .next t ∧ Retries s t)))
    ∧ (x.armed = true → Free s → Gives (.gtest d g) s d (if x.released.any (·.1 == gatePhase s x g.toNat) then 1 else 0))
    ∧ (s.me.repro = true → Faults (.gtest d g) s (flt .repro)))
  ∧ (∀ c e, (gateOf s (coreOf c) g.toNat).waiting.find? (·.ctx == c) = some e → earlierDone s c e.at_ = true →
    ∃ t, exec (.gateArrivalCounts c g) s = .next t ∧ (gateOf t (coreOf c) g.toNat).counted = (gateOf s (coreOf c) g.toNat).counted ++ [e]
      ∧ (gateOf t (coreOf c) g.toNat).waiting = (gateOf s (coreOf c) g.toNat).waiting.erase e ∧ t.ctxs = s.ctxs ∧ t.mem = s.mem)
  ∧ (∀ j l (p : SweepPacket), launchOfCore s j = some l →
    let y := gateOf s j g.toNat
    let v := gateDesc y.desc
    (y.armed = true → p ≠ sweepOf v y.phase → ∃ t, exec (.gateSweep j g p) s = .next t
      ∧ ∀ k ∈ gateCores l v, (gateOf s k g.toNat).armed = true → (gateOf t k g.toNat).armed = false ∧ (gateOf t k g.toNat).error = true
        ∧ ((gateOf s k g.toNat).released = [] → ∀ c ∈ ctxsOfCore k, waitsGate s c g.toNat = true → (t.ctx c).state = .parked ∧ (t.ctx c).fault = some gateError))
    ∧ (y.armed = true → p = sweepOf v y.phase → allEntered s j g.toNat = true → ∃ t, exec (.gateSweep j g p) s = .next t ∧ Instr.gateRelease j g ∈ t.work ∧ t.cores = s.cores)
    ∧ (allEntered s j g.toNat = true → sweeping s l v g y.phase = false → hitchGate s l (s.barn (barnOfCore j)).launch g.toNat v = none →
      ∃ t, exec (.gateRelease j g) s = .next t ∧ t.ctxs = s.ctxs ∧ t.regs = s.regs ∧ t.mem = s.mem
        ∧ ∀ k ∈ gateCores l v, (gateOf t k g.toNat).phase = (if countless s l v g.toNat then y.phase else y.phase + 1)
          ∧ (y.phase, gateResult v (sweepValue s l v g.toNat y.phase)) ∈ (gateOf t k g.toNat).released))

/-! Hand-off queues, mailboxes and copy channels (R21 to R23, R253 to R261, R376 to R379). -/

/-- R21, R253 to R255: a hand-off queue gives its entries in the order of their pushes, each once its pusher's earlier accesses are performed; a mailbox holds one request, with a flag word or without one, which the
system context takes. -/
def Obligations.QueuesAndMailboxes : Prop := ∀ (s : State) (q : QReg) (mb : MbReg) (a d : WReg) (kb kc : KReg),
  let i := s.myCore
  let es := queueOf s i q
  (InWindow s (max (topOf [d]) (a.toNat + 4)) → s.me.actor = false →
    (es.length < 8 → mustQueue s (pushWord q) = false → ∃ t e, exec (.hpush q a) s = .next t ∧ queueOf t i q = es ++ [e] ∧ e.val = s.w a ∧ e.given = false
      ∧ Instr.handoffEntryGiven i q es.length ∈ t.work ∧ GoesOn t s.me (following s) ∧ OthersKept s t ∧ t.regs = s.regs ∧ t.mem = s.mem)
    ∧ (8 ≤ es.length → ∃ t, exec (.hpush q a) s = .next t ∧ Retries s t)
    ∧ (∀ e rest, es = e :: rest →
      (e.given = true → mustQueue s (popWord q) = false → ∃ t, exec (.hpop d q) s = .next t ∧ t.w d = e.val ∧ queueOf t i q = rest ∧ RegsKept s t [d.toNat]
        ∧ GoesOn t s.me (following s) ∧ OthersKept s t ∧ t.mem = s.mem)
      ∧ (e.given = false → ∃ t, exec (.hpop d q) s = .next t ∧ Retries s t))
    ∧ (es = [] → ∃ t, exec (.hpop d q) s = .next t ∧ Retries s t)
    ∧ (Free s → Gives (.hpoll d q) s d (BitVec.ofNat 64 es.length))
    ∧ (∀ src dst, kb ≠ 15 → kc ≠ 15 →
      let doff := (s.wn (a.toNat + 1)).toNat
      let len := (s.wn (a.toNat + 2)).toNat
      let fo := (s.wn (a.toNat + 3)).toNat
      copySteps s (s.k kb) (s.k kc) (s.w a).toNat doff len = .ok (src, dst) →
      (∀ f, fo ≠ 0xFFFFFFFFFFFFFFFF → boundsStep s i s.me.world (s.k kc) fo 8 = .ok f → alignStep (s.k kc) fo 8 = .ok () → fo < doff + len → doff < fo + 8 →
        Faults (.mbput mb a kb kc) s (fltAt .align 0 f))
      ∧ ∀ flag : Option Nat, (fo = 0xFFFFFFFFFFFFFFFF ∧ flag = none ∨ fo ≠ 0xFFFFFFFFFFFFFFFF ∧ ∃ f, flag = some (meshForm i f)
        ∧ boundsStep s i s.me.world (s.k kc) fo 8 = .ok f ∧ alignStep (s.k kc) fo 8 = .ok () ∧ (fo + 8 ≤ doff ∨ doff + len ≤ fo)
        ∧ ((s.k kc).kind = 6 → memberStep s (s.k kc) f = .ok ())) →
      (boxOf s i mb = none → mustQueue s (putWord mb) = false → ∃ t m, exec (.mbput mb a kb kc) s = .next t ∧ boxOf t i mb = some m ∧ m.kb = s.k kb ∧ m.kc = s.k kc
        ∧ m.by_ = s.cur.ctx ∧ m.word = requestWord flag len (numOf s.cur.ctx) (meshForm i dst) s.me.world (meshForm i src)
        ∧ GoesOn t s.me (following s) ∧ OthersKept s t ∧ t.regs = s.regs ∧ t.mem = s.mem)
      ∧ ((boxOf s i mb).isSome = true → ∃ t, exec (.mbput mb a kb kc) s = .next t ∧ Retries s t)))
  ∧ (InWindow s (d.toNat + 4) → numOf s.cur.ctx = 63 → s.me.sys = true →
    (∀ m, boxOf s i mb = some m → ∃ t, exec (.mbget d mb) s = .next t ∧ (∀ j, j < 4 → t.wn (d.toNat + j) = m.word.extractLsb' (64 * j) 64) ∧ boxOf t i mb = none
      ∧ (t.core i).served = (s.core i).served ++ [(mb.toNat, m)] ∧ RegsKept s t ((List.range 4).map (d.toNat + ·)) ∧ GoesOn t s.me (following s) ∧ t.mem = s.mem)
    ∧ (boxOf s i mb = none → ∃ t, exec (.mbget d mb) s = .next t ∧ Retries s t))
  ∧ (AtIssue s → (numOf s.cur.ctx ≠ 63 ∨ s.me.sys = false) → Faults (.mbget d mb) s (flt .priv))
  ∧ ∀ j n e, (queueOf s j q)[n]? = some e → e.given = false → earlierDone s e.by_ e.at_ = true →
    ∃ t, exec (.handoffEntryGiven j q n) s = .next t ∧ queueOf t j q = (queueOf s j q).set n { e with given := true } ∧ t.ctxs = s.ctxs ∧ t.mem = s.mem

/-- R256 to R261: a channel takes its command when it is idle, with the capabilities pinned; cpwait ends when it is idle; cpstat and cpwm read it; cpcancel makes it idle, with its fault code kept, once the block in flight has been written, and each cpwait on it goes on or raises the fault. That cpmcast's table capability is checked as a load's is the model's choice (log 30, R258). -/
def Obligations.ChannelCommands : Prop := ∀ (s : State) (ch : ChReg) (ka kb : KReg) (c d : WReg), ka ≠ 15 → kb ≠ 15 →
  let i := s.myCore
  let n := ch.toNat
  let x := chanOf s i n
  let len := (s.wn (c.toNat + 2)).toNat
  let starts (j : Instr) (y : Channel) : Prop := ∃ t, exec j s = .next t ∧ (chanOf t i n).state = 1 ∧ (chanOf t i n).src = y.src ∧ (chanOf t i n).dst = y.dst
    ∧ (chanOf t i n).len = y.len ∧ (chanOf t i n).mark = 0 ∧ (chanOf t i n).dsts = y.dsts ∧ (chanOf t i n).pins = y.pins ∧ (chanOf t i n).world = y.world ∧ (chanOf t i n).asid = y.asid
    ∧ (chanOf t i n).mcast = y.mcast ∧ (chanOf t i n).table = y.table
    ∧ (chanOf t i n).starter = s.cur.ctx ∧ (chanViaEngine t i (chanOf t i n) = false → Instr.channelBlockWrite i ch 0 ∈ t.work)
    ∧ GoesOn t s.me (following s) ∧ OthersKept s t ∧ t.regs = s.regs ∧ t.mem = s.mem
  let waits (j : Instr) : Prop := ∃ t, exec j s = .next t ∧ Retries s t
  let away (c : Nat) : Prop := c ∉ ctxsOfCore i ∨ waitsChan s c n = false
  let asid := s.me.asid.toNat
  (InWindow s (c.toNat + 3) → s.me.actor = false → ∀ src dst, copySteps s (s.k ka) (s.k kb) (s.w c).toNat (s.wn (c.toNat + 1)).toNat len = .ok (src, dst) →
    (copyMeets s i asid s.me.world (s.k ka) src (s.k kb) dst len = true → Faults (.cpstartCap ch ka kb c) s (fltAt .capBounds 0 dst))
    ∧ (copyMeets s i asid s.me.world (s.k ka) src (s.k kb) dst len = false →
      (x.state = 0 → mustQueue s (startWord ch) = false →
        starts (.cpstartCap ch ka kb c) { Channel.reset with src := src, dst := dst, len := len, world := s.me.world, asid := asid, pins := [s.k ka, s.k kb] })
      ∧ (x.state ≠ 0 → waits (.cpstartCap ch ka kb c))))
  ∧ (InWindow s (c.toNat + 4) → s.me.actor = false → s.me.sys = true →
    let world : BitVec 8 := (s.wn (c.toNat + 3)).setWidth 8
    (s.wn (c.toNat + 3)).getLsbD 11 = false → addressSteps s world (s.w c) len = .ok () → addressSteps s world (s.wn (c.toNat + 1)) len = .ok () → lengthSteps len = .ok () →
    copyMeets s i asid world Cap.null (s.w c).toNat Cap.null (s.wn (c.toNat + 1)).toNat len = false → x.state = 0 → mustQueue s (startWord ch) = false →
    starts (.cpstartAddr ch c) { Channel.reset with src := (s.w c).toNat, dst := (s.wn (c.toNat + 1)).toNat, len := len, world := world, asid := asid })
  ∧ (AtIssue s → s.me.actor = false → s.me.sys = false → Faults (.cpstartAddr ch c) s (flt .priv))
  ∧ (InWindow s (c.toNat + 5) → s.me.actor = false → ∀ src table loc dsts,
    let q := (s.wn (c.toNat + 3)).toNat
    let off := (s.wn (c.toNat + 4)).toNat
    capSteps s (s.k ka) .copySource = .ok () → boundsStep s i s.me.world (s.k ka) (s.w c).toNat len = .ok src → (s.w c).toNat % 64 = 0 →
    ((s.k ka).kind = 6 → memberStep s (s.k ka) src = .ok ()) → lengthSteps len = .ok () → 1 ≤ q → q ≤ 64 → capSteps s (s.k kb) .copySource = .ok () →
    boundsStep s i s.me.world (s.k kb) (s.wn (c.toNat + 1)).toNat (16 * q) = .ok table → (s.wn (c.toNat + 1)).toNat % 16 = 0 → off % 64 = 0 →
    place i table = .sram loc → (lockedOut s s.cur.ctx loc (16 * q) = true → waits (.cpmcast ch ka kb c)) ∧ (lockedOut s s.cur.ctx loc (16 * q) = false →
    ((∃ j, j < q ∧ unreadable s (loc + 16 * j) = true) → Faults (.cpmcast ch ka kb c) s (fltAt .poison 0 table).lateOf)
    ∧ ((∀ j, j < q → unreadable s (loc + 16 * j) = false) → (List.range q).mapM (fun j => tableSteps s (loc + 16 * j) off len) = .ok dsts →
    dsts.find? (fun d => copyMeets s i asid s.me.world (s.k ka) src Cap.null d len) = none → x.state = 0 → mustQueue s (startWord ch) = false →
    starts (.cpmcast ch ka kb c) { Channel.reset with
      src := src, len := len, world := s.me.world, asid := asid, mcast := true, dsts := dsts, table := table, pins := [s.k ka, s.k kb] })))
  ∧ (AtIssue s → (x.state = 0 → x.fcode = 0 → Reaches (.cpwait ch) s (following s)) ∧ (x.state = 0 → x.fcode ≠ 0 → Faults (.cpwait ch) s (chanFault x))
    ∧ (x.state = 1 → waits (.cpwait ch))
    ∧ (x.state = 2 → x.charged = none → ∃ t, exec (.cpwait ch) s = .next t ∧ t.me.state = .parked ∧ t.me.pc = s.cur.codept ∧ t.regs = s.regs
      ∧ (chanOf t i n).state = 2 ∧ (chanOf t i n).charged = some s.cur.ctx)
    ∧ (x.state = 2 → x.charged = some s.cur.ctx → ∃ t, exec (.cpwait ch) s = .next t ∧ t.me.state = .waiting ∧ (chanOf t i n).state = 1 ∧ (chanOf t i n).fcode = 0
      ∧ (chanOf t i n).mark = x.mark ∧ (x.mcast = false → x.len ≤ x.mark → Instr.channelComplete i ch ∈ t.work) ∧ t.regs = s.regs ∧ t.mem = s.mem))
  ∧ (InWindow s (topOf [d]) → Free s → Gives (.cpstat d ch) s d (BitVec.ofNat 64 (x.state + 256 * x.fcode.toNat + 65536 * x.mcast.toNat))
    ∧ Gives (.cpwm d ch) s d (BitVec.ofNat 64 (if x.mcast && x.state ≠ 0 then 0 else x.mark)))
  ∧ (AtIssue s → s.me.actor = false → Free s → (x.state = 0 → Reaches (.cpcancel ch) s (following s))
    ∧ (x.state ≠ 0 → s.cur.latched = false → blockInFlight s i n = false → away s.cur.ctx → ∃ t, exec (.cpcancel ch) s = .next t ∧ (chanOf t i n).state = 0
      ∧ (chanOf t i n).fcode = x.fcode ∧ (chanOf t i n).pins = [] ∧ GoesOn t s.me (following s) ∧ (∀ c, c ≠ s.cur.ctx → away c → t.ctx c = s.ctx c)
      ∧ (∀ c, ¬away c → (t.ctx c).state = if x.fcode = 0 then .ready else .parked) ∧ t.regs = s.regs ∧ t.mem = s.mem)
    ∧ (s.cur.latched = false → x.state ≠ 0 → blockInFlight s i n = true → ∃ t, exec (.cpcancel ch) s = .next t ∧ Retries s t ∧ (chanOf t i n).cancel = true
      ∧ (chanOf t i n).state = x.state)
    ∧ (s.cur.latched = true → s.cur.ops ≠ [] → x.state ≠ 0 → (x.cancel = true → waits (.cpcancel ch)) ∧ (x.cancel = false → Reaches (.cpcancel ch) s (following s))))

/-- R257, R258, R376, R378: a block of a channel is written whole with its tag and moves the watermark; the channel completes after its flag word is incremented, and each cpwait on it goes on (R259); each destination of
a multicast acknowledges; a block-transfer engine accepts a request or refuses it. That TRIES and the refusal word count the refusal itself is the model's choice (log 30, R376). -/
def Obligations.ChannelBlocks : Prop := ∀ (s : State) (i : Nat) (ch : ChReg),
  let n := ch.toNat
  let x := chanOf s i n
  let woken (t : State) : Prop := (∀ c, (c ∉ ctxsOfCore i ∨ waitsChan s c n = false) → t.ctx c = s.ctx c)
    ∧ ∀ c ∈ ctxsOfCore i, waitsChan s c n = true → ∀ l, (s.ctx c).latch = some l → (t.ctx c).state = .ready ∧ (t.ctx c).pc = nextPoint l.codept
  (∀ blk loc loc2 sh, x.state = 1 → x.mcast = false → x.written = [] → x.mark = 64 * blk → 64 * blk + 64 ≤ x.len → x.len % 64 = 0 → x.cancel = false → chanReady s x = true →
    x.far = [] → x.data = [] → chanViaEngine s i x = false → standsBehind s i n (x.src + 64 * blk) = false → standsBehind s i n (x.dst + 64 * blk) = false →
    badSeal s x.world loc = false →
    sideOf s i x x.srcCap (x.src + 64 * blk) 64 false = .ok loc sh → sideOf s i x x.dstCap (x.dst + 64 * blk) 64 true = .ok loc2 false → loc2 % 64 = 0 →
    ∃ t, exec (.channelBlockWrite i ch blk) s = .next t ∧ (∀ j, j < 64 → t.readByte (loc2 + j) = s.readByte (loc + j)) ∧ BytesKept s t loc2 64
      ∧ t.tag loc2 = (if sh then 0 else s.tag loc) ∧ (∀ a, a / 64 ≠ loc2 / 64 → t.tag a = s.tag a) ∧ t.poisoned loc2 = false ∧ (chanOf t i n).mark = x.mark + 64
      ∧ t.ctxs = s.ctxs ∧ t.regs = s.regs ∧ (64 * blk + 64 = x.len → Instr.channelComplete i ch ∈ t.work))
  ∧ (x.state = 1 → x.len ≤ x.mark → x.mcast = false → x.far = [] →
    (x.mailbox.bind Mailbox.flag = none → ∃ t, exec (.channelComplete i ch) s = .next t ∧ (chanOf t i n).state = 0 ∧ (chanOf t i n).fcode = 0
      ∧ (chanOf t i n).mark = x.len ∧ (chanOf t i n).pins = [] ∧ t.mem = s.mem ∧ woken t)
    ∧ (∀ addr loc sh, x.mailbox.bind Mailbox.flag = some addr → standsBehind s i n addr = false → badSeal s x.world loc = false → sideOf s i x x.dstCap addr 8 true = .ok loc sh →
      unreadable s loc = false → InBlock loc 8 →
      ∃ t, exec (.channelComplete i ch) s = .next t ∧ (chanOf t i n).state = 0 ∧ t.readLe loc 8 = (s.readLe loc 8 + 1) % 2 ^ 64 ∧ BytesKept s t loc 8 ∧ woken t))
  ∧ (∀ j, x.state = 1 → x.mcast = true → x.full.contains j = true → x.acked.contains j = false →
    ∃ t, exec (.mcastAck i ch j) s = .next t ∧ t.mem = s.mem ∧ (x.acked.length + 1 = x.dsts.length → (chanOf t i n).state = 0 ∧ woken t)
      ∧ (x.acked.length + 1 ≠ x.dsts.length → t.ctxs = s.ctxs ∧ (chanOf t i n).state = 1 ∧ (chanOf t i n).acked = x.acked ++ [j]))
  ∧ ∀ e id r, (s.engine e).reqs.find? (·.id == id) = some r → r.held = false →
    let used (res : Bool) : Nat := ((s.engine e).reqs.filter fun y => y.held && y.reserved == res).length
    (used false < 56 → ∃ t, exec (.bteRequest e id) s = .next t ∧ (r.chan ≠ 8 → Instr.channelBlockWrite r.core (BitVec.ofNat 3 r.chan) (reqBlock id) ∈ t.work)
      ∧ ∀ y ∈ (t.engine e).reqs, y.id = id → y.held = true ∧ y.reserved = false)
    ∧ (56 ≤ used false → 4 ≤ r.tries → used true < 8 → ∃ t, exec (.bteRequest e id) s = .next t
      ∧ (r.chan ≠ 8 → Instr.channelBlockWrite r.core (BitVec.ofNat 3 r.chan) (reqBlock id) ∈ t.work) ∧ ∀ y ∈ (t.engine e).reqs, y.id = id → y.held = true ∧ y.reserved = true)
    ∧ (56 ≤ used false → (r.tries < 4 ∨ 8 ≤ used true) → ∃ t, exec (.bteRequest e id) s = .next t ∧ (t.engine e).refused = (s.engine e).refused + 1
      ∧ Instr.bteRetry e id ∈ t.work ∧ t.ctxs = s.ctxs
      ∧ ∃ y ∈ (t.engine e).reqs, y.id = id ∧ y.tries = min (r.tries + 1) 255 ∧ y.word = some (refusalWord e (used false + used true) (min (r.tries + 1) 255))
        ∧ y.due = s.cycle + 16 * refusalHint (refusalWord e (used false + used true) (min (r.tries + 1) 255)))
    ∧ (r.due ≤ s.cycle → ∃ t, exec (.bteRetry e id) s = .next t ∧ Instr.bteRequest e id ∈ t.work ∧ t.engines = s.engines)

/-! Hitches (R249 to R252). -/

/-- R56, R250 to R252: hjoin ends when every member is attached, and else asks for the others and waits; a member number beyond the hitch, one that has gone, and a launch of the other mode
raise their faults; hdetach asks to detach and waits; each waits behind a context that came to the unit before it for one of its members (R406); hleave begins to leave, and ends at once on a
hitch that is left. -/
def Obligations.HitchForms : Prop := ∀ (s : State) (ka : KReg) (b : WReg) (h : Hitch), InWindow s (b.toNat + 2) → s.me.actor = false → ka ≠ 15 →
  windowSteps s (s.k ka) = .ok h → hitchById s h.id = some h →
  let set := memberSet (s.wn b.toNat) (s.wn (b.toNat + 1))
  let now (t : State) (P : Hitch → Prop) : Prop := ∃ h', hitchById t h.id = some h' ∧ P h'
  let mine := set.filter fun j => decide (j < h.count) && h.memberOf j ≠ .gone && h.attachOf j ≠ .detached
  let may (j : Nat) : Prop := j < h.count ∧ h.memberOf j = .resident ∧ h.modeOf s.me.repro j = s.me.repro
  let finishes (i : Instr) : Prop := ∃ t, exec i s = .next t ∧ GoesOn t s.me (following s) ∧ OthersKept s t ∧ t.regs = s.regs ∧ t.mem = s.mem
    ∧ now t fun h' => h'.attach = h.attach ∧ h'.member = h.member ∧ h'.stage = h.stage
  let u := if s.me.state = .waiting then h else h.without s.cur.ctx
  (behindOther s u set = true → (∀ j ∈ set, may j) → ∃ t, exec (.hjoin ka b) s = .next t ∧ Retries s t)
  ∧ (behindOther s u set = true → ∃ t, exec (.hdetach ka b) s = .next t ∧ Retries s t)
  ∧ ((∀ j ∈ set, may j) → behindOther s u set = false →
    ((∀ j ∈ set, h.attachOf j = .attached) → finishes (.hjoin ka b))
    ∧ ((∃ j ∈ set, h.attachOf j = .detaching) → ∃ t, exec (.hjoin ka b) s = .next t ∧ Retries s t)
    ∧ ((∀ j ∈ set, h.attachOf j ≠ .detaching) → (∃ j ∈ set, h.attachOf j ≠ .attached) → s.me.state = .ready →
      ∃ t, exec (.hjoin ka b) s = .next t ∧ t.me.state = .waiting ∧ t.me.wait = .acks (set.filter fun j => h.attachOf j ≠ .attached)
        ∧ (now t fun h' => (∀ j ∈ set, h.attachOf j ≠ .attached → h'.attachOf j = .joining) ∧ ∀ j, j ∉ set → h'.attachOf j = h.attachOf j)
        ∧ t.regs = s.regs ∧ t.mem = s.mem ∧ OthersKept s t))
  ∧ (∀ j ∈ set, (∀ i ∈ set, i < j → may i) → set.Pairwise (· < ·) →
    (h.count ≤ j → Faults (.hjoin ka b) s (flt .hitchAbsent)) ∧ (j < h.count → h.memberOf j ≠ .resident → Faults (.hjoin ka b) s (flt .hitchGone))
    ∧ (j < h.count → h.memberOf j = .resident → h.modeOf s.me.repro j ≠ s.me.repro → Faults (.hjoin ka b) s (flt .capRights)))
  ∧ (behindOther s u set = false → (∃ j ∈ mine, h.attachOf j = .joining) → ∃ t, exec (.hdetach ka b) s = .next t ∧ Retries s t)
  ∧ (behindOther s u set = false → (∀ j ∈ mine, h.attachOf j ≠ .joining) → (mine = [] → finishes (.hdetach ka b))
    ∧ (mine ≠ [] → s.me.state = .ready → ∃ t, exec (.hdetach ka b) s = .next t ∧ t.me.state = .waiting ∧ t.me.wait = .acks mine
      ∧ (now t fun h' => ∀ j ∈ mine, h'.attachOf j = .detaching) ∧ t.regs = s.regs ∧ t.mem = s.mem ∧ OthersKept s t))
  ∧ ((s.k ka).full = true →
    (h.stage = .left → ∃ t, exec (.hleave ka) s = .next t ∧ t.k ka = Cap.null ∧ CapsEnd s t [ka])
    ∧ (h.stage = .bound → (∀ j, j < h.count → h.attachOf j ≠ .joining) → (∃ j, j < h.count ∧ h.attachOf j = .attached) → s.me.state = .ready →
      ∃ t, exec (.hleave ka) s = .next t ∧ t.me.state = .waiting ∧ t.me.wait = .acks []
        ∧ (now t fun h' => h'.stage = .leaving ∧ ∀ j, j < h.count → h.attachOf j = .attached → h'.attachOf j = .detaching) ∧ t.regs = s.regs ∧ t.mem = s.mem))
  ∧ ((s.k ka).full = false → Faults (.hleave ka) s (flt .capKind))

/-! Special registers and system forms (R33 to R37, R262 to R268). -/

/-- R33 to R37, R262: spr gives the register that its selector names, spw writes the writable ones, and an unknown selector, a register that may not be written, a write of SLEEP_CTL without
privilege and what reproducible mode refuses raise their faults. That a write of PROGRESS (0x10) changes nothing in every state is the model's choice (log 23). -/
def Obligations.SpecialRegisters : Prop := ∀ (s : State) (sr : BitVec 8) (a d : WReg), AtIssue s →
  let x := s.me
  let spr (n : Nat) (v : Word) : Prop := x.repro = false ∨ readRefused n = false → Gives (.spr d (BitVec.ofNat 8 n)) s d v
  let spw (n : Nat) (y : Ctx) : Prop := ∃ t, exec (.spw (BitVec.ofNat 8 n) a) s = .next t ∧ EndsAt s t y (following s) []
  (InWindow s (topOf [d]) →
    (spr 0x01 (placeReg s) ∧ spr 0x02 (BitVec.ofNat 64 x.wbase) ∧ spr 0x03 (BitVec.ofNat 64 (x.wbase + 8 * x.wsize)) ∧ spr 0x04 (x.prio.setWidth 64)
      ∧ spr 0x05 (x.world.setWidth 64) ∧ spr 0x06 (x.asid.setWidth 64) ∧ (∀ i, i < 8 → spr (8 + i) ((vat 0 x.lvl i).setWidth 64)) ∧ spr 0x10 x.progress
      ∧ spr 0x11 x.lvt ∧ spr 0x12 (gvtRead s) ∧ spr 0x13 (loftReg x) ∧ spr 0x14 (BitVec.ofNat 64 s.cycle) ∧ spr 0x15 x.timerCmp ∧ spr 0x16 x.evtVec
      ∧ spr 0x17 x.evtRet ∧ spr 0x18 (BitVec.ofNat 64 ((s.core s.myCore).entryDelay.toNat * 2 ^ 16 + (s.core s.myCore).maxDepth.toNat))
      ∧ spr 0x19 (x.faultRing &&& 0xFFFFFFFFFFC0#64))
    ∧ (x.wsize ≤ 16 → x.levels ≤ 8 → ∃ v, Gives (.spr d 0x00) s d v ∧ v.getLsbD 0 = x.repro ∧ v.getLsbD 1 = x.actor ∧ v.getLsbD 2 = x.sup ∧ v.getLsbD 3 = x.sys
      ∧ v.getLsbD 4 = false ∧ v.getLsbD 5 = x.evtEn ∧ v.getLsbD 6 = x.inEvent ∧ v.getLsbD 7 = false ∧ (v.extractLsb' 8 8).toNat = x.wsize ∧ (v.extractLsb' 16 48).toNat = x.levels))
  ∧ (InWindow s (topOf [a]) → let v := s.w a
    spw 0x00 { x with evtEn := v.getLsbD 5 } ∧ spw 0x10 x ∧ spw 0x16 { x with evtVec := v } ∧ spw 0x17 { x with evtRet := v }
    ∧ (Free s → (v = 0 ∨ s.cycle < v.toNat → spw 0x15 { x with timerCmp := v })
      ∧ (v ≠ 0 → v.toNat ≤ s.cycle → ∃ t, exec (.spw 0x15 a) s = .next t ∧ GoesOn t { x with timerCmp := 0, events := x.events ||| (1#6 <<< 5) } (following s)
        ∧ OthersKept s t ∧ t.regs = s.regs ∧ t.mem = s.mem))
    ∧ ((x.sup || x.sys) = true → ∃ t, exec (.spw 0x18 a) s = .next t ∧ t.core s.myCore = { s.core s.myCore with
        entryDelay := v.extractLsb' 16 16, maxDepth := if v.extractLsb' 0 2 = 3 then 2 else v.extractLsb' 0 2 }
      ∧ GoesOn t x (following s) ∧ OthersKept s t ∧ t.regs = s.regs ∧ t.mem = s.mem))
  ∧ ((sr.toNat = 7 ∨ 0x1A ≤ sr.toNat) → Faults (.spr d sr) s (flt .illegal) ∧ Faults (.spw sr a) s (flt .illegal))
  ∧ (knownReg sr.toNat = true → writableReg sr.toNat = false → Faults (.spw sr a) s (flt .priv))
  ∧ (x.sup = false → x.sys = false → Faults (.spw 0x18 a) s (flt .priv))
  ∧ (x.repro = true → Faults (.spw 0x15 a) s (flt .repro) ∧ ∀ n, readRefused n = true → Faults (.spr d (BitVec.ofNat 8 n)) s (flt .repro))

/-- R263: evret returns from a handler to EVT_RET and clears IN_EVENT; outside a handler it is illegal, and a bad return point faults. R264, R265, R273, R279: fack, ctxstop and ctxgo act
on the context of a core rank; a target that is not parked, or a rank without a context, gives 1 and changes nothing else. -/
def Obligations.SupervisorForms : Prop := ∀ (s : State) (a d : WReg), AtIssue s →
  (s.me.inEvent = false → Faults .evret s (flt .illegal))
  ∧ (s.me.inEvent = true → pointOk s.me.evtRet = true → ∃ t, exec .evret s = .next t ∧ EndsAt s t { s.me with inEvent := false } s.me.evtRet.toNat [])
  ∧ (s.me.inEvent = true → pointOk s.me.evtRet = false → Faults .evret s (flt .badTarget))
  ∧ (s.me.sup = false → s.me.sys = false → ∀ i ∈ [Instr.fackReplay d a, .fackSkip d a, .fackTerminate d a, .ctxstop d a, .ctxgo d a], Faults i s (flt .priv))
  ∧ ((s.me.sup || s.me.sys) = true → InWindow s (topOf [d, a]) → 64 ≤ (s.w a).toNat →
    ∀ i ∈ [Instr.fackReplay d a, .fackSkip d a, .fackTerminate d a, .ctxstop d a, .ctxgo d a], Faults i s (fltVal .capBounds 0 (s.w a).toNat))
  ∧ ((s.me.sup || s.me.sys) = true → InWindow s (topOf [d, a]) → (s.w a).toNat < 64 →
    ((∀ c, ctxOfRank s (s.w a).toNat = some c → (s.ctx c).state ≠ .parked) → ∀ i ∈ [Instr.fackReplay d a, .fackSkip d a, .fackTerminate d a], Gives i s d 1)
    ∧ (ctxOfRank s (s.w a).toNat = none → ∀ i ∈ [Instr.ctxstop d a, .ctxgo d a], Gives i s d 1)
    ∧ (∀ c, ctxOfRank s (s.w a).toNat = some c →
      (∀ p ∈ [(Instr.ctxstop d a, true), (.ctxgo d a, false)], ∃ t, exec p.1 s = .next t ∧ t.w d = (if (s.ctx c).stopped then 1 else 0) ∧ (t.ctx c).stopped = p.2
        ∧ (c ≠ s.cur.ctx → t.ctx c = { s.ctx c with stopped := p.2 } ∧ GoesOn t s.me (following s)) ∧ (∀ e, e ≠ c → e ≠ s.cur.ctx → t.ctx e = s.ctx e)
        ∧ t.me.pc = following s ∧ RegsKept s t [d.toNat] ∧ t.mem = s.mem ∧ t.slots = s.slots ∧ t.cores = s.cores)
      ∧ (c ≠ s.cur.ctx → (s.ctx c).state = .parked →
        (∃ t, exec (.fackReplay d a) s = .next t ∧ t.w d = 0 ∧ t.ctx c = { s.ctx c with
            state := .ready, record := none, fault := none, latch := (s.ctx c).latch.map fun l => { l with replay := true } }
          ∧ (∀ e, e ≠ c → e ≠ s.cur.ctx → t.ctx e = s.ctx e) ∧ GoesOn t s.me (following s) ∧ RegsKept s t [d.toNat] ∧ t.mem = s.mem)
        ∧ (∀ l, (s.ctx c).latch = some l → l.entry = none → ∃ t, exec (.fackSkip d a) s = .next t ∧ t.w d = 0 ∧ t.ctx c = { s.ctx c with
            state := .ready, record := none, fault := none, latch := none, progress := 0, pc := nextPoint l.codept }
          ∧ (∀ j, j < 8 → vat none (t.barn (barnOf c)).tileLock j ≠ some c) ∧ (∀ e, e ≠ c → e ≠ s.cur.ctx → t.ctx e = s.ctx e) ∧ GoesOn t s.me (following s)
          ∧ RegsKept s t [d.toNat] ∧ t.mem = s.mem)
        ∧ (∃ t, exec (.fackTerminate d a) s = .next t ∧ t.w d = 0 ∧ (t.ctx c).state = .ended ∧ (t.ctx c).latch = none ∧ (t.ctx c).record = none
          ∧ (∀ j, j < 8 → vat none (t.barn (barnOf c)).tileLock j ≠ some c) ∧ (∀ k ∈ (t.core (coreOf c)).locks, k.holder ≠ c) ∧ t.me.pc = following s
          ∧ t.me.state = .ready ∧ RegsKept s t [d.toNat] ∧ t.mem = s.mem))))

/-- R266 to R268: xinv takes the entries named out of every station's caches and waits for every station; xreplay brings a station's parked requests back; slotr reads a slot-table entry; wipe
begins its pass and waits for its end. None of them runs without SYS. That xinv takes the address in w[b] modulo 2^46 is the model's choice (log 23). -/
def Obligations.SystemForms : Prop := ∀ (s : State) (a b d : WReg) (ka : KReg), AtIssue s →
  let v := (s.w a).toNat
  let replayed (t : State) (n : Nat) : Prop := (t.station n).parked = [] ∧ (t.station n).dropped = false
    ∧ ∀ r ∈ (s.station n).parked, ∀ c, r.src = .ctx c → ∀ i, wakeOf (s.ctx c) c = some i → i ∈ t.work
  (s.me.sys = false → ∀ i ∈ [Instr.xinvEntry a b, .xinvAsid a b, .xinvAll a b, .xreplay a, .slotr d a, .wipe d ka], Faults i s (flt .priv))
  ∧ (s.me.sys = true →
    (InWindow s (topOf [a, b]) →
      ∀ p ∈ [(Instr.xinvEntry a b, fun l : Leaf => l.asid == v % 2 ^ 16 && decide (l.va ≤ (s.w b).toNat % 2 ^ 46) && decide ((s.w b).toNat % 2 ^ 46 < l.va + l.size)),
          (.xinvAsid a b, fun l => l.asid == v % 2 ^ 16), (.xinvAll a b, fun _ => true)],
        ∃ t, exec p.1 s = .next t ∧ t.me.state = .waiting ∧ t.me.wait = .acks (List.range 32)
          ∧ (∀ n, n < 32 → Instr.stationAck s.cur.ctx n ∈ t.work ∧ (t.station n).cache = (s.station n).cache.filter fun l => !p.2 l)
          ∧ (∀ y, y < 4 → mget [] t.yards y = (mget [] s.yards y).filter fun l => !p.2 l) ∧ OthersKept s t ∧ t.regs = s.regs ∧ t.mem = s.mem)
    ∧ (InWindow s (topOf [a]) →
      (v < 32 → ∃ t, exec (.xreplay a) s = .next t ∧ replayed t v ∧ (∀ n, n ≠ v → t.station n = s.station n) ∧ GoesOn t s.me (following s) ∧ OthersKept s t
        ∧ t.regs = s.regs ∧ t.mem = s.mem)
      ∧ (v = 0xFF → ∃ t, exec (.xreplay a) s = .next t ∧ (∀ n, n < 32 → replayed t n) ∧ GoesOn t s.me (following s) ∧ OthersKept s t ∧ t.regs = s.regs ∧ t.mem = s.mem)
      ∧ (32 ≤ v → v ≠ 0xFF → Faults (.xreplay a) s (fltVal .capBounds 0 v)))
    ∧ (InWindow s (topOf [d, a]) →
      (v < 65536 → Gives (.slotr d a) s d (vat 0 (s.core (4 * barnAt (v % 32) (v / 32 % 32) + v / 1024 % 4)).slots (v / 4096)))
      ∧ (65536 ≤ v → Faults (.slotr d a) s (fltVal .capBounds 0 v)))
    ∧ (InWindow s (topOf [d]) → ka ≠ 15 →
      ((s.k ka).kind = 1 → (s.k ka).full = true → (s.k ka).base.toNat < 2 ^ 47 → ∃ t, exec (.wipe d ka) s = .next t ∧ t.me.state = .waiting ∧ t.me.wait = .wipe d (s.k ka)
        ∧ Instr.wipePassEnd s.cur.ctx ∈ t.work ∧ OthersKept s t ∧ t.regs = s.regs ∧ t.mem = s.mem)
      ∧ ((s.k ka).kind = 0 → Faults (.wipe d ka) s (flt .capNull))
      ∧ ((s.k ka).kind ≠ 0 → ((s.k ka).kind ≠ 1 ∨ (s.k ka).full = false ∨ 2 ^ 47 ≤ (s.k ka).base.toNat) → Faults (.wipe d ka) s (flt .capKind))))

/-! Steps of the scheduler (R16, R18, R36, R37, R155, R242, R276, R277, R284, R288, R290, R357 to R360, R367, R368, R437, R440). -/

/-- R284, R276, R277, R37, R155: an enabled event is delivered at the lowest pending code, enters its handler and saves the return point; a fault record is posted with its fields in a ring
with room that no region lock covers (R171), and waits for a full one; a timer makes its event pending; a sleep ends. That a timer ends a sleep also where its event is pending already is the model's choice (log 28). -/
def Obligations.EventsAndRecords : Prop :=  (∀ (x : Ctx) (e : Nat), eventFor x = some e → x.stopped = false ∧ ((∃ l, x.latch = some l ∧ l.entry = some e)
    ∨ (x.evtEn = true ∧ x.inEvent = false ∧ 1 ≤ e ∧ e ≤ 5 ∧ x.events.getLsbD e = true ∧ ∀ j, 1 ≤ j → j < e → x.events.getLsbD j = false)))
  ∧ ∀ (s : State) (c : Nat),
    let x := s.ctx c
    let kept (t : State) : Prop := (∀ d, d ≠ c → t.ctx d = s.ctx d) ∧ t.regs = s.regs ∧ t.mem = s.mem ∧ t.slots = s.slots
    (∀ e, eventFor x = some e →
      let a := actAt (s.did (.eventDelivery c)) c
      let line : Nat := x.evtVec.toNat / 64 + (e - 1)
      (x.evtVec.toNat % 64 = 0 → ∀ loc l, lookLine a (a.k 15) line 0 = .ok (.held loc l) → l.bad = false → enterable l.line 0 = true →
        ∃ t, exec (.eventDelivery c) s = .next t ∧ kept t ∧ t.ctx c = { x with
          state := .ready, wait := .none, acc := none, latch := none, inEvent := true, evtRet := BitVec.ofNat 64 x.pc, events := x.events &&& ~~~(1#6 <<< e), pc := 64 * line })
      ∧ (x.evtVec.toNat % 64 ≠ 0 → ∃ t r, exec (.eventDelivery c) s = .next t ∧ kept t ∧ (t.ctx c).state = .parked ∧ (t.ctx c).pc = x.pc ∧ (t.ctx c).record = some r
        ∧ r.code = 0x06 ∧ r.entry = true ∧ r.insn = 0 ∧ r.codept = BitVec.ofNat 64 x.pc ∧ (t.ctx c).inEvent = x.inEvent ∧ Instr.faultRecordPost c ∈ t.work))
    ∧ (∀ r, x.record = some r →
      let port := faultPort s c
      let g := s.ring port
      (∀ p ∈ s.ctxs, p.1 ≠ c → coreOf p.1 = coreOf c → p.2.record.isSome = true → p.2.launch = x.launch → x.since ≤ p.2.since) → g.live = true → g.timed = false →
      (ringAway s port = false ∨ 62 ≤ numOf g.owner) → lockedAny s port g.length = false →
      (g.slots.length < g.cells → supervisorLost s c = false → ∃ t y, exec (.faultRecordPost c) s = .next t ∧ kept t ∧ t.ctx c = { x with record := none }
        ∧ (t.ring port).slots = g.slots ++ [y] ∧ y.state = .pending ∧ y.vrt = 0 ∧ y.len = 48 ∧ y.tag = 0xFFFF ∧ y.cap = false ∧ y.defer_ = false
        ∧ y.payload.extractLsb' 320 64 = r.addr ∧ y.payload.extractLsb' 256 64 = r.progress ∧ y.payload.extractLsb' 192 64 = r.codept ∧ y.payload.extractLsb' 96 96 = r.insn
        ∧ y.payload.extractLsb' 64 32 = (s.core (coreOf c)).posted ∧ y.payload.extractLsb' 48 8 = r.detail ∧ y.payload.extractLsb' 32 8 = r.code ∧ y.payload.getLsbD 24 = r.paired
        ∧ y.payload.extractLsb' 8 6 = x.rank ∧ y.payload.getLsbD 2 = r.inEvent ∧ y.payload.getLsbD 1 = r.entry ∧ y.payload.getLsbD 0 = r.late
        ∧ (t.core (coreOf c)).posted = (s.core (coreOf c)).posted + 1)
      ∧ (g.cells ≤ g.slots.length → exec (.faultRecordPost c) s = .next s))
    ∧ (x.state ≠ .absent → x.timerCmp ≠ 0 → x.timerCmp.toNat ≤ s.cycle → ∃ t, exec (.timer c) s = .next t ∧ kept t ∧ (t.ctx c).timerCmp = 0
      ∧ (t.ctx c).events = x.events ||| (1#6 <<< 5) ∧ (∀ n, x.state = .waiting → x.wait = .sleep n → (t.ctx c).state = .ready ∧ (t.ctx c).pc = nextPoint x.pc)
      ∧ (((x.state ≠ .waiting ∧ x.state ≠ .transfer) ∨ ∀ n, x.wait ≠ .sleep n) → (t.ctx c).state = x.state ∧ (t.ctx c).wait = x.wait ∧ (t.ctx c).pc = x.pc))
    ∧ (x.state = .waiting → x.wait = .sleep (some 0) → ∃ t, exec (.sleepExpiry c) s = .next t ∧ kept t
      ∧ t.ctx c = { x with state := .ready, wait := .none, pc := nextPoint x.pc })

/-- R18, R36, R367, R368, R437, R440: an idle core sleeps more deeply as its idle cycles pass, the four cores of a barn reach depth 2 together, and a core wakes; a barn woken from depth 2 is
tested, and retired where it fails, which BARNS_OK shows; a barn that replays more than 1,024 times in 2^20 cycles is reported. R16, R359, R360: a staged slot table is committed whole or refused with ERRCODE 5; a floating position's binding moves to the Ready member that has waited longest. The model's choices: when a core is idle (log 22), and that a commit that succeeds leaves ERR as it was (log 23). -/
def Obligations.CoreSteps : Prop := ∀ (s : State) (i b : Nat),
  let x := s.core i
  let mine (t : State) : Prop := (∀ j, j ≠ i → t.core j = s.core j) ∧ t.ctxs = s.ctxs ∧ t.regs = s.regs ∧ t.mem = s.mem
  (coreIdle s i = true →
    (x.depth = none → ∃ t, exec (.sleepDepthEntry i) s = .next t ∧ t.core i = { x with depth := some 0 } ∧ mine t)
    ∧ (x.depth = some 0 → 1 ≤ x.maxDepth.toNat → 16 * x.entryDelay.toNat ≤ x.idle → ∃ t, exec (.sleepDepthEntry i) s = .next t ∧ t.core i = { x with depth := some 1 } ∧ mine t))
  ∧ (x.depth = some 1 → (∀ j ∈ coresOfBarn (barnOfCore i), coreIdle s j = true ∧ 2 ≤ (s.core j).maxDepth.toNat ∧ 128 * (s.core j).entryDelay.toNat ≤ (s.core j).idle) →
    ∃ t, exec (.sleepDepthEntry i) s = .next t ∧ (∀ j ∈ coresOfBarn (barnOfCore i), t.core j = { s.core j with depth := some 2 }) ∧ t.ctxs = s.ctxs ∧ t.regs = s.regs ∧ t.mem = s.mem)
  ∧ (∀ d, x.depth = some d → coreIdle s i = false →
    (d < 2 → ∃ t, exec (.coreWake i) s = .next t ∧ t.core i = { x with depth := none, idle := 0 } ∧ mine t)
    ∧ (2 ≤ d → (s.barn (barnOfCore i)).testDue = false → ∃ t, exec (.coreWake i) s = .next t ∧ (t.barn (barnOfCore i)).testDue = true ∧ t.cores = s.cores ∧ t.ctxs = s.ctxs
      ∧ Instr.exitTest (barnOfCore i) true ∈ t.work))
  ∧ (((s.barn b).testDue = true ∨ b ∈ s.slow) →
    (∃ t, exec (.exitTest b true) s = .next t ∧ t.barn b = { s.barn b with testDue := false } ∧ b ∉ t.slow ∧ t.ctxs = s.ctxs
      ∧ ((s.barn b).testDue = true → ∀ j ∈ coresOfBarn b, t.core j = { s.core j with depth := none, idle := 0 }))
    ∧ (∃ t, exec (.exitTest b false) s = .next t ∧ t.barn b = { s.barn b with testDue := false, retired := true } ∧ t.cores = s.cores ∧ t.ctxs = s.ctxs
      ∧ ((s.barn b).retired = false → t.boot.barnsOk = s.boot.barnsOk - 1) ∧ ((s.launch? (s.barn b).launch).isSome = true → Instr.paddockPreempt (s.barn b).launch ∈ t.work)))
  ∧ (∃ t, exec (.timingReplay b) s = .next t ∧ (t.barn b).treplay = min ((s.barn b).treplay + 1) 1048575 ∧ ((s.barn b).replays = 1024 → b ∈ t.slow) ∧ t.ctxs = s.ctxs ∧ t.regs = s.regs ∧ t.mem = s.mem
    ∧ (∀ j, (∃ y, (j, y) ∈ s.cores) → j ∈ coresOfBarn b → t.core j = { s.core j with hold := (s.core j).hold + 2 }) ∧ ∀ j, j ∉ coresOfBarn b → t.core j = s.core j)
  ∧ (∀ table, x.commit = some table → x.rot % 16 = 0 → ∃ t, exec (.slotTableTakesEffect i) s = .next t ∧ t.core i = { x with slots := table, commit := none } ∧ mine t)
  ∧ (let table := x.committing.head?.getD x.staged
    (tableOk s i table = true → ∃ t, exec (.slotCommit i) s = .next t ∧ t.core i = { x with commit := some table, committing := x.committing.tail } ∧ mine t
      ∧ Instr.slotTableTakesEffect i ∈ t.work)
    ∧ (tableOk s i table = false → ∃ t, exec (.slotCommit i) s = .next t ∧ t.core i = { x with err := true, errCode := 5, committing := x.committing.tail } ∧ mine t)
    ∧ ∀ p, p < 16 → slotMode (vat 0 table p) = 3 → tableOk s i table = false)
  ∧ (let p := x.rot % 16
    let e := slotEntry s i p
    (slotMode e ≠ 2 → ∃ t, exec (.unusedTurn i) s = .next t ∧ t.cores = s.cores ∧ t.ctxs = s.ctxs ∧ t.regs = s.regs ∧ t.mem = s.mem)
    ∧ (slotMode e = 2 → ∀ y, longest s ((readyMembers s i (slotPool e)).filter fun c =>
        !((tableEntries x.slots).any fun q => q.1 ≠ p && slotMode q.2 ≠ 0 && slotCtx q.2 == numOf c)) = some y →
      ∃ t, exec (.unusedTurn i) s = .next t ∧ slotCtx (slotEntry t i p) = numOf y ∧ slotMode (slotEntry t i p) = 2 ∧ slotPool (slotEntry t i p) = slotPool e
        ∧ (∀ q, q < 16 → q ≠ p → slotEntry t i q = slotEntry s i q) ∧ mine t))

/-- R288, R290, R357, R358: CTX_SAVE of a context at rest, and CTX_LOAD of an image whose window fits, put the context in transfer; at completion the image is written, with the program counter, the capability
registers and the window in their places, and the number is free, or the loaded context has the state of its image; CTX_RELEASE frees a Halted or Ended context; each error has its code and changes no
context; a command is ignored while another runs; completion clears BUSY. R333, R336: an image with a block that is poisoned or does not verify is not read. The model's choices: what an image does not show is kept beside it, with the stopped flag, and a load takes it from there (log 17); a command that
succeeds clears ERR (log 23); an image that cannot be read gives ERRCODE 0 (log 30). -/
def Obligations.ContextCommands : Prop := ∀ (s : State) (i : Nat) (n : BitVec 6) (adr : Nat),
  let c := 64 * i + n.toNat
  let x := s.ctx c
  let y := readImage s i adr (mget Ctx.reset s.images adr)
  let loc := physLoc adr
  let runs (j : Instr) : Prop := (s.core i).busy = false ∨ j ∈ s.work
  let others (t : State) : Prop := ∀ e, e ≠ c → t.ctx e = s.ctx e
  let ends (j : Instr) (P : State → Prop) : Prop := runs j → ∃ t, exec j s = .next t ∧ (t.core i).busy = true ∧ (t.core i).err = false ∧ Instr.ctxCmdComplete i ∈ t.work ∧ others t
    ∧ t.mem = s.mem ∧ P t
  let fails (j : Instr) (code : Nat) : Prop := runs j → ∃ t, exec j s = .next t ∧ (t.core i).busy = true ∧ (t.core i).err = true ∧ (t.core i).errCode = code
    ∧ Instr.ctxCmdComplete i ∈ t.work ∧ t.ctxs = s.ctxs ∧ t.regs = s.regs ∧ t.mem = s.mem
  (x.state ≠ .absent → x.state ≠ .transfer → (x.state ≠ .waiting ∨ ∃ k, x.wait = .sleep k) → x.acc = none → (s.core i).moving = none → bound s c = false → hasPosted s c = false →
    hasTx s c = false → (∀ e ∈ (s.core i).vents, e.ctx ≠ c) → ends (.ctxSave i n adr) fun t => t.ctx c = { x with state := .transfer, stopped := true } ∧ t.regs = s.regs
      ∧ (t.core i).moving = some { ctx := c, state := x.state, stopped := x.stopped, save := some adr } ∧ ∀ k ∈ (t.core i).locks, k.holder ≠ c)
  ∧ (x.state = .absent → (imageRead s i adr).2 = true → windowFits s i y.wbase y.wsize = true →
    ends (.ctxLoad i n adr) fun t => t.ctx c = { y with state := .transfer } ∧ (t.ctx c).pc = s.readLe (loc + 72) 8 ∧ (t.ctx c).evtVec = BitVec.ofNat 64 (s.readLe (loc + 104) 8)
      ∧ (∀ j, j < 8 * y.wsize → t.regOf c j = BitVec.ofNat 64 (s.readLe (loc + 512 + 8 * j) 8))
      ∧ (t.core i).moving = some { ctx := c, state := y.state, stopped := y.stopped, save := none })
  ∧ ((x.state = .halted ∨ x.state = .ended) → ends (.ctxRelease i n) fun t => t.ctx c = Ctx.reset ∧ t.regs = s.regs)
  ∧ (x.state ≠ .absent → fails (.ctxLoad i n adr) 1 ∧ ((s.core i).moving = none → bound s c = true → fails (.ctxSave i n adr) 3))
  ∧ (x.state = .absent → fails (.ctxSave i n adr) 4 ∧ fails (.ctxRelease i n) 4 ∧ ((imageRead s i adr).2 = false → fails (.ctxLoad i n adr) 0)
    ∧ ((imageRead s i adr).2 = true → windowFits s i y.wbase y.wsize = false → fails (.ctxLoad i n adr) 2))
  ∧ (∀ j ∈ [Instr.ctxLoad i n adr, .ctxSave i n adr, .ctxRelease i n], ¬ runs j → exec j s = .next s)
  ∧ ((s.core i).busy = true →
    ((s.core i).moving = none → ∃ t, exec (.ctxCmdComplete i) s = .next t ∧ t.core i = { s.core i with busy := false } ∧ t.ctxs = s.ctxs ∧ t.regs = s.regs ∧ t.mem = s.mem)
    ∧ ∀ m, (s.core i).moving = some m → m.ctx = c → x.state = .transfer →
      (m.save = none → ∃ t, exec (.ctxCmdComplete i) s = .next t ∧ (t.core i).busy = false ∧ (t.core i).moving = none ∧ t.ctx c = { x with state := m.state } ∧ others t ∧ t.regs = s.regs ∧ t.mem = s.mem)
      ∧ (m.save = some adr → x.record = none → (∀ b, loc < 64 * b + 64 → 64 * b < loc + 512 + 64 * x.wsize → s.poisoned (64 * b) = false ∧ badSeal s x.world (64 * b) = false) → (∀ q, loc ≤ 16 * q + 15 → 16 * q < loc + 512 + 64 * x.wsize → mget Cap.null s.slots q = Cap.null) →
        ∃ t, exec (.ctxCmdComplete i) s = .next t ∧ (t.core i).busy = false ∧ (t.core i).moving = none ∧ t.ctx c = Ctx.reset ∧ others t ∧ t.regs = s.regs
          ∧ mget Ctx.reset t.images adr = { x with state := m.state, stopped := m.stopped } ∧ t.readLe (loc + 72) 8 = x.pc % 2 ^ 64
          ∧ (∀ j, j < 16 → t.readLe (loc + 256 + 16 * j) 16 = (vat Cap.null x.k j).bits.toNat) ∧ (∀ j, j < 8 * x.wsize → t.readLe (loc + 512 + 8 * j) 8 = (s.regOf c j).toNat)
          ∧ BytesKept s t loc (512 + 64 * x.wsize)))

/-! Work queues and launches (R287 to R291, R293, R349 to R351, R364 to R366, R412 to R417). -/

/-- R413 to R417: an entry that a service core takes launches, feeds or cancels, or is answered with a record of its kind and status; a doorbell sets TAIL, or is discarded and counted, as one is that names an entry beyond the ring; a completion
record is written with its phase and sequence. -/
def Obligations.WorkQueues : Prop := ∀ (s : State) (q : Nat) (e : QueueEntry),
  let x := s.queue q
  let y := yardOfQueue q
  let took (t : State) : Prop := (t.queue q).head = x.head + 1 ∧ t.mem = s.mem ∧ t.regs = s.regs
  let answered (j : Instr) (kind n : Nat) (P : Nat → Prop) : Prop := ∃ t r, exec j s = .next t ∧ took t ∧ (t.queue q).waiting = [r] ∧ r.kind = kind ∧ r.launch = n ∧ P r.status ∧ r.tag = e.tag.toNat
    ∧ r.res = 0 ∧ Instr.completionRecord q ∈ t.work ∧ t.launches = s.launches ∧ t.ctxs = s.ctxs
  (takes s q = true →
    (e.op = 1 →
      (launchEntryOk e = true → asidOf s y (bodyAsid e) x.world = true → ∀ d, readRecord s y (bodyAsid e) x.world (e.target.toNat % 2 ^ 46) = d →
        ((bodyRegion e = 0 ∨ d.dataLen = 0) → ∃ t l, exec (.launch q e) s = .next t ∧ took t ∧ t.launches = s.launches ++ [(nextLaunch s, l)] ∧ l.stage = .queued
          ∧ l.world = x.world ∧ l.asid = bodyAsid e ∧ l.desc = d ∧ l.queue = q ∧ l.tag = e.tag ∧ l.region = bodyRegion e ∧ l.results = true ∧ l.cause = 0 ∧ t.ctxs = s.ctxs)
        ∧ (bodyRegion e ≠ 0 → d.dataLen ≠ 0 → answered (.launch q e) 2 0 (· = 0x85)))
      ∧ (asidOf s y (bodyAsid e) x.world = false → answered (.launch q e) 2 0 fun _ => True))
    ∧ (e.op = 2 →
      (∀ n l, namedLaunch s q e = some (n, l) → e.resv = 0 → e.len.toNat ≤ 48 → l.feed = true →
        (l.feedPort = none → ∃ t, exec (.feed q e) s = .next t ∧ took t ∧ (t.launch? n).map (·.feeds) = some (l.feeds ++ [(e.len.toNat, e.body)]) ∧ t.msgs = s.msgs)
        ∧ (∀ p, l.feedPort = some p → l.feeds = [] → (∀ m ∈ s.msgs, m.launch = n → m.defer_ = true) → ∃ t m, exec (.feed q e) s = .next t ∧ took t ∧ t.msgs = s.msgs ++ [m]
          ∧ m.kind = .untimed ∧ m.port = p ∧ m.tag = 0xFFFE ∧ m.len = e.len.toNat ∧ m.payload = BitVec.ofNat 384 (e.body.toNat % 2 ^ (8 * e.len.toNat)) ∧ m.launch = n ∧ arrivalOf m ∈ t.work))
      ∧ (∀ n l, namedLaunch s q e = some (n, l) → (e.resv ≠ 0 ∨ 48 < e.len.toNat ∨ l.feed = false) → answered (.feed q e) 5 n fun _ => True)
      ∧ (namedLaunch s q e = none → answered (.feed q e) 5 0 fun _ => True))
    ∧ (e.op = 3 →
      (∀ n l, namedLaunch s q e = some (n, l) → e.resv = 0 → e.len = 0 → ∃ t l', exec (.cancel q e) s = .next t ∧ took t ∧ t.launch? n = some l'
        ∧ l'.cause = (if l.cause = 0 then 0x83 else l.cause) ∧ l'.results = false ∧ Instr.launchCompletion n ∈ t.work ∧ ∀ c ∈ s.launchCtxs n, (t.ctx c).stopped = true)
      ∧ (∀ n l, namedLaunch s q e = some (n, l) → (e.resv ≠ 0 ∨ e.len ≠ 0) → answered (.cancel q e) 2 n fun _ => True)
      ∧ (namedLaunch s q e = none → answered (.cancel q e) 2 0 fun _ => True))
    ∧ ((e.op = 0 ∨ 3 < e.op.toNat) → answered (.unknownOp q e) 2 0 fun _ => True))
  ∧ (∀ fn (v : BitVec 64), fn ≠ 0 →
    (x.world.toNat = fn → (s.tdi fn).state = .run → (v.setWidth 16 : BitVec 16).toNat < x.entries →
      ∃ t, exec (.doorbell fn q v) s = .next t ∧ t.queue q = { x with tail := v.setWidth 16 } ∧ t.ctxs = s.ctxs ∧ t.mem = s.mem ∧ t.tdis = s.tdis)
    ∧ ((x.world.toNat ≠ fn ∨ (s.tdi fn).state ≠ .run ∨ x.entries ≤ (v.setWidth 16 : BitVec 16).toNat) →
      ∃ t, exec (.doorbell fn q v) s = .next t ∧ (t.tdi fn).discarded = (s.tdi fn).discarded + 1 ∧ t.queues = s.queues ∧ t.ctxs = s.ctxs ∧ t.mem = s.mem))
  ∧ ∀ r rest, x.waiting = r :: rest → x.en = true → s.power = .run → (s.boot.mode = .listening ∨ s.boot.mode = .running) → x.unread < x.records →
    ∃ t, exec (.completionRecord q) s = .next t ∧ (t.queue q).waiting = rest ∧ (t.queue q).seq = x.seq + 1
      ∧ t.answers = s.answers ++ [.record q r.kind r.status ((x.seq.toNat / x.records + 1) % 2) r.res r.tag r.launch x.seq.toNat r.d0 r.d1] ∧ t.ctxs = s.ctxs ∧ t.mem = s.mem

/-- R350, R351, R293, R417: a queued launch whose record breaks R350 is refused with STATUS 0x80; a good one is placed, its slot tables are committed and its stopped flags cleared; a launch whose
contexts are over ends and is closed, with its record, and its barns are wiped. -/
def Obligations.LaunchesStartAndEnd : Prop := ∀ (s : State) (n x y : Nat) (codeVa : BitVec 48) (l : Launch), s.launch? n = some l →
  let ev : Instr := .launchPlacement n x y codeVa
  let p := planOf l.desc n x y codeVa.toNat
  let stage (t : State) : Option LaunchStage := (t.launch? n).map (·.stage)
  (l.stage = .queued → l.desc.hitched = false →
    (recordOk l.desc (hasData l) = false → ∃ t r, exec ev s = .next t ∧ stage t = some .closed ∧ (t.queue l.queue).waiting = (s.queue l.queue).waiting ++ [r]
      ∧ r.kind = 2 ∧ r.status = 0x80 ∧ r.launch = n ∧ t.ctxs = s.ctxs ∧ t.cores = s.cores ∧ t.barns = s.barns ∧ t.mem = s.mem)
    ∧ (recordOk l.desc (hasData l) = true → p.fits = true → p.free s = true → p.freeVirt s l.asid = true → placedFirst s n l = false → ∀ u, makeLaunch p (s.did ev) l.world l.asid 0 (regionCap s l) = some u →
      (u.launch? n).isSome = true → ∃ t r, exec ev s = .next t ∧ stage t = some .running ∧ (t.queue l.queue).waiting = (u.queue l.queue).waiting ++ [r] ∧ r.kind = 1 ∧ r.status = 0
        ∧ r.launch = n ∧ (∀ c ∈ u.launchCtxs n, (t.ctx c).stopped = false ∧ Instr.slotTableTakesEffect (coreOf c) ∈ t.work
          ∧ (t.core (coreOf c)).commit = some (slotTable u (coreOf c) ((u.launchCtxs n).filter fun k => coreOf k == coreOf c && !(u.ctx k).sup).length l.desc.pinned))
        ∧ t.regs = u.regs ∧ t.mem = u.mem)
    ∧ (recordOk l.desc (hasData l) = true → p.fits = true → (p.free s = false ∨ p.freeVirt s l.asid = false ∨ placedFirst s n l = true) → exec ev s = .next s))
  ∧ (l.stage = .running → l.cause = 0 → s.launchOver n = false → exec (.launchCompletion n) s = .next s)
  ∧ (l.stage = .running → l.cause = 0 → s.launchOver n = true → (∀ h ∈ s.hitches, h.launch ≠ n) → (beginEnd s n l).isSome = true →
    ∃ t, exec (.launchCompletion n) s = .next t ∧ stage t = some .ending ∧ Instr.launchCompletion n ∈ t.work ∧ t.regs = s.regs ∧ t.mem = s.mem)
  ∧ (l.stage = .ending → l.releases = [] → channelsBusy s l = false → (∀ h ∈ s.hitches, h.launch ≠ n) →
    ∃ t r, exec (.launchCompletion n) s = .next t ∧ stage t = some .closed ∧ (t.queue l.queue).waiting = (s.queue l.queue).waiting ++ [r] ∧ r.kind = 3 ∧ r.launch = n
      ∧ r.tag = l.tag.toNat ∧ r.status = (if l.cause = 0 then l.firstTerm.toNat else l.cause.toNat) ∧ r.res = (if l.results then 1 else 0)
      ∧ ∀ b ∈ paddockBarns l, b < 1024 → (t.barn b).launch = 0 ∧ (t.barn b).world = 0 ∧ (∀ c, barnOf c = b → numOf c < 62 → t.ctx c = Ctx.reset)
        ∧ ∀ off, off < Config.barnBytes → t.rawByte (barnLoc b off) = 0)

/-- R287 to R291, R364, R366: notice, the eviction once the grace interval is over and every context is at rest, the quantum of a launch that another waits for, and the re-binding of a saved launch. -/
def Obligations.PaddocksAreExchanged : Prop := ∀ (s : State) (n x y : Nat) (l : Launch), s.launch? n = some l →
  let stage (t : State) : Option LaunchStage := (t.launch? n).map (·.stage)
  (l.stage = .running → (l.desc.hitched = true ∨ onRetired s l = true ∨ mayPreempt s l = true) → ∃ t l', exec (.paddockPreempt n) s = .next t ∧ t.launch? n = some l' ∧ l'.stage = .noticed
    ∧ l'.graceEnd = s.cycle + (if l.desc.repro then 0 else 1024 * l.desc.grace) ∧ Instr.graceExpiry n ∈ t.work ∧ t.regs = s.regs
    ∧ (l.desc.repro = true ∨ (∀ q ∈ s.images, q.2.launch ≠ n) → t.mem = s.mem) ∧ (l.desc.repro = true → t.ctxs = s.ctxs)
    ∧ (l.desc.repro = false → ∀ c ∈ s.launchCtxs n, (s.ctx c).sup = false → (s.ctx c).repro = false → (t.ctx c).events.getLsbD 1 = true))
  ∧ (l.stage = .running → l.desc.hitched = false → onRetired s l = false → mayPreempt s l = false → exec (.paddockPreempt n) s = .next s)
  ∧ (l.stage = .noticed → l.cause = 0 → (s.cycle < l.graceEnd → exec (.graceExpiry n) s = .next s)
    ∧ (l.graceEnd ≤ s.cycle → l.saved = [] → settling s n l = false →
      (∀ c ∈ s.launchCtxs n, hasPosted s c = false ∧ hasTx s c = false ∧ (s.ctx c).state ≠ .waiting ∧ (s.ctx c).state ≠ .transfer ∧ (s.ctx c).acc = none
        ∧ ∀ e ∈ (s.core (coreOf c)).vents, e.ctx ≠ c) →
      (othersRest s l = false → ∃ t, exec (.graceExpiry n) s = .next t ∧ stage t = some .noticed ∧ Instr.graceExpiry n ∈ t.work ∧ t.regs = s.regs ∧ t.mem = s.mem)
      ∧ (othersRest s l = true → ∃ t, exec (.graceExpiry n) s = .next t ∧ stage t = some .saved
        ∧ ∀ b ∈ paddockBarns l, (t.barn b).launch = 0 ∧ (t.barn b).world = 0 ∧ ∀ c, barnOf c = b → numOf c < 62 → t.ctx c = Ctx.reset)))
  ∧ (∀ m, m ∈ s.launches → m.2.stage = .queued → m.2.desc.prio = l.desc.prio → m.2.bound + 2 ^ 24 ≤ s.cycle → recordOk m.2.desc (hasData m.2) = true → roomFor s m.1 m.2 = false → l.stage = .running → l.bound + 2 ^ 24 ≤ s.cycle →
    ∃ t, exec (.quantumExpiry n) s = .next t ∧ Instr.paddockPreempt n ∈ t.work ∧ t.ctxs = s.ctxs ∧ t.launches = s.launches ∧ t.mem = s.mem)
  ∧ (l.stage = .saved → l.cause = 0 → (planOf l.desc n x y 0).free s = true → windowsFree s l x y = true → placedFirst s n l = false → (∀ h ∈ s.hitches, h.launch ≠ n) →
    ∃ t l', exec (.paddockRebind n x y) s = .next t ∧ t.launch? n = some l' ∧ l'.stage = .running ∧ l'.px = x ∧ l'.py = y ∧ l'.world = l.world ∧ l'.desc = l.desc)

/-! The fabric (R388, R391, R394, R395, R398 to R409). -/

/-- R398, R394, R403: a window request that its member lets in reads or writes the slice and is answered; one that it refuses is answered with a status and changes nothing. R391, R399: a reply goes to the access or to the posted write that waits for it, and a refusal for want of room sends its message again. R371: the blocks of a byte copy from another package land in the lowest free run of the receive pool, which the first of them takes. The model's choices: the status of an accepted posted write is dropped (log 23), and which fields of a packet
tell a block of a channel from one of a byte copy, name the copy, and answer one for which no run is free (logs 6, 23). -/
def Obligations.WindowRequests : Prop :=
  (∀ (s : State) (p : Packet),
  let into (n : Nat) (l : Launch) : Prop := ∃ h, ingress s p (fun l => inSlice l p.off.toNat n && (!p.flagged || inSlice l p.foff.toNat 8)) = .ok (h, l) ∧ l.stage ≠ .saved
  let tells (t : State) (type : BitVec 8) (P : Packet → Prop) : Prop := ∃ r, t.sent = s.sent ++ [r] ∧ r.type = type ∧ r.txid = p.txid ∧ r.dmem = p.smem ∧ r.smem = p.dmem ∧ P r
  let done (j : Instr) (P : State → Prop) : Prop := ∃ t, exec j s = .next t ∧ t.ctxs = s.ctxs ∧ t.regs = s.regs ∧ t.slots = s.slots ∧ P t
  (∀ l, p.flagged = false →
    let loc := sliceLoc l p.off.toNat
    let n := p.width
    let free (k : Nat) : Prop := pinnedSource s [(loc, k)] = false
    (into (max n 1) l → p.tagged = false → 1 ≤ n → n ≤ 8 → (unreadable s loc = false →
        done (.windowRead p) fun t => t.mem = s.mem ∧ tells t 0x05 fun r => r.data = BitVec.ofNat 64 (s.readLe loc n) ∧ r.width = n)
      ∧ (unreadable s loc = true → done (.windowRead p) fun t => t.mem = s.mem ∧ tells t 0x06 fun r => r.status = 0x0D))
    ∧ (into 64 l → n = 64 → p.tagged = true → unreadable s loc = false →
        done (.windowRead p) fun t => t.mem = s.mem ∧ tells t 0x05 fun r => r.flits = [BitVec.ofNat 512 (s.readLe loc 64)] ∧ r.btag = s.tag loc)
    ∧ (into (max n 1) l → p.tagged = false → 1 ≤ n → n ≤ 8 → free n → Storable s loc → InBlock loc n →
        done (.windowWrite p) fun t => t.readLe loc n = p.data.toNat % 2 ^ (8 * n) ∧ BytesKept s t loc n ∧ tells t 0x06 fun r => r.status = 0)
    ∧ (into (max n 1) l → p.tagged = true → free (max n 1) → Storable s loc →
        done (.windowWrite p) fun t => t.tag loc = p.btag ∧ t.mem = s.mem ∧ (∀ a, a / 64 ≠ loc / 64 → t.tag a = s.tag a) ∧ tells t 0x06 fun r => r.status = 0)
    ∧ (into 64 l → free 64 → s.blockStashed loc = false → loc % 64 = 0 → (p.tagged = true ∨ s.poisoned loc = false) →
        done (.windowWrite64 p) fun t => t.readLe loc 64 = (p.flits.head?.getD 0).toNat ∧ BytesKept s t loc 64 ∧ t.tag loc = (if p.tagged then p.btag else s.tag loc)
          ∧ tells t 0x06 fun r => r.status = 0)
    ∧ (into (max n 1) l → free (max n 1) → s.blockStashed loc = true → done (.windowWrite p) fun t => t.mem = s.mem ∧ t.tags = s.tags ∧ ((p.tagged = true ∨ n ≠ 0) → tells t 0x06 fun r => r.status = 0x08))
    ∧ (let o := (atomicOf p.aop).1
      let ty := (atomicOf p.aop).2
      let k := ty.ty.width / 8
      into n l → free n → unreadable s loc = false → s.blockStashed loc = false → InBlock loc k →
        done (.windowAtomic p) fun t => t.readLe loc k = (if o.writes ty (s.readLe loc k) p.cmp.toNat then o.apply ty (s.readLe loc k) p.data.toNat % 2 ^ (8 * k) else s.readLe loc k)
          ∧ BytesKept s t loc k ∧ tells t 0x05 fun r => n ≠ 64 → r.data = BitVec.ofNat 64 (s.readLe loc k)))
  ∧ (∀ l, p.flagged = true → p.tagged = false → p.width = 0 → into 1 l → let floc := sliceLoc l p.foff.toNat
    pinnedSource s [(sliceLoc l p.off.toNat, 1), (floc, 8)] = false →
    Storable s floc → unreadable s floc = false → InBlock floc 8 →
    done (.windowWrite p) fun t => t.readLe floc 8 = (s.readLe floc 8 + 1) % 2 ^ 64 ∧ BytesKept s t floc 8 ∧ tells t 0x06 fun r => r.status = 0)
  ∧ (∀ st, (∀ n, ingress s p (fun l => inSlice l p.off.toNat n && (!p.flagged || inSlice l p.foff.toNat 8)) = .error st) →
    ∀ j ∈ [Instr.windowRead p, .windowWrite p, .windowWrite64 p, .windowAtomic p], done j fun t => t.mem = s.mem ∧ t.tags = s.tags ∧ tells t 0x06 fun r => r.status = st)
  ∧ (∀ l, p.tagged = true → p.flagged = false → into 64 l → let loc := sliceLoc l p.off.toNat
    pinnedSource s [(loc, 64)] = false → s.blockStashed loc = false → loc % 64 = 0 → done (.blockCopied p) fun t => t.readLe loc 64 = (p.flits.head?.getD 0).toNat ∧ t.tag loc = p.btag ∧ BytesKept s t loc 64
      ∧ t.poisoned loc = false ∧ tells t 0x06 fun r => r.status = 0)
  ∧ (∀ h l, p.tagged = false → ingress s p (fun l => inPaddock l p.off.toNat) = .ok (h, l) → l.stage ≠ .saved →
    let b := locBarn (2 ^ 40 + p.off.toNat)
    (landRun s b p = none → done (.blockCopied p) fun t => t.mem = s.mem ∧ t.tags = s.tags ∧ tells t 0x0B fun _ => True)
    ∧ (∀ r, landingOf s b p = some r → (landRun s b p).map (·.2) = some r.first)
    ∧ (landingOf s b p = none → (landRun s b p).map (·.2) = freeRunAt (s.barn b).pool p.width)
    ∧ (∀ u first, landRun s b p = some (u, first) → (∃ t, exec (.blockCopied p) s = .next t ∧ (landingOf t b p).map (·.first) = some first) ∧
    let loc := barnLoc b (Config.poolBase + 64 * first + p.foff.toNat)
    (p.capv = true → ∃ t, exec (.blockCopied p) s = .next t ∧ t.slot loc = Cap.ofBits p.cap p.capTag ∧ t.mem = s.mem ∧ t.ctxs = s.ctxs ∧ tells t 0x06 fun r => r.status = 0)
    ∧ (p.capv = false → loc % 64 = 0 → ∃ t, exec (.blockCopied p) s = .next t ∧ t.readLe loc 64 = (p.flits.head?.getD 0).toNat ∧ t.tag loc = p.btag ∧ BytesKept s t loc 64
      ∧ t.ctxs = s.ctxs ∧ tells t 0x06 fun r => r.status = 0))))
  ∧ (∀ (s : State) (p : Packet) (tx : Nat × Source × Nat), s.txs.find? (fun t => t.1 == p.txid.toNat && t.2.2 == p.smem.toNat) = some tx → (repliedHitch s p).isSome = true →
  (∀ c a d n sext, tx.2.1 = .ctx c → (∀ m ∈ s.msgs, m.far = false) → (∀ q ∈ s.posted, q.src = c → q.txid ≠ some p.txid.toNat) → (s.ctx c).acc = some a →
    a.op = .load d n sext →
    (p.status = 0 → p.type = 0x05 → p.flits = [] → ∃ t, exec (.replyWithData p) s = .next t ∧ (t.ctx c).state = .ready ∧ (t.ctx c).acc = none ∧ (t.ctx c).pc = nextPoint a.ins.codept
      ∧ t.regOf c d.toNat = loaded n sext p.data.toNat ∧ (∀ k, k ≠ s.regKey c d.toNat → mget 0 t.regs k = mget 0 s.regs k) ∧ (∀ e, e ≠ c → t.ctx e = s.ctx e) ∧ t.mem = s.mem
      ∧ t.txs = s.txs.erase tx)
    ∧ (p.status ≠ 0 → ∃ t r, exec (.replyStatus p) s = .next t ∧ (t.ctx c).state = .parked ∧ (t.ctx c).record = some r ∧ r.code = (codeOf p.status).code ∧ r.late = true
      ∧ r.addr = BitVec.ofNat 64 a.addr ∧ t.regs = s.regs ∧ t.mem = s.mem ∧ ∀ e, e ≠ c → t.ctx e = s.ctx e))
  ∧ (∀ c q, tx.2.1 = .ctx c → (∀ m ∈ s.msgs, m.far = false) → s.posted.find? (fun q => q.src == c && q.txid == some p.txid.toNat) = some q →
    ∃ t, exec (.replyStatus p) s = .next t ∧ t.posted = s.posted.filter (·.id ≠ q.id) ∧ t.ctxs = s.ctxs ∧ t.regs = s.regs ∧ t.mem = s.mem)
  ∧ (∀ m, repliedMsg s p = some m → m.source = tx.2.1 → ∃ t, exec (.refusal p) s = .next t ∧ t.txs = s.txs.erase tx ∧ Instr.backPressureResend m.id ∈ t.work ∧ t.msgs = s.msgs ∧ t.ctxs = s.ctxs
    ∧ t.mem = s.mem))

/-- R365, R366, R397, R402: a member prepares its group and reports to member 0; once every member has reported, commit goes to all and the launch runs; a commit binds the hitch under the
generation that it brings; an abort releases what was prepared. The model's choices: what a report holds, REPRO among it (log 29), and how generations and reports are exchanged (log 19). -/
def Obligations.HitchesForm : Prop :=  (∀ (s : State) (n x y : Nat) (codeVa : BitVec 48) (l : Launch), s.launch? n = some l → l.stage = .queued → l.desc.hitched = true →
    let ev : Instr := .hitchPrepare n x y codeVa
    let p := planOf l.desc n x y codeVa.toNat
    let h := newHitch s n l
    let refused (code : Nat) : Prop := ∃ t r, exec ev s = .next t ∧ (t.launch? n).map (·.stage) = some .closed ∧ (t.queue l.queue).waiting = (s.queue l.queue).waiting ++ [r]
      ∧ r.kind = 2 ∧ r.status = code ∧ t.ctxs = s.ctxs ∧ t.mem = s.mem
    (recordOk l.desc (hasData l) = false → refused 0x80)
    ∧ (recordOk l.desc (hasData l) = true → (∃ g ∈ s.hitches, g.id = h.id ∧ g.stage ≠ .left) → refused 0x86)
    ∧ (recordOk l.desc (hasData l) = true → hitchOk p = true → p.fits = true → (∀ g ∈ s.hitches, g.id = h.id → g.stage = .left) → p.free s = true → p.freeVirt s l.asid = true →
      placedFirst s n l = false →
      ∀ u, makeLaunch p (s.did ev) l.world l.asid h.gen (regionCap s l) = some u → (u.launch? n).isSome = true →
      (l.desc.member ≠ 0 → ∃ t q, exec ev s = .next t ∧ t.sent = u.sent ++ [q] ∧ q.type = 0x0E ∧ q.data = preparedData h ∧ q.dmem = 0 ∧ h ∈ t.hitches
        ∧ (t.launch? n).map (·.stage) = some .placed ∧ t.ctxs = u.ctxs ∧ t.mem = u.mem)
      ∧ (l.desc.member = 0 → 1 < l.desc.members → ∃ t, exec ev s = .next t ∧ t.sent = u.sent ∧ { h with reported := [0] } ∈ t.hitches
        ∧ (t.launch? n).map (·.stage) = some .placed ∧ t.ctxs = u.ctxs ∧ t.mem = u.mem)))
  ∧ ∀ (s : State) (p : Packet),
    (∀ h l, formingFor s p = some (h, l) →
      let closed (t : State) : Prop := (t.launch? h.launch).map (·.stage) = some .closed ∧ ∀ g ∈ t.hitches, g.launch ≠ h.launch
      let modes := mput h.repro h.modes p.smem.toNat (p.data.getLsbD 8)
      (h.me = 0 → p.world = h.world → p.data = preparedData h → p.smem.toNat < h.count → p.smem.toNat ∉ h.reported →
        ((∃ j, j < h.count ∧ j ≠ p.smem.toNat ∧ j ∉ h.reported ∧ h.memberOf j ≠ .gone) → ∃ t, exec (.hitchPrepared p) s = .next t ∧ { h with reported := h.reported ++ [p.smem.toNat], modes := modes } ∈ t.hitches
          ∧ t.sent = s.sent ∧ t.ctxs = s.ctxs ∧ t.launches = s.launches)
        ∧ ((∀ j, j < h.count → j = p.smem.toNat ∨ j ∈ h.reported) → h.stage = .prepared → ∃ t, exec (.hitchPrepared p) s = .next t
          ∧ { h with stage := .bound, reported := [], modes := modes } ∈ t.hitches ∧ (t.launch? h.launch).map (·.stage) = some .running
          ∧ ∀ j ∈ present h, ∃ q ∈ t.sent, q.type = 0x0E ∧ q.data = 2 ∧ q.dmem = BitVec.ofNat 7 j ∧ q.gen = h.gen))
      ∧ (h.me = 0 → (p.world ≠ h.world ∨ p.data ≠ preparedData h) → ∃ t, exec (.hitchPrepared p) s = .next t ∧ closed t ∧ ∀ j ∈ present h, ∃ q ∈ t.sent, q.type = 0x0E ∧ q.data = 3 ∧ q.dmem = BitVec.ofNat 7 j)
      ∧ (p.smem = 0 → h.stage = .prepared → ∃ t, exec (.hitchCommit p) s = .next t ∧ { h with gen := p.gen, stage := .bound, reported := [] } ∈ t.hitches
        ∧ (t.launch? h.launch).map (·.stage) = some .running)
      ∧ ∃ t, exec (.hitchAbort p) s = .next t ∧ closed t)
    ∧ (formingFor s p = none → ∀ n l, waitingMember s p = some (n, l) → s.launch? n = some l → ∃ t, exec (.hitchAbort p) s = .next t
      ∧ (t.launch? n).map (·.stage) = some .closed ∧ t.ctxs = s.ctxs ∧ t.mem = s.mem)

/-- R250 to R252, R405 to R407: a resident member takes a join and acknowledges it; a detach is acknowledged; a group's own request to detach leaves once its accesses to the member are performed; an acknowledgement completes a join, or a detach once the group's accesses are
performed; an exit notice makes its sender Holding and tells an attached group; a withdrawal makes its sender Gone and is acknowledged. -/
def Obligations.MembersJoinAndLeave : Prop := ∀ (s : State) (p : Packet) (h : Hitch), hitchFor s p = .ok h → hitchById s h.id = some h →
  let j := p.smem.toNat
  let now (t : State) (P : Hitch → Prop) : Prop := ∃ g, hitchById t h.id = some g ∧ P g
  let tells (t : State) (st : BitVec 8) : Prop := ∃ q, t.sent = s.sent ++ [q] ∧ q.type = 0x0E ∧ q.data = 6 ∧ q.dmem = p.smem ∧ q.status = st
  let same (t : State) : Prop := t.regs = s.regs ∧ t.mem = s.mem
  (h.memberOf h.me = .resident → ∃ t, exec (.hitchJoinRequest p) s = .next t ∧ now t (fun g => g = { h with holders := h.holders ++ [j] }) ∧ tells t 0 ∧ t.ctxs = s.ctxs ∧ same t)
  ∧ (h.memberOf h.me ≠ .resident → ∃ t, exec (.hitchJoinRequest p) s = .next t ∧ t.hitches = s.hitches ∧ tells t 0x12 ∧ t.ctxs = s.ctxs ∧ same t)
  ∧ (h.stage = .bound → p.drow.toNat = s.row → p.dcol.toNat = s.col → ∃ t, exec (.hitchDetachRequest p) s = .next t ∧ now t (fun g => g = { h with holders := h.holders.filter (· ≠ j) }) ∧ tells t 0 ∧ t.ctxs = s.ctxs ∧ same t)
  ∧ (h.attachOf j = .joining → p.status ≠ 0 → ∃ t, exec (.hitchAcknowledge p) s = .next t ∧ now t (fun g => g.attachOf j = .detached ∧ ∀ i, i ≠ j → g.attachOf i = h.attachOf i)
    ∧ same t ∧ ∀ x ∈ s.ctxs, x.2.launch = h.launch → x.2.state = .waiting → x.2.wait = .acks [j] → h.leaver ≠ some x.1 → (t.ctx x.1).state = .parked)
  ∧ (h.attachOf j = .joining → p.status = 0 → h.stage = .leaving → ∃ t, exec (.hitchAcknowledge p) s = .next t ∧ now t (fun g => g.attachOf j = .detaching) ∧ same t)
  ∧ (h.attachOf j = .joining → p.status = 0 → h.stage ≠ .leaving → ∃ t, exec (.hitchAcknowledge p) s = .next t ∧ now t (fun g => g.attachOf j = .attached ∧ ∀ i, i ≠ j → g.attachOf i = h.attachOf i)
    ∧ same t ∧ ∀ x ∈ s.ctxs, x.2.launch = h.launch → x.2.state = .waiting → x.2.wait = .acks [j] → h.leaver ≠ some x.1 → (t.ctx x.1).state = .ready)
  ∧ (h.attachOf j = .detaching → h.stage = .bound → groupBusy s h j = false →
    ∃ t, exec (.hitchAcknowledge p) s = .next t ∧ now t (fun g => g.attachOf j = .detached ∧ ∀ i, i ≠ j → g.attachOf i = h.attachOf i) ∧ same t)
  ∧ (h.attachOf j = .detaching → groupBusy s h j = true →
    ∃ t, exec (.hitchAcknowledge p) s = .next t ∧ Instr.hitchAcknowledge p ∈ t.work ∧ t.hitches = s.hitches ∧ t.ctxs = s.ctxs ∧ same t)
  ∧ (h.memberOf j = .gone → ∃ t, exec (.exitNotice p) s = .next t ∧ t.hitches = s.hitches ∧ t.ctxs = s.ctxs ∧ same t)
  ∧ (h.memberOf j ≠ .gone → ∃ t, exec (.exitNotice p) s = .next t ∧ now t (fun g => g.memberOf j = .holding ∧ ∀ i, i ≠ j → g.memberOf i = h.memberOf i) ∧ t.regs = s.regs
    ∧ ((∀ q ∈ s.images, q.2.launch ≠ h.launch) → t.mem = s.mem) ∧ (h.attachOf j = .attached → ∀ c ∈ groupCtxs s h, (s.ctx c).repro = false → (t.ctx c).events.getLsbD 4 = true))
  ∧ (h.stage = .bound → ∃ t, exec (.withdraw p) s = .next t ∧ now t (fun g => g.memberOf j = .gone ∧ j ∉ g.holders) ∧ tells t 0 ∧ t.mem = s.mem ∧ (j ≠ 0 → t.regs = s.regs)
    ∧ (j ≠ 0 → ∀ i ∈ hitchGateCores s h, allEntered s i 3 = true → Instr.gateRelease i 3 ∈ t.work))
  ∧ ∀ q g, (q.drow.toNat ≠ s.row ∨ q.dcol.toNat ≠ s.col) → sendingHitch s q = some g →
    (groupBusy s g q.dmem.toNat = true → exec (.hitchDetachRequest q) s = .next s)
    ∧ (groupBusy s g q.dmem.toNat = false → ∃ t x, exec (.hitchDetachRequest q) s = .next t ∧ t.sent = s.sent ++ [x] ∧ x.type = 0x0E ∧ x.data = 5 ∧ x.dmem = q.dmem ∧ t.ctxs = s.ctxs ∧ same t)

/-- R388, R389, R391, R395: LINK_REPLAY, PORT_RETRAIN, PORT_DOWN and UNKNOWN_PACKET_TYPE complete. Replays are counted, and a port that replays 16 times in a row retrains; a port that
does not retrain goes down, and the launch of a hitch with a member that no route reaches is terminated; a packet of an unknown type is dropped. -/
def Obligations.PortsFail : Prop := ∀ (s : State) (n : Nat) (p : Packet),
  (∃ t, exec (.linkReplay n) s = .next t ∧ t.ctxs = s.ctxs ∧ t.regs = s.regs ∧ t.mem = s.mem ∧ t.hitches = s.hitches
    ∧ ((s.port n).state = 2 → (s.port n).streak < 15 → t.port n = { s.port n with replays := (s.port n).replays + 1, streak := (s.port n).streak + 1 })
    ∧ ((s.port n).state = 2 → 15 ≤ (s.port n).streak → (t.port n).replays = (s.port n).replays + 1 ∧ (t.port n).state = 3))
  ∧ (∀ ok, ∃ t, exec (.portRetrain n ok) s = .next t ∧ t.ctxs = s.ctxs ∧ t.regs = s.regs ∧ t.mem = s.mem ∧ t.hitches = s.hitches
    ∧ ((s.port n).state = 3 → ok = true → (t.port n).state = 2 ∧ (t.port n).streak = 0)
    ∧ ((s.port n).state = 3 → ok = false → Instr.portDown n ∈ t.work ∧ t.ports = s.ports))
  ∧ (∃ t, exec (.portDown n) s = .next t ∧ (t.port n).state = 0 ∧ (∀ m, m ≠ n → t.port m = s.port m) ∧ t.regs = s.regs ∧ t.mem = s.mem
    ∧ ∀ h j l, s.hitches = [h] → h.stage ≠ .left → j ∈ present h → s.launch? h.launch = some l →
      reachable (s.setPort n { s.port n with state := 0, streak := 0 }) (mget (0, 0) h.place j).1 (mget (0, 0) h.place j).2 = false →
      (∃ l', t.launch? h.launch = some l' ∧ l'.cause = (if l.cause = 0 then 0x84 else l.cause) ∧ l'.results = false)
        ∧ Instr.launchCompletion h.launch ∈ t.work ∧ ∀ c ∈ s.launchCtxs h.launch, (t.ctx c).stopped = true)
  ∧ ((p.type = 0 ∨ 0x0F < p.type.toNat) → ∃ t, exec (.unknownPacketType p) s = .next t ∧ (t.port (arrivalPort s p)).replays = (s.port (arrivalPort s p)).replays + 1
    ∧ (∀ k, k ≠ arrivalPort s p → t.port k = s.port k) ∧ t.sent = s.sent ∧ t.ctxs = s.ctxs
    ∧ t.regs = s.regs ∧ t.mem = s.mem ∧ t.hitches = s.hitches)

/-! The host, the security controller and power (R411, R418 to R438). -/

/-- R411, R418 to R421: a host opens, publishes and closes versions of a region whose TDI is in RUN, reads the version that its window shows and writes its private one; what a function may not do
is discarded and counted; the loss of a host discards its private version, and a link that goes down closes every window and loses every session to which a TDI is bound; a withdrawn extent reads as poison, and one of whole blocks is scrubbed, with a receipt. The model's choices: how a loss is given (log 21), and a private version's number (log 15). -/
def Obligations.HostRegions : Prop := ∀ (s : State) (key : Nat),
  let r := s.region key
  let w := r.world.toNat
  let loc (v off : Nat) : Nat := versionLoc key v off
  (hostMay s key = true →
    (r.host = none →
      (∃ t, exec (.openLatest key) s = .next t ∧ (t.region key).host = some r.latest ∧ (t.region key).vernum = BitVec.ofNat 32 r.latest ∧ (t.region key).status = 0
        ∧ (t.region key).versions = (r.versions.map fun v => if v.num == r.latest then { v with handles := v.handles + 1 } else v) ∧ t.ctxs = s.ctxs)
      ∧ (r.mayOpen = true → ∃ t, exec (.openPrivate key) s = .next t ∧ (t.region key).host = some (r.latest + 1) ∧ (t.region key).priv = some (r.latest + 1)
        ∧ (t.region key).privHost = true ∧ (t.region key).latest = r.latest ∧ (t.region key).vernum = BitVec.ofNat 32 (r.latest + 1) ∧ (t.region key).status = 0 ∧ t.ctxs = s.ctxs)
      ∧ ∃ t, exec (.close key) s = .next t ∧ t.region key = { r with status := 0 } ∧ t.mem = s.mem ∧ t.ctxs = s.ctxs)
    ∧ (r.mayOpen = false → ∃ t, exec (.openPrivate key) s = .next t ∧ t.region key = { r with status := 2 } ∧ t.mem = s.mem ∧ t.ctxs = s.ctxs)
    ∧ (∀ v, r.host = some v →
      (r.privHost = true → r.priv = some v → ∃ t, exec (.publish key) s = .next t ∧ (t.region key).latest = v ∧ (t.region key).priv = none ∧ (t.region key).host = none
        ∧ (t.region key).status = 0 ∧ (∃ y ∈ (t.region key).versions, y.num = v) ∧ t.ctxs = s.ctxs)
      ∧ (∃ t, exec (.close key) s = .next t ∧ (t.region key).host = none ∧ (t.region key).latest = r.latest ∧ (t.region key).status = 0 ∧ (r.privHost = true → (t.region key).priv = none)
        ∧ t.ctxs = s.ctxs)
      ∧ (∀ off, off < r.length → off % 64 = 0 →
        (unreadable s (loc v off) = false → ∃ t, exec (.cxlMemAccess key off false 0) s = .next t
          ∧ t.answers = s.answers ++ [.line key off (some (BitVec.ofNat 512 (s.readLe (loc v off) 64)))] ∧ t.mem = s.mem ∧ t.ctxs = s.ctxs)
        ∧ (unreadable s (loc v off) = true → ∃ t, exec (.cxlMemAccess key off false 0) s = .next t ∧ t.answers = s.answers ++ [.line key off none] ∧ t.mem = s.mem)
        ∧ ∀ x : BitVec 512, (r.privHost = true → withdrawn s (loc v off) = false → s.blockStashed (loc v off) = false →
            ∃ t, exec (.cxlMemAccess key off true x) s = .next t ∧ t.readLe (loc v off) 64 = x.toNat ∧ BytesKept s t (loc v off) 64 ∧ t.ctxs = s.ctxs ∧ t.answers = s.answers)
          ∧ (r.privHost = false → ∃ t, exec (.cxlMemAccess key off true x) s = .next t ∧ t.mem = s.mem ∧ t.ctxs = s.ctxs ∧ t.answers = s.answers))))
  ∧ (hostMay s key = false → ∀ off b x, ∀ j ∈ [Instr.openLatest key, .openPrivate key, .publish key, .close key, .cxlMemAccess key off b x],
    ∃ t, exec j s = .next t ∧ (t.tdi w).discarded = (s.tdi w).discarded + 1 ∧ t.regions = s.regions ∧ t.mem = s.mem ∧ t.ctxs = s.ctxs)
  ∧ (∀ loss ∈ [HostLoss.linkDown key, .functionReset key], ∃ t, exec (.hostLoss loss) s = .next t ∧ t.regs = s.regs ∧ (∀ v, r.host = some v → r.privHost = true → (t.region key).host = none ∧ (t.region key).priv = none
      ∧ (t.region key).latest = r.latest)
    ∧ (loss = .functionReset key → t.sessions = s.sessions ∧ t.tdis = s.tdis)
    ∧ (loss = .linkDown key → (∀ k, (t.region k).host = none)
      ∧ ∀ w id, 1 ≤ w → w ≤ 255 → (s.tdi w).session = some id → (t.tdi w).session = none ∧ (∀ x ∈ t.sessions, x.id ≠ id) ∧ ((s.tdi w).state = .run → (t.tdi w).state = .error)))
  ∧ ∀ first len,
    (∃ t, exec (.extentWithdraw first len) s = .next t ∧ (∀ a, first ≤ a → a < first + len → unreadable t a = true) ∧ t.mem = s.mem ∧ t.ctxs = s.ctxs)
    ∧ ((first, len, false) ∈ s.extents → s.posted = [] → (∀ q ∈ s.ctxs, (q.2.acc.bind (·.at_)) = none) → first % 64 = 0 → len % 64 = 0 → ∃ t y, exec (.withdrawComplete first len) s = .next t ∧ (first, len, true) ∈ t.extents ∧ t.receipts = s.receipts ++ [y]
      ∧ y.start = physOf first ∧ y.len = len ∧ (∀ a, first ≤ a → a < first + len → t.rawByte a = 0) ∧ t.regs = s.regs)

/-- R423, R424, R427, R428: the security controller answers each request of SPDM; a function beyond its share of sessions is Busy; a suspended session needs KEY_UPDATE; a lost session ends, as one does with a message that fails its check; a session sets the IDE key of its function; a receipt is
given to its world, and a new image is taken in minimal mode. The numbers of the answer codes and the suspension of a session that begins in package sleep are the model's (log 21), and the bodies of answers are free (log 12). -/
def Obligations.SessionsAndMeasurements : Prop := ∀ (s : State) (fn : Nat), spdmUp s = true →
  let quiet (t : State) : Prop := t.ctxs = s.ctxs ∧ t.regs = s.regs ∧ t.mem = s.mem
  let answers (j : Instr) (a : Answer) : Prop := ∃ t, exec j s = .next t ∧ t.answers = s.answers ++ [a] ∧ quiet t
  let replies (j : Instr) (fn code : Nat) (P : State → Prop) : Prop := ∃ t body, exec j s = .next t ∧ t.answers = s.answers ++ [.spdm fn code body] ∧ t.regs = s.regs ∧ P t
  answers (.getVersion fn) (.version fn 1 3) ∧ answers (.negotiateAlgorithms fn) (.algorithms fn "ML-DSA-65" "SHAKE256, 64 bytes" "ML-KEM-768" "AES-256-GCM")
  ∧ (∀ p ∈ [(Instr.getCapabilities fn, 0xE1), (.getDigests fn, 0x81), (.getCertificate fn, 0x82), (.challenge fn, 0x83)],
    replies p.1 fn p.2 fun t => t.sessions = s.sessions ∧ quiet t)
  ∧ (∀ i, (1 ≤ i → i ≤ 7 → answers (.getMeasurements fn i) (.spdm fn 0xE0 (measurementOf s i).toNat)) ∧ ((i = 0 ∨ 7 < i) → answers (.getMeasurements fn i) (.error fn "InvalidRequest")))
  ∧ ((s.sessions.filter (·.fn == fn)).length < (if fn = 0 then 8 else 1) →
    replies (.keyExchange fn) fn 0xE4 fun t => ∃ x : Session, t.sessions = s.sessions ++ [x] ∧ x.fn = fn ∧ x.open_ = false ∧ x.suspended = (s.power == .sleep) ∧ quiet t)
  ∧ ((if fn = 0 then 8 else 1) ≤ (s.sessions.filter (·.fn == fn)).length → answers (.keyExchange fn) (.error fn "Busy"))
  ∧ (∀ code, answers (.unsupportedRequest fn code) (.error fn "UnsupportedRequest"))
  ∧ ∀ x : Session, sessionById s x.id = some x →
    let gone (t : State) : Prop := t.sessions = s.sessions.filter (·.id ≠ x.id) ∧ ∀ w, 1 ≤ w → w ≤ 255 → (s.tdi w).session = some x.id →
      (t.tdi w).session = none ∧ ((s.tdi w).state = .locked ∨ (s.tdi w).state = .run → (t.tdi w).state = .error)
    (x.suspended = false →
      (replies (.finish x.id) x.fn 0xE5 fun t => sessionById t x.id = some { x with open_ := true } ∧ quiet t) ∧ replies (.endSession x.id) x.fn 0xEC gone
      ∧ (∃ t, exec (.heartbeatTimeout x.id) s = .next t ∧ gone t) ∧ (∃ t, exec (.vendorDefinedRequest x.id .corrupt) s = .next t ∧ gone t)
      ∧ (x.open_ = true → (replies (.heartbeat x.id) x.fn 0xE8 quiet)
        ∧ (∀ key, replies (.vendorDefinedRequest x.id (.ideKey key)) x.fn 0xFE fun t => mget 0 t.ideKeys x.fn = key ∧ quiet t)
        ∧ (∀ nonce y, s.receipts.find? (·.world.toNat == x.fn) = some y → ∃ t sig, exec (.vendorDefinedRequest x.id (.receipt nonce)) s = .next t
          ∧ t.answers = s.answers ++ [.receipt y nonce sig] ∧ t.receipts = s.receipts.erase y ∧ quiet t)
        ∧ (∀ m, s.boot.mode = .minimal → x.fn = 0 → replies (.vendorDefinedRequest x.id (.image true m)) x.fn 0xFE fun t => t.boot.fails = 0 ∧ t.boot.minBarns = m ∧ quiet t)
        ∧ (∀ v m, s.boot.mode ≠ .minimal → answers (.vendorDefinedRequest x.id (.image v m)) (.error x.fn "UnsupportedRequest"))))
    ∧ (x.suspended = true → (∀ j ∈ [Instr.finish x.id, .endSession x.id, .heartbeat x.id], answers j (.error x.fn "RequestResynch"))
      ∧ ∃ t, exec (.heartbeatTimeout x.id) s = .next t ∧ t.sessions = s.sessions ∧ t.tdis = s.tdis)
    ∧ (s.power = .run → (x.open_ = true ∨ x.suspended = true) → replies (.keyUpdate x.id) x.fn 0xE9 fun t => sessionById t x.id = some { x with suspended := false } ∧ t.tdis = s.tdis ∧ quiet t)

/-- R425, R426, R432: LOCK_INTERFACE_REQUEST, GET_DEVICE_INTERFACE_REPORT, START_INTERFACE_REQUEST, STOP_INTERFACE_REQUEST, STOP_COMPLETION, IDE_INTEGRITY_FAILURE, SECURITY_ALARM and
TEST_MODE_ENTRY complete. A TDI is locked by a session, runs, and is stopped, and none is before the first queue is enabled; a stop ends its launches, scrubs its pages and advances its epoch; an integrity
failure or an alarm puts TDIs into ERROR; test mode wipes the keys, the register files and all SRAM. That test mode drops every context, ring and message with them is the model's choice (log 21). -/
def Obligations.InterfacesLockAndStop : Prop := ∀ (s : State) (w : Nat),
  (∀ y : Session, spdmUp s = true → sessionById s y.id = some y → y.suspended = false → y.open_ = true →
    let wrong (j : Instr) : Prop := ∃ t, exec j s = .next t ∧ t.answers = s.answers ++ [.error y.fn "InvalidInterfaceState"] ∧ t.tdis = s.tdis ∧ t.launches = s.launches
    (s.boot.mode = .running →
      (1 ≤ w → w ≤ 255 → (s.tdi w).state = .unlocked → ∃ t body, exec (.lockInterfaceRequest y.id w) s = .next t ∧ t.answers = s.answers ++ [.spdm y.fn 0x183 body]
        ∧ t.tdi w = { s.tdi w with state := .locked, session := some y.id } ∧ t.regs = s.regs ∧ t.mem = s.mem)
      ∧ ((s.tdi w).state = .locked ∨ (s.tdi w).state = .run → ∃ t body, exec (.getDeviceInterfaceReport y.id w) s = .next t ∧ t.answers = s.answers ++ [.spdm y.fn 0x184 body]
        ∧ t.tdis = s.tdis ∧ t.regs = s.regs ∧ t.mem = s.mem)
      ∧ ((s.tdi w).state = .locked → ∃ t body, exec (.startInterfaceRequest y.id w) s = .next t ∧ t.answers = s.answers ++ [.spdm y.fn 0x186 body]
        ∧ t.tdi w = { s.tdi w with state := .run } ∧ t.regs = s.regs ∧ t.mem = s.mem)
      ∧ ((s.tdi w).state ≠ .unlocked → (s.tdi w).stopping = false → (s.tdi w).session = some y.id → ∃ t body, exec (.stopInterfaceRequest y.id w) s = .next t
        ∧ t.answers = s.answers ++ [.spdm y.fn 0x187 body] ∧ (t.tdi w).stopping = true ∧ Instr.stopCompletion w ∈ t.work ∧ t.regs = s.regs ∧ t.mem = s.mem
        ∧ ∀ n l, s.launch? n = some l → (n, l) ∈ s.launches → l.world.toNat = w → l.stage ≠ .closed → ∃ l', t.launch? n = some l' ∧ l'.cause ≠ 0 ∧ Instr.launchCompletion n ∈ t.work))
    ∧ ((s.tdi w).state ≠ .unlocked → wrong (.lockInterfaceRequest y.id w))
    ∧ ((s.tdi w).state ≠ .locked → wrong (.startInterfaceRequest y.id w))
    ∧ ((s.tdi w).session ≠ some y.id → (s.tdi w).session.isSome = true → wrong (.stopInterfaceRequest y.id w))
    ∧ (s.boot.mode ≠ .running → wrong (.lockInterfaceRequest y.id w) ∧ wrong (.getDeviceInterfaceReport y.id w) ∧ wrong (.startInterfaceRequest y.id w) ∧ wrong (.stopInterfaceRequest y.id w)))
  ∧ ((s.tdi w).stopping = true → (∀ p ∈ s.launches, p.2.world.toNat = w → p.2.stage = .closed) → ∃ t, exec (.stopCompletion w) s = .next t ∧ (t.tdi w).state = .unlocked ∧ (t.tdi w).session = none
    ∧ (t.tdi w).stopping = false ∧ mget 0 t.epochs w = mget 0 s.epochs w + 1 ∧ (∀ p ∈ t.regions, p.2.world.toNat ≠ w) ∧ t.regs = s.regs ∧ t.ctxs = s.ctxs)
  ∧ (∃ t, exec (.ideIntegrityFailure w) s = .next t ∧ t.regs = s.regs ∧ ((s.tdi w).state = .locked ∨ (s.tdi w).state = .run → (t.tdi w).state = .error) ∧ ∀ v, v ≠ w → t.tdi v = s.tdi v)
  ∧ (∀ k, ∃ t, exec (.securityAlarm k) s = .next t ∧ k ∈ t.alarms ∧ (∀ v, 1 ≤ v → v ≤ 255 → (t.tdi v).state = .error) ∧ (k = .supply → t.keys = false) ∧ (k ≠ .supply → t.keys = s.keys)
    ∧ t.regs = s.regs)
  ∧ ∃ t, exec .testModeEntry s = .next t ∧ t.keys = false ∧ t.debugged = true ∧ t.testing = true ∧ t.regs = [] ∧ t.ctxs = [] ∧ t.cores = [] ∧ t.tiles = [] ∧ t.rings = [] ∧ t.msgs = []
    ∧ (∀ a, a < 2 ^ 64 → t.rawByte a = 0) ∧ ∀ a, 2 ^ 64 ≤ a → t.rawByte a = s.rawByte a

/-- R429 to R436, R438: a start that passes its stages ends in the listening state, with the failed barns retired and the root table zero; one that fails a stage is counted, and after three, or without
its counter, minimal mode is entered; the first queue that is enabled ends listening; the watchdog or an alarm ends a start that hangs; sleep suspends sessions; the loss of power loses what is not kept, with a record for every resident launch. That all SRAM then reads as zero is the model's choice (log 5), and that every byte of HBM is poisoned is its reading (log 23). -/
def Obligations.StartAndPower : Prop := ∀ (s : State) (o : StartOutcome),
  let good := Config.barns - ((o.retired.filter (· < Config.barns)).eraseDups).length
  (mayStart s = true →
    (o.counterOk = true → s.boot.fails < 3 →
      (o.failAt = none → s.boot.minBarns ≤ good → ∃ t, exec (.powerGood o) s = .next t ∧ t.power = .run ∧ t.boot.mode = .listening ∧ t.boot.stage = 8 ∧ t.boot.fails = 0 ∧ t.keys = true
        ∧ t.boot.barnsOk = good ∧ t.sessions = [] ∧ (∀ b, b < Config.barns → (t.barn b).retired = o.retired.contains b) ∧ (∀ q, (t.queue q).en = false)
        ∧ ∀ a, a < 2 ^ 19 → t.rawByte (physLoc a) = 0)
      ∧ (o.failAt = none → good < s.boot.minBarns → ∃ t, exec (.powerGood o) s = .next t ∧ t.boot.mode = .starting ∧ t.boot.stage = 5 ∧ t.boot.reason = 5 ∧ t.boot.fails = s.boot.fails + 1)
      ∧ (∀ e, 2 ≤ endStage e → endStage e ≤ 4 → o.failAt = some e → ∃ t, exec (.powerGood o) s = .next t ∧ t.boot.mode = .starting ∧ t.boot.stage = endStage e
        ∧ (∀ r, endReason e = some r → t.boot.reason = r ∧ t.boot.under = false) ∧ (endReason e = none → t.boot.under = true) ∧ t.boot.fails = s.boot.fails + 1
        ∧ (∀ k, endAlarm e = some k → k ∈ t.alarms ∧ ∀ v, 1 ≤ v → v ≤ 255 → (t.tdi v).state = .error)
        ∧ (endAlarm e = none → t.mem = s.mem ∧ ∀ v, 1 ≤ v → v ≤ 255 → (t.tdi v).state = .unlocked)))
    ∧ (o.failAt ≠ some (.hang 0) → o.failAt ≠ some (.hang 1) →
      (o.counterOk = true → 3 ≤ s.boot.fails → ∃ t, exec (.powerGood o) s = .next t ∧ t.boot.mode = .minimal ∧ t.boot.stage = 1 ∧ t.boot.fails = s.boot.fails ∧ t.mem = s.mem)
      ∧ (o.counterOk = false → ∃ t, exec (.powerGood o) s = .next t ∧ t.boot.mode = .minimal ∧ t.boot.stage = 1 ∧ t.boot.fails = 3 ∧ t.boot.reason = 10))
    ∧ (o.failAt = some (.hang 0) ∨ o.failAt = some (.hang 1) → ∃ t, exec (.powerGood o) s = .next t ∧ t.boot.mode = .starting ∧ t.boot.under = true ∧ t.mem = s.mem)
    ∧ (s.power = .off → ∃ t, exec (.powerGood o) s = .next t ∧ ∀ w, w < 256 → mget 0 t.epochs w = mget 0 s.epochs w + 1))
  ∧ (mayStart s = false → exec (.powerGood o) s = .next s)
  ∧ (s.boot.mode = .starting → s.boot.under = true →
    (∃ t, exec .startWatchdog s = .next t ∧ t.boot.reason = 8 ∧ t.boot.under = false ∧ t.boot.mode = .starting ∧ t.ctxs = s.ctxs)
    ∧ ∀ k, ∃ t, exec (.securityAlarm k) s = .next t ∧ t.boot.reason = 9 ∧ t.boot.under = false ∧ t.boot.mode = .starting)
  ∧ (∀ q, s.boot.mode = .listening → (s.queue q).en = true → ∃ t, exec (.firstQueueEnable q) s = .next t ∧ t.boot = { s.boot with mode := .running } ∧ t.ctxs = s.ctxs ∧ t.mem = s.mem)
  ∧ (s.power = .run → allAsleep s = true → ∃ t, exec .packageSleep s = .next t ∧ t.power = .sleep ∧ t.sessions = (s.sessions.map fun x => { x with suspended := true }) ∧ t.ctxs = s.ctxs
    ∧ t.regs = s.regs ∧ t.mem = s.mem)
  ∧ (s.power = .sleep → ∃ t, exec .packageResume s = .next t ∧ t.power = .run ∧ t.sessions = s.sessions ∧ t.ctxs = s.ctxs ∧ t.regs = s.regs ∧ t.mem = s.mem)
  ∧ (∃ t, exec .powerLoss s = .next t ∧ t.power = .off ∧ t.ctxs = [] ∧ t.regs = [] ∧ t.sessions = [] ∧ t.keys = false ∧ t.epochs = s.epochs ∧ t.boot.fails = s.boot.fails ∧ t.boot.under = false
    ∧ (∀ a, a < 2 ^ 64 → t.rawByte a = 0) ∧ (∀ a, physLoc Config.cxlBase ≤ a → a < 2 ^ 100 → t.rawByte a = s.rawByte a) ∧ (∀ a, a < Config.hbmTop → t.poisoned (physLoc a) = true)
    ∧ ∀ p ∈ s.launches, p.2.stage ≠ .closed → p.2.stage ≠ .queued → ∃ r ∈ (t.queue p.2.queue).waiting, r.kind = 3 ∧ r.status = 0x81 ∧ r.res = 0 ∧ r.launch = p.1 ∧ r.tag = p.2.tag.toNat)
  ∧ ∀ on, ∃ t, exec (.thermalThrottle on) s = .next t ∧ t.throttle = on ∧ t.ctxs = s.ctxs ∧ t.cores = s.cores ∧ t.regs = s.regs ∧ t.mem = s.mem

/-- R348, R356, R358, R359, R411, R414, R432, R441: what a register write does, by its address; a read through BAR0 or of configuration space is answered (log 12). The board reads the mailbox; the doorbell of a queue without a TDI is bound to no function. At an address of the management core's space that holds no register, the model refuses (log 3). That reserved bits of a written word have no effect, those of CTX_CMD among
them, is the model's choice (log 30, R6). -/
def Obligations.RegisterWrites : Prop := ∀ (s : State) (v : BitVec 64),
  let quiet (t : State) : Prop := t.ctxs = s.ctxs ∧ t.regs = s.regs ∧ t.mem = s.mem
  let wrote (a : RegAddr) (P : State → Prop) : Prop := ∃ t, exec (.registerWrite a v) s = .next t ∧ quiet t ∧ P t
  (∀ i, i < 4096 → let base := 0x10000000 + 0x10000 * i
    (∀ p, p < 16 → wrote (.mgmt (base + 8 * p)) fun t => t.core i = { s.core i with staged := vset (s.core i).staged p v })
    ∧ (v = 1 → wrote (.mgmt (base + 0x100)) fun t => Instr.slotCommit i ∈ t.work ∧ t.core i = { s.core i with committing := (s.core i).committing ++ [(s.core i).staged] })
    ∧ ((s.core i).busy = false → let n := v.setWidth 6
      let adr := (v.extractLsb' 6 46).toNat * 64
      let runs (t : State) : Prop := t.core i = { s.core i with busy := true } ∧ ∀ j, j ≠ i → t.core j = s.core j
      ((v.extractLsb' 60 4).toNat = 1 → wrote (.mgmt (base + 0x400)) fun t => Instr.ctxLoad i n adr ∈ t.work ∧ runs t)
      ∧ ((v.extractLsb' 60 4).toNat = 2 → wrote (.mgmt (base + 0x400)) fun t => Instr.ctxSave i n adr ∈ t.work ∧ runs t)
      ∧ ((v.extractLsb' 60 4).toNat = 3 → wrote (.mgmt (base + 0x400)) fun t => Instr.ctxRelease i n ∈ t.work ∧ runs t))
    ∧ ((s.core i).busy = true → wrote (.mgmt (base + 0x400)) fun t => (∀ j ∈ t.work, j ∈ s.work) ∧ t.cores = s.cores)
    ∧ wrote (.mgmt (base + 0x408)) fun t => t.cores = s.cores)
  ∧ (∀ k, k < 32 → wrote (.mgmt (0x0F000000 + 0x1000 * k)) fun t => t.station k = { s.station k with root := v &&& 0x0FFFFFFFFFF80000#64 } ∧ ∀ j, j ≠ k → t.station j = s.station j)
  ∧ (∀ k, k < 32 → v = 2 → wrote (.mgmt (0x0F000000 + 0x1000 * k + 0x028)) fun t => (t.station k).cache = [] ∧ (t.station k).parked = (s.station k).parked)
  ∧ (∀ b, b < 1024 → wrote (.mgmt (0x0C000000 + 0x40 * b)) fun t => t.barn b = { s.barn b with corr := 0, parity := 0, treplay := 0, pdiscard := 0 } ∧ ∀ j, j ≠ b → t.barn j = s.barn j)
  ∧ (∀ q fn, q < 131072 → fn ≠ 0 → (s.queue q).world.toNat = fn → (s.tdi fn).state = .run → (v.setWidth 16 : BitVec 16).toNat < (s.queue q).entries →
    wrote (.bar fn (8 * q)) fun t => t.queue q = { s.queue q with tail := v.setWidth 16 })
  ∧ (∀ q, q < 131072 → (s.boot.mode = .listening ∨ s.boot.mode = .running) → (s.queue q).world = 0 → (s.tdi 0).state = .unlocked → (s.tdi (v.extractLsb' 24 8).toNat).state = .unlocked →
    wrote (.bar 0 (0x01000000 + 32 * q)) fun t => (t.queue q).world = v.extractLsb' 24 8 ∧ (t.queue q).en = v.getLsbD 0 ∧ (t.queue q).csize = v.extractLsb' 20 4
      ∧ (t.queue q).size = (if 10 < (v.extractLsb' 16 4).toNat then 10 else v.extractLsb' 16 4) ∧ (v.getLsbD 0 = true → s.boot.mode = .listening → Instr.firstQueueEnable q ∈ t.work))
  ∧ (∀ q w, q < 131072 → (s.queue q).world = w → w ≠ 0 → ((s.tdi w.toNat).state = .locked ∨ (s.tdi w.toNat).state = .run) → ∃ t, exec (.registerWrite (.bar 0 (0x01000000 + 32 * q)) v) s = .next t
    ∧ (t.tdi w.toNat).state = .error ∧ t.queue q = s.queue q)
  ∧ (∀ fn off, wrote (.barRead fn off) fun t => t.answers = s.answers ++ [.register fn off (readBar s fn off)]
    ∧ (barBound s fn off = false → (t.tdi fn).discarded = (s.tdi fn).discarded + 1) ∧ (barBound s fn off = true → t.tdis = s.tdis))
  ∧ (∀ fn q, q < 131072 → (s.queue q).world = 0 → barBound s fn (8 * q) = false)
  ∧ (∀ off, wrote (.board off) fun t => t.answers = s.answers ++ [.mailbox off (readMailbox s off)] ∧ t.tdis = s.tdis)
  ∧ (∀ fn off, (spdmUp s = true → wrote (.config fn off) fun t => t.answers = s.answers ++ [.register fn off (Config.configSpace fn off)])
    ∧ (spdmUp s = false → wrote (.config fn off) fun t => t.answers = s.answers))
  ∧ (∀ pa, (pa < 0x0C000000 ∨ 0x20000000 ≤ pa) → exec (.registerWrite (.mgmt pa) v) s = .refused .noRegister)
end

