-- ==== Sys2Proof/Laws/Exec.lean ====
section
/-! SUPPORT. What `exec` runs, constructor by constructor. -/

namespace Sys2Proof.Machine

@[simp] theorem exec_eventDelivery (c : Nat) (s : State) : exec (.eventDelivery c) s = execEventDelivery c s := rfl
@[simp] theorem exec_lineFill (core : Nat) (loc : Nat) (e1 : BitVec 512) (e2 : BitVec 512) (s : State) : exec (.lineFill core loc e1 e2) s = execLineFill core loc e1 e2 s := rfl
@[simp] theorem exec_memoryReply (c : Nat) (s : State) : exec (.memoryReply c) s = execMemoryReply c s := rfl
@[simp] theorem exec_postedWriteAccept (c : Nat) (s : State) : exec (.postedWriteAccept c) s = execPostedWriteAccept c s := rfl
@[simp] theorem exec_writePerformed (id : Nat) (s : State) : exec (.writePerformed id) s = execWritePerformed id s := rfl
@[simp] theorem exec_flagIncrement (c : Nat) (s : State) : exec (.flagIncrement c) s = execFlagIncrement c s := rfl
@[simp] theorem exec_vectorResult (c : Nat) (s : State) : exec (.vectorResult c) s = execVectorResult c s := rfl
@[simp] theorem exec_vectorPipeGrant (barn : Nat) (s : State) : exec (.vectorPipeGrant barn) s = execVectorPipeGrant barn s := rfl
@[simp] theorem exec_tileOpComplete (c : Nat) (s : State) : exec (.tileOpComplete c) s = execTileOpComplete c s := rfl
@[simp] theorem exec_matrixKBlock (c : Nat) (s : State) : exec (.matrixKBlock c) s = execMatrixKBlock c s := rfl
@[simp] theorem exec_matrixComplete (c : Nat) (s : State) : exec (.matrixComplete c) s = execMatrixComplete c s := rfl
@[simp] theorem exec_lockGrant (c : Nat) (s : State) : exec (.lockGrant c) s = execLockGrant c s := rfl
@[simp] theorem exec_handoffEntryGiven (core : Nat) (q : QReg) (idx : Nat) (s : State) : exec (.handoffEntryGiven core q idx) s = execHandoffEntryGiven core q idx s := rfl
@[simp] theorem exec_gateArrivalCounts (c : Nat) (g : GReg) (s : State) : exec (.gateArrivalCounts c g) s = execGateArrivalCounts c g s := rfl
@[simp] theorem exec_gateSweep (core : Nat) (g : GReg) (p : SweepPacket) (s : State) : exec (.gateSweep core g p) s = execGateSweep core g p s := rfl
@[simp] theorem exec_gateRelease (core : Nat) (g : GReg) (s : State) : exec (.gateRelease core g) s = execGateRelease core g s := rfl
@[simp] theorem exec_ringSlotWrite (m : MsgRef) (s : State) : exec (.ringSlotWrite m) s = execRingSlotWrite m s := rfl
@[simp] theorem exec_moveByteCopy (id : Nat) (s : State) : exec (.moveByteCopy id) s = execMoveByteCopy id s := rfl
@[simp] theorem exec_timedMessageArrival (m : MsgRef) (s : State) : exec (.timedMessageArrival m) s = execTimedMessageArrival m s := rfl
@[simp] theorem exec_recallArrival (m : MsgRef) (s : State) : exec (.recallArrival m) s = execRecallArrival m s := rfl
@[simp] theorem exec_acknowledgement (m : MsgRef) (s : State) : exec (.acknowledgement m) s = execAcknowledgement m s := rfl
@[simp] theorem exec_backPressureResend (id : Nat) (s : State) : exec (.backPressureResend id) s = execBackPressureResend id s := rfl
@[simp] theorem exec_flipSweep (launch : Nat) (s : State) : exec (.flipSweep launch) s = execFlipSweep launch s := rfl
@[simp] theorem exec_countSweep (launch : Nat) (s : State) : exec (.countSweep launch) s = execCountSweep launch s := rfl
@[simp] theorem exec_deferredRelease (launch : Nat) (s : State) : exec (.deferredRelease launch) s = execDeferredRelease launch s := rfl
@[simp] theorem exec_faultRecordPost (c : Nat) (s : State) : exec (.faultRecordPost c) s = execFaultRecordPost c s := rfl
@[simp] theorem exec_timer (c : Nat) (s : State) : exec (.timer c) s = execTimer c s := rfl
@[simp] theorem exec_sleepExpiry (c : Nat) (s : State) : exec (.sleepExpiry c) s = execSleepExpiry c s := rfl
@[simp] theorem exec_sleepDepthEntry (core : Nat) (s : State) : exec (.sleepDepthEntry core) s = execSleepDepthEntry core s := rfl
@[simp] theorem exec_coreWake (core : Nat) (s : State) : exec (.coreWake core) s = execCoreWake core s := rfl
@[simp] theorem exec_exitTest (barn : Nat) (pass : Bool) (s : State) : exec (.exitTest barn pass) s = execExitTest barn pass s := rfl
@[simp] theorem exec_timingReplay (barn : Nat) (s : State) : exec (.timingReplay barn) s = execTimingReplay barn s := rfl
@[simp] theorem exec_scrubMaintenanceSlot (core : Nat) (bank : Nat) (s : State) : exec (.scrubMaintenanceSlot core bank) s = execScrubMaintenanceSlot core bank s := rfl
@[simp] theorem exec_scrubBlock (loc : Nat) (uncorrectable : Bool) (s : State) : exec (.scrubBlock loc uncorrectable) s = execScrubBlock loc uncorrectable s := rfl
@[simp] theorem exec_slotTableTakesEffect (core : Nat) (s : State) : exec (.slotTableTakesEffect core) s = execSlotTableTakesEffect core s := rfl
@[simp] theorem exec_slotCommit (core : Nat) (s : State) : exec (.slotCommit core) s = execSlotCommit core s := rfl
@[simp] theorem exec_ctxLoad (core : Nat) (n : BitVec 6) (adr : Nat) (s : State) : exec (.ctxLoad core n adr) s = execCtxLoad core n adr s := rfl
@[simp] theorem exec_ctxSave (core : Nat) (n : BitVec 6) (adr : Nat) (s : State) : exec (.ctxSave core n adr) s = execCtxSave core n adr s := rfl
@[simp] theorem exec_ctxRelease (core : Nat) (n : BitVec 6) (s : State) : exec (.ctxRelease core n) s = execCtxRelease core n s := rfl
@[simp] theorem exec_ctxCmdComplete (core : Nat) (s : State) : exec (.ctxCmdComplete core) s = execCtxCmdComplete core s := rfl
@[simp] theorem exec_translationMiss (c : Nat) (s : State) : exec (.translationMiss c) s = execTranslationMiss c s := rfl
@[simp] theorem exec_tableWalkDone (stn : Nat) (asid : Nat) (granule : Nat) (s : State) : exec (.tableWalkDone stn asid granule) s = execTableWalkDone stn asid granule s := rfl
@[simp] theorem exec_niRetry (c : Nat) (s : State) : exec (.niRetry c) s = execNiRetry c s := rfl
@[simp] theorem exec_stationAck (c : Nat) (stn : Nat) (s : State) : exec (.stationAck c stn) s = execStationAck c stn s := rfl
@[simp] theorem exec_fbPop (stn : Nat) (s : State) : exec (.fbPop stn) s = execFbPop stn s := rfl
@[simp] theorem exec_fbFail (stn : Nat) (v : BitVec 64) (s : State) : exec (.fbFail stn v) s = execFbFail stn v s := rfl
@[simp] theorem exec_stnReplayAll (stn : Nat) (s : State) : exec (.stnReplayAll stn) s = execStnReplayAll stn s := rfl
@[simp] theorem exec_stnInvalidateAll (stn : Nat) (s : State) : exec (.stnInvalidateAll stn) s = execStnInvalidateAll stn s := rfl
@[simp] theorem exec_registerWrite (adr : RegAddr) (v : BitVec 64) (s : State) : exec (.registerWrite adr v) s = execRegisterWrite adr v s := rfl
@[simp] theorem exec_bteRequest (eng : Nat) (id : Nat) (s : State) : exec (.bteRequest eng id) s = execBteRequest eng id s := rfl
@[simp] theorem exec_bteRetry (eng : Nat) (id : Nat) (s : State) : exec (.bteRetry eng id) s = execBteRetry eng id s := rfl
@[simp] theorem exec_channelBlockWrite (core : Nat) (ch : ChReg) (blk : Nat) (s : State) : exec (.channelBlockWrite core ch blk) s = execChannelBlockWrite core ch blk s := rfl
@[simp] theorem exec_channelComplete (core : Nat) (ch : ChReg) (s : State) : exec (.channelComplete core ch) s = execChannelComplete core ch s := rfl
@[simp] theorem exec_mcastAck (core : Nat) (ch : ChReg) (dst : Nat) (s : State) : exec (.mcastAck core ch dst) s = execMcastAck core ch dst s := rfl
@[simp] theorem exec_windowRead (p : Packet) (s : State) : exec (.windowRead p) s = execWindowRead p s := rfl
@[simp] theorem exec_windowWrite (p : Packet) (s : State) : exec (.windowWrite p) s = execWindowWrite p s := rfl
@[simp] theorem exec_windowWrite64 (p : Packet) (s : State) : exec (.windowWrite64 p) s = execWindowWrite64 p s := rfl
@[simp] theorem exec_windowAtomic (p : Packet) (s : State) : exec (.windowAtomic p) s = execWindowAtomic p s := rfl
@[simp] theorem exec_replyWithData (p : Packet) (s : State) : exec (.replyWithData p) s = execReplyWithData p s := rfl
@[simp] theorem exec_replyStatus (p : Packet) (s : State) : exec (.replyStatus p) s = execReplyStatus p s := rfl
@[simp] theorem exec_refusal (p : Packet) (s : State) : exec (.refusal p) s = execRefusal p s := rfl
@[simp] theorem exec_blockCopied (p : Packet) (s : State) : exec (.blockCopied p) s = execBlockCopied p s := rfl
@[simp] theorem exec_hitchPrepared (p : Packet) (s : State) : exec (.hitchPrepared p) s = execHitchPrepared p s := rfl
@[simp] theorem exec_hitchCommit (p : Packet) (s : State) : exec (.hitchCommit p) s = execHitchCommit p s := rfl
@[simp] theorem exec_hitchAbort (p : Packet) (s : State) : exec (.hitchAbort p) s = execHitchAbort p s := rfl
@[simp] theorem exec_hitchJoinRequest (p : Packet) (s : State) : exec (.hitchJoinRequest p) s = execHitchJoinRequest p s := rfl
@[simp] theorem exec_hitchDetachRequest (p : Packet) (s : State) : exec (.hitchDetachRequest p) s = execHitchDetachRequest p s := rfl
@[simp] theorem exec_hitchAcknowledge (p : Packet) (s : State) : exec (.hitchAcknowledge p) s = execHitchAcknowledge p s := rfl
@[simp] theorem exec_exitNotice (p : Packet) (s : State) : exec (.exitNotice p) s = execExitNotice p s := rfl
@[simp] theorem exec_withdraw (p : Packet) (s : State) : exec (.withdraw p) s = execWithdraw p s := rfl
@[simp] theorem exec_hitchPrepare (launch : Nat) (x : Nat) (y : Nat) (codeVa : BitVec 48) (s : State) : exec (.hitchPrepare launch x y codeVa) s = execHitchPrepare launch x y codeVa s := rfl
@[simp] theorem exec_linkReplay (port : Nat) (s : State) : exec (.linkReplay port) s = execLinkReplay port s := rfl
@[simp] theorem exec_portRetrain (port : Nat) (ok : Bool) (s : State) : exec (.portRetrain port ok) s = execPortRetrain port ok s := rfl
@[simp] theorem exec_portDown (port : Nat) (s : State) : exec (.portDown port) s = execPortDown port s := rfl
@[simp] theorem exec_launch (queue : Nat) (e : QueueEntry) (s : State) : exec (.launch queue e) s = execLaunch queue e s := rfl
@[simp] theorem exec_feed (queue : Nat) (e : QueueEntry) (s : State) : exec (.feed queue e) s = execFeed queue e s := rfl
@[simp] theorem exec_cancel (queue : Nat) (e : QueueEntry) (s : State) : exec (.cancel queue e) s = execCancel queue e s := rfl
@[simp] theorem exec_doorbell (fn : Nat) (queue : Nat) (v : BitVec 64) (s : State) : exec (.doorbell fn queue v) s = execDoorbell fn queue v s := rfl
@[simp] theorem exec_launchPlacement (launch : Nat) (x : Nat) (y : Nat) (codeVa : BitVec 48) (s : State) : exec (.launchPlacement launch x y codeVa) s = execLaunchPlacement launch x y codeVa s := rfl
@[simp] theorem exec_launchCompletion (launch : Nat) (s : State) : exec (.launchCompletion launch) s = execLaunchCompletion launch s := rfl
@[simp] theorem exec_completionRecord (queue : Nat) (s : State) : exec (.completionRecord queue) s = execCompletionRecord queue s := rfl
@[simp] theorem exec_paddockPreempt (launch : Nat) (s : State) : exec (.paddockPreempt launch) s = execPaddockPreempt launch s := rfl
@[simp] theorem exec_graceExpiry (launch : Nat) (s : State) : exec (.graceExpiry launch) s = execGraceExpiry launch s := rfl
@[simp] theorem exec_quantumExpiry (launch : Nat) (s : State) : exec (.quantumExpiry launch) s = execQuantumExpiry launch s := rfl
@[simp] theorem exec_openLatest (region : Nat) (s : State) : exec (.openLatest region) s = execOpenLatest region s := rfl
@[simp] theorem exec_openPrivate (region : Nat) (s : State) : exec (.openPrivate region) s = execOpenPrivate region s := rfl
@[simp] theorem exec_publish (region : Nat) (s : State) : exec (.publish region) s = execPublish region s := rfl
@[simp] theorem exec_close (region : Nat) (s : State) : exec (.close region) s = execClose region s := rfl
@[simp] theorem exec_hostLoss (region : HostLoss) (s : State) : exec (.hostLoss region) s = execHostLoss region s := rfl
@[simp] theorem exec_extentWithdraw (first : Nat) (len : Nat) (s : State) : exec (.extentWithdraw first len) s = execExtentWithdraw first len s := rfl
@[simp] theorem exec_withdrawComplete (first : Nat) (len : Nat) (s : State) : exec (.withdrawComplete first len) s = execWithdrawComplete first len s := rfl
@[simp] theorem exec_getVersion (fn : Nat) (s : State) : exec (.getVersion fn) s = execGetVersion fn s := rfl
@[simp] theorem exec_getCapabilities (fn : Nat) (s : State) : exec (.getCapabilities fn) s = execGetCapabilities fn s := rfl
@[simp] theorem exec_negotiateAlgorithms (fn : Nat) (s : State) : exec (.negotiateAlgorithms fn) s = execNegotiateAlgorithms fn s := rfl
@[simp] theorem exec_getDigests (fn : Nat) (s : State) : exec (.getDigests fn) s = execGetDigests fn s := rfl
@[simp] theorem exec_getCertificate (fn : Nat) (s : State) : exec (.getCertificate fn) s = execGetCertificate fn s := rfl
@[simp] theorem exec_challenge (fn : Nat) (s : State) : exec (.challenge fn) s = execChallenge fn s := rfl
@[simp] theorem exec_getMeasurements (fn : Nat) (index : Nat) (s : State) : exec (.getMeasurements fn index) s = execGetMeasurements fn index s := rfl
@[simp] theorem exec_keyExchange (fn : Nat) (s : State) : exec (.keyExchange fn) s = execKeyExchange fn s := rfl
@[simp] theorem exec_finish (session : Nat) (s : State) : exec (.finish session) s = execFinish session s := rfl
@[simp] theorem exec_keyUpdate (session : Nat) (s : State) : exec (.keyUpdate session) s = execKeyUpdate session s := rfl
@[simp] theorem exec_heartbeat (session : Nat) (s : State) : exec (.heartbeat session) s = execHeartbeat session s := rfl
@[simp] theorem exec_endSession (session : Nat) (s : State) : exec (.endSession session) s = execEndSession session s := rfl
@[simp] theorem exec_vendorDefinedRequest (session : Nat) (r : VendorRequest) (s : State) : exec (.vendorDefinedRequest session r) s = execVendorDefinedRequest session r s := rfl
@[simp] theorem exec_unsupportedRequest (fn : Nat) (code : Nat) (s : State) : exec (.unsupportedRequest fn code) s = execUnsupportedRequest fn code s := rfl
@[simp] theorem exec_heartbeatTimeout (session : Nat) (s : State) : exec (.heartbeatTimeout session) s = execHeartbeatTimeout session s := rfl
@[simp] theorem exec_lockInterfaceRequest (session : Nat) (w : Nat) (s : State) : exec (.lockInterfaceRequest session w) s = execLockInterfaceRequest session w s := rfl
@[simp] theorem exec_getDeviceInterfaceReport (session : Nat) (w : Nat) (s : State) : exec (.getDeviceInterfaceReport session w) s = execGetDeviceInterfaceReport session w s := rfl
@[simp] theorem exec_startInterfaceRequest (session : Nat) (w : Nat) (s : State) : exec (.startInterfaceRequest session w) s = execStartInterfaceRequest session w s := rfl
@[simp] theorem exec_stopInterfaceRequest (session : Nat) (w : Nat) (s : State) : exec (.stopInterfaceRequest session w) s = execStopInterfaceRequest session w s := rfl
@[simp] theorem exec_ideIntegrityFailure (w : Nat) (s : State) : exec (.ideIntegrityFailure w) s = execIdeIntegrityFailure w s := rfl
@[simp] theorem exec_securityAlarm (k : Alarm) (s : State) : exec (.securityAlarm k) s = execSecurityAlarm k s := rfl
@[simp] theorem exec_testModeEntry (s : State) : exec (.testModeEntry) s = execTestModeEntry s := rfl
@[simp] theorem exec_thermalThrottle (on : Bool) (s : State) : exec (.thermalThrottle on) s = execThermalThrottle on s := rfl
@[simp] theorem exec_powerGood (o : StartOutcome) (s : State) : exec (.powerGood o) s = execPowerGood o s := rfl
@[simp] theorem exec_startWatchdog (s : State) : exec (.startWatchdog) s = execStartWatchdog s := rfl
@[simp] theorem exec_firstQueueEnable (queue : Nat) (s : State) : exec (.firstQueueEnable queue) s = execFirstQueueEnable queue s := rfl
@[simp] theorem exec_packageSleep (s : State) : exec (.packageSleep) s = execPackageSleep s := rfl
@[simp] theorem exec_packageResume (s : State) : exec (.packageResume) s = execPackageResume s := rfl
@[simp] theorem exec_powerLoss (s : State) : exec (.powerLoss) s = execPowerLoss s := rfl
@[simp] theorem exec_unusedTurn (core : Nat) (s : State) : exec (.unusedTurn core) s = execUnusedTurn core s := rfl
@[simp] theorem exec_paddockRebind (launch : Nat) (x : Nat) (y : Nat) (s : State) : exec (.paddockRebind launch x y) s = execPaddockRebind launch x y s := rfl
@[simp] theorem exec_cxlMemAccess (region : Nat) (off : Nat) (wr : Bool) (line : BitVec 512) (s : State) : exec (.cxlMemAccess region off wr line) s = execCxlMemAccess region off wr line s := rfl
@[simp] theorem exec_unknownOp (queue : Nat) (e : QueueEntry) (s : State) : exec (.unknownOp queue e) s = execUnknownOp queue e s := rfl
@[simp] theorem exec_unknownPacketType (p : Packet) (s : State) : exec (.unknownPacketType p) s = execUnknownPacketType p s := rfl
@[simp] theorem exec_wipePassEnd (c : Nat) (s : State) : exec (.wipePassEnd c) s = execWipePassEnd c s := rfl
@[simp] theorem exec_stopCompletion (w : Nat) (s : State) : exec (.stopCompletion w) s = execStopCompletion w s := rfl
@[simp] theorem exec_nop (s : State) : exec (.nop) s = execNop s := rfl
@[simp] theorem exec_add (d : WReg) (a : WReg) (b : WReg) (s : State) : exec (.add d a b) s = execAdd d a b s := rfl
@[simp] theorem exec_sub (d : WReg) (a : WReg) (b : WReg) (s : State) : exec (.sub d a b) s = execSub d a b s := rfl
@[simp] theorem exec_mul (d : WReg) (a : WReg) (b : WReg) (s : State) : exec (.mul d a b) s = execMul d a b s := rfl
@[simp] theorem exec_mulh (d : WReg) (a : WReg) (b : WReg) (s : State) : exec (.mulh d a b) s = execMulh d a b s := rfl
@[simp] theorem exec_mulhn (d : WReg) (a : WReg) (b : WReg) (s : State) : exec (.mulhn d a b) s = execMulhn d a b s := rfl
@[simp] theorem exec_div (d : WReg) (a : WReg) (b : WReg) (s : State) : exec (.div d a b) s = execDiv d a b s := rfl
@[simp] theorem exec_divn (d : WReg) (a : WReg) (b : WReg) (s : State) : exec (.divn d a b) s = execDivn d a b s := rfl
@[simp] theorem exec_rem (d : WReg) (a : WReg) (b : WReg) (s : State) : exec (.rem d a b) s = execRem d a b s := rfl
@[simp] theorem exec_remn (d : WReg) (a : WReg) (b : WReg) (s : State) : exec (.remn d a b) s = execRemn d a b s := rfl
@[simp] theorem exec_adds (d : WReg) (a : WReg) (b : WReg) (s : State) : exec (.adds d a b) s = execAdds d a b s := rfl
@[simp] theorem exec_subs (d : WReg) (a : WReg) (b : WReg) (s : State) : exec (.subs d a b) s = execSubs d a b s := rfl
@[simp] theorem exec_addsn (d : WReg) (a : WReg) (b : WReg) (s : State) : exec (.addsn d a b) s = execAddsn d a b s := rfl
@[simp] theorem exec_subsn (d : WReg) (a : WReg) (b : WReg) (s : State) : exec (.subsn d a b) s = execSubsn d a b s := rfl
@[simp] theorem exec_andB (d : WReg) (a : WReg) (b : WReg) (s : State) : exec (.andB d a b) s = execAndB d a b s := rfl
@[simp] theorem exec_orB (d : WReg) (a : WReg) (b : WReg) (s : State) : exec (.orB d a b) s = execOrB d a b s := rfl
@[simp] theorem exec_xorB (d : WReg) (a : WReg) (b : WReg) (s : State) : exec (.xorB d a b) s = execXorB d a b s := rfl
@[simp] theorem exec_andn (d : WReg) (a : WReg) (b : WReg) (s : State) : exec (.andn d a b) s = execAndn d a b s := rfl
@[simp] theorem exec_shl (d : WReg) (a : WReg) (b : WReg) (s : State) : exec (.shl d a b) s = execShl d a b s := rfl
@[simp] theorem exec_shr (d : WReg) (a : WReg) (b : WReg) (s : State) : exec (.shr d a b) s = execShr d a b s := rfl
@[simp] theorem exec_sar (d : WReg) (a : WReg) (b : WReg) (s : State) : exec (.sar d a b) s = execSar d a b s := rfl
@[simp] theorem exec_rol (d : WReg) (a : WReg) (b : WReg) (s : State) : exec (.rol d a b) s = execRol d a b s := rfl
@[simp] theorem exec_ror (d : WReg) (a : WReg) (b : WReg) (s : State) : exec (.ror d a b) s = execRor d a b s := rfl
@[simp] theorem exec_clz (d : WReg) (a : WReg) (s : State) : exec (.clz d a) s = execClz d a s := rfl
@[simp] theorem exec_ctz (d : WReg) (a : WReg) (s : State) : exec (.ctz d a) s = execCtz d a s := rfl
@[simp] theorem exec_popc (d : WReg) (a : WReg) (s : State) : exec (.popc d a) s = execPopc d a s := rfl
@[simp] theorem exec_brev (d : WReg) (a : WReg) (s : State) : exec (.brev d a) s = execBrev d a s := rfl
@[simp] theorem exec_bswap (d : WReg) (a : WReg) (s : State) : exec (.bswap d a) s = execBswap d a s := rfl
@[simp] theorem exec_min (d : WReg) (a : WReg) (b : WReg) (s : State) : exec (.min d a b) s = execMin d a b s := rfl
@[simp] theorem exec_max (d : WReg) (a : WReg) (b : WReg) (s : State) : exec (.max d a b) s = execMax d a b s := rfl
@[simp] theorem exec_minn (d : WReg) (a : WReg) (b : WReg) (s : State) : exec (.minn d a b) s = execMinn d a b s := rfl
@[simp] theorem exec_maxn (d : WReg) (a : WReg) (b : WReg) (s : State) : exec (.maxn d a b) s = execMaxn d a b s := rfl
@[simp] theorem exec_addi (d : WReg) (a : WReg) (imm : BitVec 48) (s : State) : exec (.addi d a imm) s = execAddi d a imm s := rfl
@[simp] theorem exec_andi (d : WReg) (a : WReg) (imm : BitVec 48) (s : State) : exec (.andi d a imm) s = execAndi d a imm s := rfl
@[simp] theorem exec_ori (d : WReg) (a : WReg) (imm : BitVec 48) (s : State) : exec (.ori d a imm) s = execOri d a imm s := rfl
@[simp] theorem exec_xori (d : WReg) (a : WReg) (imm : BitVec 48) (s : State) : exec (.xori d a imm) s = execXori d a imm s := rfl
@[simp] theorem exec_shli (d : WReg) (a : WReg) (n : BitVec 6) (s : State) : exec (.shli d a n) s = execShli d a n s := rfl
@[simp] theorem exec_shri (d : WReg) (a : WReg) (n : BitVec 6) (s : State) : exec (.shri d a n) s = execShri d a n s := rfl
@[simp] theorem exec_sari (d : WReg) (a : WReg) (n : BitVec 6) (s : State) : exec (.sari d a n) s = execSari d a n s := rfl
@[simp] theorem exec_mov (d : WReg) (a : WReg) (s : State) : exec (.mov d a) s = execMov d a s := rfl
@[simp] theorem exec_movi (d : WReg) (imm : BitVec 48) (s : State) : exec (.movi d imm) s = execMovi d imm s := rfl
@[simp] theorem exec_movhi (d : WReg) (a : WReg) (imm : BitVec 16) (s : State) : exec (.movhi d a imm) s = execMovhi d a imm s := rfl
@[simp] theorem exec_sext (d : WReg) (a : WReg) (n : BitVec 7) (s : State) : exec (.sext d a n) s = execSext d a n s := rfl
@[simp] theorem exec_zext (d : WReg) (a : WReg) (n : BitVec 7) (s : State) : exec (.zext d a n) s = execZext d a n s := rfl
@[simp] theorem exec_sel (d : WReg) (a : WReg) (b : WReg) (c : WReg) (s : State) : exec (.sel d a b c) s = execSel d a b c s := rfl
@[simp] theorem exec_seq (d : WReg) (a : WReg) (b : WReg) (s : State) : exec (.seq d a b) s = execSeq d a b s := rfl
@[simp] theorem exec_slt (d : WReg) (a : WReg) (b : WReg) (s : State) : exec (.slt d a b) s = execSlt d a b s := rfl
@[simp] theorem exec_sltn (d : WReg) (a : WReg) (b : WReg) (s : State) : exec (.sltn d a b) s = execSltn d a b s := rfl
@[simp] theorem exec_addx (d : WReg) (a : WReg) (b : WReg) (sh : BitVec 3) (s : State) : exec (.addx d a b sh) s = execAddx d a b sh s := rfl
@[simp] theorem exec_fadd (t : FTy) (d : WReg) (a : WReg) (b : WReg) (rm : Rm) (s : State) : exec (.fadd t d a b rm) s = execFadd t d a b rm s := rfl
@[simp] theorem exec_fsub (t : FTy) (d : WReg) (a : WReg) (b : WReg) (rm : Rm) (s : State) : exec (.fsub t d a b rm) s = execFsub t d a b rm s := rfl
@[simp] theorem exec_fmul (t : FTy) (d : WReg) (a : WReg) (b : WReg) (rm : Rm) (s : State) : exec (.fmul t d a b rm) s = execFmul t d a b rm s := rfl
@[simp] theorem exec_fdiv (t : FTy) (d : WReg) (a : WReg) (b : WReg) (rm : Rm) (s : State) : exec (.fdiv t d a b rm) s = execFdiv t d a b rm s := rfl
@[simp] theorem exec_fsqrt (t : FTy) (d : WReg) (a : WReg) (rm : Rm) (s : State) : exec (.fsqrt t d a rm) s = execFsqrt t d a rm s := rfl
@[simp] theorem exec_fmin (t : FTy) (d : WReg) (a : WReg) (b : WReg) (s : State) : exec (.fmin t d a b) s = execFmin t d a b s := rfl
@[simp] theorem exec_fmax (t : FTy) (d : WReg) (a : WReg) (b : WReg) (s : State) : exec (.fmax t d a b) s = execFmax t d a b s := rfl
@[simp] theorem exec_fabs (t : FTy) (d : WReg) (a : WReg) (s : State) : exec (.fabs t d a) s = execFabs t d a s := rfl
@[simp] theorem exec_fneg (t : FTy) (d : WReg) (a : WReg) (s : State) : exec (.fneg t d a) s = execFneg t d a s := rfl
@[simp] theorem exec_fma (t : FTy) (d : WReg) (a : WReg) (b : WReg) (c : WReg) (rm : Rm) (s : State) : exec (.fma t d a b c rm) s = execFma t d a b c rm s := rfl
@[simp] theorem exec_fms (t : FTy) (d : WReg) (a : WReg) (b : WReg) (c : WReg) (rm : Rm) (s : State) : exec (.fms t d a b c rm) s = execFms t d a b c rm s := rfl
@[simp] theorem exec_fnma (t : FTy) (d : WReg) (a : WReg) (b : WReg) (c : WReg) (rm : Rm) (s : State) : exec (.fnma t d a b c rm) s = execFnma t d a b c rm s := rfl
@[simp] theorem exec_fnms (t : FTy) (d : WReg) (a : WReg) (b : WReg) (c : WReg) (rm : Rm) (s : State) : exec (.fnms t d a b c rm) s = execFnms t d a b c rm s := rfl
@[simp] theorem exec_cvt (dst : Ty) (src : Ty) (d : WReg) (a : WReg) (rm : Rm) (s : State) : exec (.cvt dst src d a rm) s = execCvt dst src d a rm s := rfl
@[simp] theorem exec_cvts (dst : Ty) (src : Ty) (d : WReg) (a : WReg) (rm : Rm) (s : State) : exec (.cvts dst src d a rm) s = execCvts dst src d a rm s := rfl
@[simp] theorem exec_fint (t : FTy) (d : WReg) (a : WReg) (rm : Rm) (s : State) : exec (.fint t d a rm) s = execFint t d a rm s := rfl
@[simp] theorem exec_fclass (t : FTy) (d : WReg) (a : WReg) (s : State) : exec (.fclass t d a) s = execFclass t d a s := rfl
@[simp] theorem exec_fseq (t : FTy) (d : WReg) (a : WReg) (b : WReg) (s : State) : exec (.fseq t d a b) s = execFseq t d a b s := rfl
@[simp] theorem exec_fslt (t : FTy) (d : WReg) (a : WReg) (b : WReg) (s : State) : exec (.fslt t d a b) s = execFslt t d a b s := rfl
@[simp] theorem exec_fsle (t : FTy) (d : WReg) (a : WReg) (b : WReg) (s : State) : exec (.fsle t d a b) s = execFsle t d a b s := rfl
@[simp] theorem exec_fsun (t : FTy) (d : WReg) (a : WReg) (b : WReg) (s : State) : exec (.fsun t d a b) s = execFsun t d a b s := rfl
@[simp] theorem exec_skeq (t : Ty) (a : WReg) (q : SkipOp) (n : BitVec 2) (s : State) : exec (.skeq t a q n) s = execSkeq t a q n s := rfl
@[simp] theorem exec_skne (t : Ty) (a : WReg) (q : SkipOp) (n : BitVec 2) (s : State) : exec (.skne t a q n) s = execSkne t a q n s := rfl
@[simp] theorem exec_sklt (t : Ty) (a : WReg) (q : SkipOp) (n : BitVec 2) (s : State) : exec (.sklt t a q n) s = execSklt t a q n s := rfl
@[simp] theorem exec_skge (t : Ty) (a : WReg) (q : SkipOp) (n : BitVec 2) (s : State) : exec (.skge t a q n) s = execSkge t a q n s := rfl
@[simp] theorem exec_skgt (t : Ty) (a : WReg) (q : SkipOp) (n : BitVec 2) (s : State) : exec (.skgt t a q n) s = execSkgt t a q n s := rfl
@[simp] theorem exec_skle (t : Ty) (a : WReg) (q : SkipOp) (n : BitVec 2) (s : State) : exec (.skle t a q n) s = execSkle t a q n s := rfl
@[simp] theorem exec_skun (t : Ty) (a : WReg) (q : SkipOp) (n : BitVec 2) (s : State) : exec (.skun t a q n) s = execSkun t a q n s := rfl
@[simp] theorem exec_skor (t : Ty) (a : WReg) (q : SkipOp) (n : BitVec 2) (s : State) : exec (.skor t a q n) s = execSkor t a q n s := rfl
@[simp] theorem exec_br (tgt : Target) (s : State) : exec (.br tgt) s = execBr tgt s := rfl
@[simp] theorem exec_call (d : WReg) (tgt : Target) (s : State) : exec (.call d tgt) s = execCall d tgt s := rfl
@[simp] theorem exec_jr (a : WReg) (s : State) : exec (.jr a) s = execJr a s := rfl
@[simp] theorem exec_callr (d : WReg) (a : WReg) (s : State) : exec (.callr d a) s = execCallr d a s := rfl
@[simp] theorem exec_ret (a : WReg) (s : State) : exec (.ret a) s = execRet a s := rfl
@[simp] theorem exec_beqz (a : WReg) (tgt : Target) (s : State) : exec (.beqz a tgt) s = execBeqz a tgt s := rfl
@[simp] theorem exec_bnez (a : WReg) (tgt : Target) (s : State) : exec (.bnez a tgt) s = execBnez a tgt s := rfl
@[simp] theorem exec_bltz (a : WReg) (tgt : Target) (s : State) : exec (.bltz a tgt) s = execBltz a tgt s := rfl
@[simp] theorem exec_bgez (a : WReg) (tgt : Target) (s : State) : exec (.bgez a tgt) s = execBgez a tgt s := rfl
@[simp] theorem exec_loop (a : WReg) (tgt : Target) (s : State) : exec (.loop a tgt) s = execLoop a tgt s := rfl
@[simp] theorem exec_incblt (a : WReg) (b : WReg) (tgt : Target) (s : State) : exec (.incblt a b tgt) s = execIncblt a b tgt s := rfl
@[simp] theorem exec_callk (d : WReg) (kc : KReg) (tgt : Target) (s : State) : exec (.callk d kc tgt) s = execCallk d kc tgt s := rfl
@[simp] theorem exec_retk (a : WReg) (kb : KReg) (s : State) : exec (.retk a kb) s = execRetk a kb s := rfl
@[simp] theorem exec_jk (kc : KReg) (tgt : Target) (s : State) : exec (.jk kc tgt) s = execJk kc tgt s := rfl
@[simp] theorem exec_halt (s : State) : exec (.halt) s = execHalt s := rfl
@[simp] theorem exec_sleep (n : BitVec 32) (s : State) : exec (.sleep n) s = execSleep n s := rfl
@[simp] theorem exec_yield (s : State) : exec (.yield) s = execYield s := rfl
@[simp] theorem exec_ldb (d : WReg) (m : MemOp) (s : State) : exec (.ldb d m) s = execLdb d m s := rfl
@[simp] theorem exec_ldh (d : WReg) (m : MemOp) (s : State) : exec (.ldh d m) s = execLdh d m s := rfl
@[simp] theorem exec_ldw (d : WReg) (m : MemOp) (s : State) : exec (.ldw d m) s = execLdw d m s := rfl
@[simp] theorem exec_ldd (d : WReg) (m : MemOp) (s : State) : exec (.ldd d m) s = execLdd d m s := rfl
@[simp] theorem exec_ldbs (d : WReg) (m : MemOp) (s : State) : exec (.ldbs d m) s = execLdbs d m s := rfl
@[simp] theorem exec_ldhs (d : WReg) (m : MemOp) (s : State) : exec (.ldhs d m) s = execLdhs d m s := rfl
@[simp] theorem exec_ldws (d : WReg) (m : MemOp) (s : State) : exec (.ldws d m) s = execLdws d m s := rfl
@[simp] theorem exec_stb (d : WReg) (m : MemOp) (s : State) : exec (.stb d m) s = execStb d m s := rfl
@[simp] theorem exec_sth (d : WReg) (m : MemOp) (s : State) : exec (.sth d m) s = execSth d m s := rfl
@[simp] theorem exec_stw (d : WReg) (m : MemOp) (s : State) : exec (.stw d m) s = execStw d m s := rfl
@[simp] theorem exec_std (d : WReg) (m : MemOp) (s : State) : exec (.std d m) s = execStd d m s := rfl
@[simp] theorem exec_ldv (vd : VReg) (m : MemOp) (s : State) : exec (.ldv vd m) s = execLdv vd m s := rfl
@[simp] theorem exec_stv (vd : VReg) (m : MemOp) (s : State) : exec (.stv vd m) s = execStv vd m s := rfl
@[simp] theorem exec_stdf (d : WReg) (m : MemOp) (f : WReg) (s : State) : exec (.stdf d m f) s = execStdf d m f s := rfl
@[simp] theorem exec_stvf (vd : VReg) (m : MemOp) (f : WReg) (s : State) : exec (.stvf vd m f) s = execStvf vd m f s := rfl
@[simp] theorem exec_wrep (vd : VReg) (m : MemOp) (sr : WReg) (s : State) : exec (.wrep vd m sr) s = execWrep vd m sr s := rfl
@[simp] theorem exec_ldtag (d : WReg) (m : MemOp) (s : State) : exec (.ldtag d m) s = execLdtag d m s := rfl
@[simp] theorem exec_sttag (d : WReg) (m : MemOp) (s : State) : exec (.sttag d m) s = execSttag d m s := rfl
@[simp] theorem exec_lock (m : MemOp) (l : WReg) (s : State) : exec (.lock m l) s = execLock m l s := rfl
@[simp] theorem exec_unlock (s : State) : exec (.unlock) s = execUnlock s := rfl
@[simp] theorem exec_cmov (d : KReg) (a : KReg) (s : State) : exec (.cmov d a) s = execCmov d a s := rfl
@[simp] theorem exec_cswap (d : KReg) (a : KReg) (s : State) : exec (.cswap d a) s = execCswap d a s := rfl
@[simp] theorem exec_cdrop (a : KReg) (s : State) : exec (.cdrop a) s = execCdrop a s := rfl
@[simp] theorem exec_csplit (d : KReg) (a : KReg) (b : WReg) (mode : Bool) (s : State) : exec (.csplit d a b mode) s = execCsplit d a b mode s := rfl
@[simp] theorem exec_cjoin (d : KReg) (a : KReg) (s : State) : exec (.cjoin d a) s = execCjoin d a s := rfl
@[simp] theorem exec_cnarrow (d : KReg) (a : KReg) (b : WReg) (s : State) : exec (.cnarrow d a b) s = execCnarrow d a b s := rfl
@[simp] theorem exec_crights (a : KReg) (mask : BitVec 8) (conv : Bool) (s : State) : exec (.crights a mask conv) s = execCrights a mask conv s := rfl
@[simp] theorem exec_cstash (kd : KReg) (m : MemOp) (s : State) : exec (.cstash kd m) s = execCstash kd m s := rfl
@[simp] theorem exec_cfetch (kd : KReg) (m : MemOp) (s : State) : exec (.cfetch kd m) s = execCfetch kd m s := rfl
@[simp] theorem exec_cinsp (d : WReg) (a : KReg) (field : BitVec 3) (s : State) : exec (.cinsp d a field) s = execCinsp d a field s := rfl
@[simp] theorem exec_aswap (t : ATy) (d : WReg) (m : MemOp) (sr : WReg) (acq : Bool) (rel : Bool) (s : State) : exec (.aswap t d m sr acq rel) s = execAswap t d m sr acq rel s := rfl
@[simp] theorem exec_aadd (t : ATy) (d : WReg) (m : MemOp) (sr : WReg) (acq : Bool) (rel : Bool) (s : State) : exec (.aadd t d m sr acq rel) s = execAadd t d m sr acq rel s := rfl
@[simp] theorem exec_aand (t : ATy) (d : WReg) (m : MemOp) (sr : WReg) (acq : Bool) (rel : Bool) (s : State) : exec (.aand t d m sr acq rel) s = execAand t d m sr acq rel s := rfl
@[simp] theorem exec_aor (t : ATy) (d : WReg) (m : MemOp) (sr : WReg) (acq : Bool) (rel : Bool) (s : State) : exec (.aor t d m sr acq rel) s = execAor t d m sr acq rel s := rfl
@[simp] theorem exec_axor (t : ATy) (d : WReg) (m : MemOp) (sr : WReg) (acq : Bool) (rel : Bool) (s : State) : exec (.axor t d m sr acq rel) s = execAxor t d m sr acq rel s := rfl
@[simp] theorem exec_amax (t : ATy) (d : WReg) (m : MemOp) (sr : WReg) (acq : Bool) (rel : Bool) (s : State) : exec (.amax t d m sr acq rel) s = execAmax t d m sr acq rel s := rfl
@[simp] theorem exec_amin (t : ATy) (d : WReg) (m : MemOp) (sr : WReg) (acq : Bool) (rel : Bool) (s : State) : exec (.amin t d m sr acq rel) s = execAmin t d m sr acq rel s := rfl
@[simp] theorem exec_acas (t : ATy) (d : WReg) (m : MemOp) (sr : WReg) (acq : Bool) (rel : Bool) (s : State) : exec (.acas t d m sr acq rel) s = execAcas t d m sr acq rel s := rfl
@[simp] theorem exec_redadd (t : ATy) (m : MemOp) (sr : WReg) (acq : Bool) (rel : Bool) (s : State) : exec (.redadd t m sr acq rel) s = execRedadd t m sr acq rel s := rfl
@[simp] theorem exec_redand (t : ATy) (m : MemOp) (sr : WReg) (acq : Bool) (rel : Bool) (s : State) : exec (.redand t m sr acq rel) s = execRedand t m sr acq rel s := rfl
@[simp] theorem exec_redor (t : ATy) (m : MemOp) (sr : WReg) (acq : Bool) (rel : Bool) (s : State) : exec (.redor t m sr acq rel) s = execRedor t m sr acq rel s := rfl
@[simp] theorem exec_redxor (t : ATy) (m : MemOp) (sr : WReg) (acq : Bool) (rel : Bool) (s : State) : exec (.redxor t m sr acq rel) s = execRedxor t m sr acq rel s := rfl
@[simp] theorem exec_redmax (t : ATy) (m : MemOp) (sr : WReg) (acq : Bool) (rel : Bool) (s : State) : exec (.redmax t m sr acq rel) s = execRedmax t m sr acq rel s := rfl
@[simp] theorem exec_redmin (t : ATy) (m : MemOp) (sr : WReg) (acq : Bool) (rel : Bool) (s : State) : exec (.redmin t m sr acq rel) s = execRedmin t m sr acq rel s := rfl
@[simp] theorem exec_veropenRead (kd : KReg) (k : KReg) (s : State) : exec (.veropenRead kd k) s = execVeropenRead kd k s := rfl
@[simp] theorem exec_veropenPrivate (kd : KReg) (k : KReg) (s : State) : exec (.veropenPrivate kd k) s = execVeropenPrivate kd k s := rfl
@[simp] theorem exec_verclose (k : KReg) (s : State) : exec (.verclose k) s = execVerclose k s := rfl
@[simp] theorem exec_verpub (d : WReg) (k : KReg) (s : State) : exec (.verpub d k) s = execVerpub d k s := rfl
@[simp] theorem exec_vadd (o : VBin) (s : State) : exec (.vadd o) s = execVadd o s := rfl
@[simp] theorem exec_vsub (o : VBin) (s : State) : exec (.vsub o) s = execVsub o s := rfl
@[simp] theorem exec_vmul (o : VBin) (s : State) : exec (.vmul o) s = execVmul o s := rfl
@[simp] theorem exec_vdiv (o : VBin) (s : State) : exec (.vdiv o) s = execVdiv o s := rfl
@[simp] theorem exec_vmin (o : VBin) (s : State) : exec (.vmin o) s = execVmin o s := rfl
@[simp] theorem exec_vmax (o : VBin) (s : State) : exec (.vmax o) s = execVmax o s := rfl
@[simp] theorem exec_vabs (o : VUn) (s : State) : exec (.vabs o) s = execVabs o s := rfl
@[simp] theorem exec_vneg (o : VUn) (s : State) : exec (.vneg o) s = execVneg o s := rfl
@[simp] theorem exec_vsqrt (o : VUn) (s : State) : exec (.vsqrt o) s = execVsqrt o s := rfl
@[simp] theorem exec_vfma (o : VTer) (s : State) : exec (.vfma o) s = execVfma o s := rfl
@[simp] theorem exec_vfms (o : VTer) (s : State) : exec (.vfms o) s = execVfms o s := rfl
@[simp] theorem exec_vfnma (o : VTer) (s : State) : exec (.vfnma o) s = execVfnma o s := rfl
@[simp] theorem exec_vadds (o : VBin) (s : State) : exec (.vadds o) s = execVadds o s := rfl
@[simp] theorem exec_vsubs (o : VBin) (s : State) : exec (.vsubs o) s = execVsubs o s := rfl
@[simp] theorem exec_vand (o : VBin) (s : State) : exec (.vand o) s = execVand o s := rfl
@[simp] theorem exec_vor (o : VBin) (s : State) : exec (.vor o) s = execVor o s := rfl
@[simp] theorem exec_vxor (o : VBin) (s : State) : exec (.vxor o) s = execVxor o s := rfl
@[simp] theorem exec_vandn (o : VBin) (s : State) : exec (.vandn o) s = execVandn o s := rfl
@[simp] theorem exec_vshl (o : VBin) (s : State) : exec (.vshl o) s = execVshl o s := rfl
@[simp] theorem exec_vshr (o : VBin) (s : State) : exec (.vshr o) s = execVshr o s := rfl
@[simp] theorem exec_vsar (o : VBin) (s : State) : exec (.vsar o) s = execVsar o s := rfl
@[simp] theorem exec_vcmpeq (o : VCmp) (s : State) : exec (.vcmpeq o) s = execVcmpeq o s := rfl
@[simp] theorem exec_vcmpne (o : VCmp) (s : State) : exec (.vcmpne o) s = execVcmpne o s := rfl
@[simp] theorem exec_vcmplt (o : VCmp) (s : State) : exec (.vcmplt o) s = execVcmplt o s := rfl
@[simp] theorem exec_vcmpge (o : VCmp) (s : State) : exec (.vcmpge o) s = execVcmpge o s := rfl
@[simp] theorem exec_vcmpgt (o : VCmp) (s : State) : exec (.vcmpgt o) s = execVcmpgt o s := rfl
@[simp] theorem exec_vcmple (o : VCmp) (s : State) : exec (.vcmple o) s = execVcmple o s := rfl
@[simp] theorem exec_vcmpun (o : VCmp) (s : State) : exec (.vcmpun o) s = execVcmpun o s := rfl
@[simp] theorem exec_vcmpor (o : VCmp) (s : State) : exec (.vcmpor o) s = execVcmpor o s := rfl
@[simp] theorem exec_vcvt (dst : Ty) (o : VUn) (p : BitVec 4) (sat : Bool) (s : State) : exec (.vcvt dst o p sat) s = execVcvt dst o p sat s := rfl
@[simp] theorem exec_vrsum (t : Ty) (vd : VReg) (va : VReg) (mask : MReg) (s : State) : exec (.vrsum t vd va mask) s = execVrsum t vd va mask s := rfl
@[simp] theorem exec_vrmax (t : Ty) (vd : VReg) (va : VReg) (mask : MReg) (s : State) : exec (.vrmax t vd va mask) s = execVrmax t vd va mask s := rfl
@[simp] theorem exec_vrmin (t : Ty) (vd : VReg) (va : VReg) (mask : MReg) (s : State) : exec (.vrmin t vd va mask) s = execVrmin t vd va mask s := rfl
@[simp] theorem exec_vperm (t : Ty) (vd : VReg) (va : VReg) (vb : VReg) (mask : MReg) (z : Bool) (s : State) : exec (.vperm t vd va vb mask z) s = execVperm t vd va vb mask z s := rfl
@[simp] theorem exec_vbcast (t : Ty) (vd : VReg) (va : VReg) (j : BitVec 6) (mask : MReg) (z : Bool) (s : State) : exec (.vbcast t vd va j mask z) s = execVbcast t vd va j mask z s := rfl
@[simp] theorem exec_vrot (t : Ty) (vd : VReg) (va : VReg) (j : BitVec 6) (mask : MReg) (z : Bool) (s : State) : exec (.vrot t vd va j mask z) s = execVrot t vd va j mask z s := rfl
@[simp] theorem exec_vzip (t : Ty) (vd : VReg) (va : VReg) (vb : VReg) (h : Bool) (mask : MReg) (z : Bool) (s : State) : exec (.vzip t vd va vb h mask z) s = execVzip t vd va vb h mask z s := rfl
@[simp] theorem exec_vunzip (t : Ty) (vd : VReg) (va : VReg) (vb : VReg) (h : Bool) (mask : MReg) (z : Bool) (s : State) : exec (.vunzip t vd va vb h mask z) s = execVunzip t vd va vb h mask z s := rfl
@[simp] theorem exec_vsel (t : Ty) (vd : VReg) (va : VReg) (b : BOp) (mask : MReg) (s : State) : exec (.vsel t vd va b mask) s = execVsel t vd va b mask s := rfl
@[simp] theorem exec_mand (t : Ty) (d : MReg) (a : MReg) (b : MReg) (s : State) : exec (.mand t d a b) s = execMand t d a b s := rfl
@[simp] theorem exec_mor (t : Ty) (d : MReg) (a : MReg) (b : MReg) (s : State) : exec (.mor t d a b) s = execMor t d a b s := rfl
@[simp] theorem exec_mxor (t : Ty) (d : MReg) (a : MReg) (b : MReg) (s : State) : exec (.mxor t d a b) s = execMxor t d a b s := rfl
@[simp] theorem exec_mnot (t : Ty) (d : MReg) (a : MReg) (s : State) : exec (.mnot t d a) s = execMnot t d a s := rfl
@[simp] theorem exec_mpop (t : Ty) (n : WReg) (a : MReg) (s : State) : exec (.mpop t n a) s = execMpop t n a s := rfl
@[simp] theorem exec_mfirst (t : Ty) (n : WReg) (a : MReg) (s : State) : exec (.mfirst t n a) s = execMfirst t n a s := rfl
@[simp] theorem exec_vins (t : Ty) (vd : VReg) (n : WReg) (j : BitVec 6) (s : State) : exec (.vins t vd n j) s = execVins t vd n j s := rfl
@[simp] theorem exec_vext (t : Ty) (n : WReg) (va : VReg) (j : BitVec 6) (s : State) : exec (.vext t n va j) s = execVext t n va j s := rfl
@[simp] theorem exec_vgath (vd : VReg) (m : MemOp) (vs : VReg) (mask : MReg) (s : State) : exec (.vgath vd m vs mask) s = execVgath vd m vs mask s := rfl
@[simp] theorem exec_vscat (vd : VReg) (m : MemOp) (vs : VReg) (mask : MReg) (s : State) : exec (.vscat vd m vs mask) s = execVscat vd m vs mask s := rfl
@[simp] theorem exec_lsum (t : Ty) (d : WReg) (m : MemOp) (mask : MReg) (s : State) : exec (.lsum t d m mask) s = execLsum t d m mask s := rfl
@[simp] theorem exec_lmax (t : Ty) (d : WReg) (m : MemOp) (mask : MReg) (s : State) : exec (.lmax t d m mask) s = execLmax t d m mask s := rfl
@[simp] theorem exec_lmin (t : Ty) (d : WReg) (m : MemOp) (mask : MReg) (s : State) : exec (.lmin t d m mask) s = execLmin t d m mask s := rfl
@[simp] theorem exec_lscale (t : Ty) (d : WReg) (m : MemOp) (mask : MReg) (s : State) : exec (.lscale t d m mask) s = execLscale t d m mask s := rfl
@[simp] theorem exec_qnt (fmt : BitVec 8) (t : Ty) (vd : VReg) (va : VReg) (vc : VReg) (n : WReg) (s : State) : exec (.qnt fmt t vd va vc n) s = execQnt fmt t vd va vc n s := rfl
@[simp] theorem exec_qntg (fmt : BitVec 8) (t : Ty) (vd : VReg) (va : VReg) (vc : VReg) (n : WReg) (s : State) : exec (.qntg fmt t vd va vc n) s = execQntg fmt t vd va vc n s := rfl
@[simp] theorem exec_dqnt (fmt : BitVec 8) (t : Ty) (vd : VReg) (va : VReg) (n : WReg) (rm : Rm) (s : State) : exec (.dqnt fmt t vd va n rm) s = execDqnt fmt t vd va n rm s := rfl
@[simp] theorem exec_ldvt (vd : VReg) (m : MemOp) (sr : WReg) (s : State) : exec (.ldvt vd m sr) s = execLdvt vd m sr s := rfl
@[simp] theorem exec_stvt (vd : VReg) (m : MemOp) (sr : WReg) (s : State) : exec (.stvt vd m sr) s = execStvt vd m sr s := rfl
@[simp] theorem exec_bdot (vd : VReg) (va : VReg) (vb : VReg) (n : WReg) (s : State) : exec (.bdot vd va vb n) s = execBdot vd va vb n s := rfl
@[simp] theorem exec_bscale (vd : VReg) (va : VReg) (n : WReg) (delta : BitVec 8) (s : State) : exec (.bscale vd va n delta) s = execBscale vd va n delta s := rfl
@[simp] theorem exec_accld (t : TileReg) (m : MemOp) (sr : WReg) (s : State) : exec (.accld t m sr) s = execAccld t m sr s := rfl
@[simp] theorem exec_accst (t : TileReg) (m : MemOp) (sr : WReg) (s : State) : exec (.accst t m sr) s = execAccst t m sr s := rfl
@[simp] theorem exec_acczero (t : TileReg) (s : State) : exec (.acczero t) s = execAcczero t s := rfl
@[simp] theorem exec_mmd (t : TileReg) (ka : KReg) (kb : KReg) (c : WReg) (s : State) : exec (.mmd t ka kb c) s = execMmd t ka kb c s := rfl
@[simp] theorem exec_mms (t : TileReg) (ka : KReg) (kb : KReg) (c : WReg) (s : State) : exec (.mms t ka kb c) s = execMms t ka kb c s := rfl
@[simp] theorem exec_mmu (t : TileReg) (ka : KReg) (kb : KReg) (c : WReg) (s : State) : exec (.mmu t ka kb c) s = execMmu t ka kb c s := rfl
@[simp] theorem exec_mmus (t : TileReg) (ka : KReg) (kb : KReg) (c : WReg) (s : State) : exec (.mmus t ka kb c) s = execMmus t ka kb c s := rfl
@[simp] theorem exec_ufcfg (a : WReg) (s : State) : exec (.ufcfg a) s = execUfcfg a s := rfl
@[simp] theorem exec_send (ka : KReg) (b : WReg) (len : BitVec 6) (s : State) : exec (.send ka b len) s = execSend ka b len s := rfl
@[simp] theorem exec_sendk (ka : KReg) (b : WReg) (kc : KReg) (len : BitVec 6) (s : State) : exec (.sendk ka b kc len) s = execSendk ka b kc len s := rfl
@[simp] theorem exec_recv (d : WReg) (ka : KReg) (kc : KReg) (s : State) : exec (.recv d ka kc) s = execRecv d ka kc s := rfl
@[simp] theorem exec_tryrecv (d : WReg) (ka : KReg) (kc : KReg) (s : State) : exec (.tryrecv d ka kc) s = execTryrecv d ka kc s := rfl
@[simp] theorem exec_ringmk (ka : KReg) (b : WReg) (s : State) : exec (.ringmk ka b) s = execRingmk ka b s := rfl
@[simp] theorem exec_ringsend (kd : KReg) (ka : KReg) (b : WReg) (tag : BitVec 16) (s : State) : exec (.ringsend kd ka b tag) s = execRingsend kd ka b tag s := rfl
@[simp] theorem exec_ringfree (ka : KReg) (s : State) : exec (.ringfree ka) s = execRingfree ka s := rfl
@[simp] theorem exec_tsend (ka : KReg) (b : WReg) (c : WReg) (len : BitVec 6) (s : State) : exec (.tsend ka b c len) s = execTsend ka b c len s := rfl
@[simp] theorem exec_tsendk (kd : KReg) (ka : KReg) (b : WReg) (c : WReg) (len : BitVec 6) (s : State) : exec (.tsendk kd ka b c len) s = execTsendk kd ka b c len s := rfl
@[simp] theorem exec_trecv (d : WReg) (ka : KReg) (kc : KReg) (s : State) : exec (.trecv d ka kc) s = execTrecv d ka kc s := rfl
@[simp] theorem exec_ckpt (a : WReg) (s : State) : exec (.ckpt a) s = execCkpt a s := rfl
@[simp] theorem exec_rollb (s : State) : exec (.rollb) s = execRollb s := rfl
@[simp] theorem exec_recall (kd : KReg) (a : WReg) (s : State) : exec (.recall kd a) s = execRecall kd a s := rfl
@[simp] theorem exec_deferStore (a : WReg) (kb : KReg) (c : WReg) (len : BitVec 6) (s : State) : exec (.deferStore a kb c len) s = execDeferStore a kb c len s := rfl
@[simp] theorem exec_deferSend (a : WReg) (kb : KReg) (c : WReg) (len : BitVec 6) (s : State) : exec (.deferSend a kb c len) s = execDeferSend a kb c len s := rfl
@[simp] theorem exec_deferNotify (a : WReg) (c : WReg) (len : BitVec 6) (s : State) : exec (.deferNotify a c len) s = execDeferNotify a c len s := rfl
@[simp] theorem exec_gvtrd (d : WReg) (s : State) : exec (.gvtrd d) s = execGvtrd d s := rfl
@[simp] theorem exec_gvtwait (a : WReg) (s : State) : exec (.gvtwait a) s = execGvtwait a s := rfl
@[simp] theorem exec_garm (g : GReg) (a : WReg) (s : State) : exec (.garm g a) s = execGarm g a s := rfl
@[simp] theorem exec_garr (g : GReg) (s : State) : exec (.garr g) s = execGarr g s := rfl
@[simp] theorem exec_gwait (d : WReg) (g : GReg) (s : State) : exec (.gwait d g) s = execGwait d g s := rfl
@[simp] theorem exec_garred (g : GReg) (a : WReg) (s : State) : exec (.garred g a) s = execGarred g a s := rfl
@[simp] theorem exec_gtest (d : WReg) (g : GReg) (s : State) : exec (.gtest d g) s = execGtest d g s := rfl
@[simp] theorem exec_hjoin (ka : KReg) (b : WReg) (s : State) : exec (.hjoin ka b) s = execHjoin ka b s := rfl
@[simp] theorem exec_hdetach (ka : KReg) (b : WReg) (s : State) : exec (.hdetach ka b) s = execHdetach ka b s := rfl
@[simp] theorem exec_hleave (ka : KReg) (s : State) : exec (.hleave ka) s = execHleave ka s := rfl
@[simp] theorem exec_hpush (q : QReg) (a : WReg) (s : State) : exec (.hpush q a) s = execHpush q a s := rfl
@[simp] theorem exec_hpop (d : WReg) (q : QReg) (s : State) : exec (.hpop d q) s = execHpop d q s := rfl
@[simp] theorem exec_hpoll (d : WReg) (q : QReg) (s : State) : exec (.hpoll d q) s = execHpoll d q s := rfl
@[simp] theorem exec_mbput (mb : MbReg) (a : WReg) (kb : KReg) (kc : KReg) (s : State) : exec (.mbput mb a kb kc) s = execMbput mb a kb kc s := rfl
@[simp] theorem exec_mbget (d : WReg) (mb : MbReg) (s : State) : exec (.mbget d mb) s = execMbget d mb s := rfl
@[simp] theorem exec_cpstartCap (ch : ChReg) (ka : KReg) (kb : KReg) (c : WReg) (s : State) : exec (.cpstartCap ch ka kb c) s = execCpstartCap ch ka kb c s := rfl
@[simp] theorem exec_cpstartAddr (ch : ChReg) (c : WReg) (s : State) : exec (.cpstartAddr ch c) s = execCpstartAddr ch c s := rfl
@[simp] theorem exec_cpmcast (ch : ChReg) (ka : KReg) (kb : KReg) (c : WReg) (s : State) : exec (.cpmcast ch ka kb c) s = execCpmcast ch ka kb c s := rfl
@[simp] theorem exec_cpwait (ch : ChReg) (s : State) : exec (.cpwait ch) s = execCpwait ch s := rfl
@[simp] theorem exec_cpstat (d : WReg) (ch : ChReg) (s : State) : exec (.cpstat d ch) s = execCpstat d ch s := rfl
@[simp] theorem exec_cpwm (d : WReg) (ch : ChReg) (s : State) : exec (.cpwm d ch) s = execCpwm d ch s := rfl
@[simp] theorem exec_cpcancel (ch : ChReg) (s : State) : exec (.cpcancel ch) s = execCpcancel ch s := rfl
@[simp] theorem exec_spr (d : WReg) (sel : BitVec 8) (s : State) : exec (.spr d sel) s = execSpr d sel s := rfl
@[simp] theorem exec_spw (sel : BitVec 8) (a : WReg) (s : State) : exec (.spw sel a) s = execSpw sel a s := rfl
@[simp] theorem exec_evret (s : State) : exec (.evret) s = execEvret s := rfl
@[simp] theorem exec_fackReplay (d : WReg) (a : WReg) (s : State) : exec (.fackReplay d a) s = execFackReplay d a s := rfl
@[simp] theorem exec_fackSkip (d : WReg) (a : WReg) (s : State) : exec (.fackSkip d a) s = execFackSkip d a s := rfl
@[simp] theorem exec_fackTerminate (d : WReg) (a : WReg) (s : State) : exec (.fackTerminate d a) s = execFackTerminate d a s := rfl
@[simp] theorem exec_ctxstop (d : WReg) (a : WReg) (s : State) : exec (.ctxstop d a) s = execCtxstop d a s := rfl
@[simp] theorem exec_ctxgo (d : WReg) (a : WReg) (s : State) : exec (.ctxgo d a) s = execCtxgo d a s := rfl
@[simp] theorem exec_xinvEntry (a : WReg) (b : WReg) (s : State) : exec (.xinvEntry a b) s = execXinvEntry a b s := rfl
@[simp] theorem exec_xinvAsid (a : WReg) (b : WReg) (s : State) : exec (.xinvAsid a b) s = execXinvAsid a b s := rfl
@[simp] theorem exec_xinvAll (a : WReg) (b : WReg) (s : State) : exec (.xinvAll a b) s = execXinvAll a b s := rfl
@[simp] theorem exec_xreplay (a : WReg) (s : State) : exec (.xreplay a) s = execXreplay a s := rfl
@[simp] theorem exec_slotr (d : WReg) (a : WReg) (s : State) : exec (.slotr d a) s = execSlotr d a s := rfl
@[simp] theorem exec_wipe (d : WReg) (ka : KReg) (s : State) : exec (.wipe d ka) s = execWipe d ka s := rfl

end Sys2Proof.Machine
end

