-- ==== Sys2Proof/Laws/Fields.lean ====
section
/-! SUPPORT. The fields of a packed word, and the codes of the field types, for the round trip of decode and encode. -/

namespace Sys2Proof

/-! Codes. -/

@[simp] theorem Rm.ofCode_code (r : Rm) : Rm.ofCode r.code = r := by cases r <;> rfl
@[simp] theorem Ty.ofCode_code (t : Ty) : Ty.ofCode t.code = some t := by cases t <;> rfl
@[simp] theorem FTy.ofCode_code (t : FTy) : FTy.ofCode t.ty.code = some t := by cases t <;> rfl
@[simp] theorem ATy.ofCode_code (t : ATy) : ATy.ofCode t.ty.code = some t := by cases t <;> rfl
@[simp] theorem Rm.ofCode_zero : Rm.ofCode 0#2 = .rne := rfl
@[simp] theorem Ty.ofCode_f32 : Ty.ofCode 10#4 = some .f32 := rfl

/-! A field of a word put together from parts. -/

/-- A slice of the upper part of an append. -/
theorem slice_high {n m : Nat} (x : BitVec n) (y : BitVec m) (s l : Nat) (h : m ≤ s) :
    (x ++ y).extractLsb' s l = x.extractLsb' (s - m) l := by
  ext i hi
  have : ¬ s + i < m := by omega
  simp [BitVec.getElem_extractLsb', BitVec.getLsbD_append, this, show s + i - m = s - m + i by omega]

/-- A slice of the lower part of an append. -/
theorem slice_low {n m : Nat} (x : BitVec n) (y : BitVec m) (s l : Nat) (h : s + l ≤ m) :
    (x ++ y).extractLsb' s l = y.extractLsb' s l := by
  ext i hi
  have : s + i < m := by omega
  simp [BitVec.getElem_extractLsb', BitVec.getLsbD_append, this]

/-- A slice that is the whole lower part of an append. -/
theorem slice_here {n m : Nat} (x : BitVec n) (y : BitVec m) : (x ++ y).extractLsb' 0 m = y := by
  ext i hi
  simp [BitVec.getLsbD_append, hi]

/-- A slice of all the bits. -/
theorem slice_all {n : Nat} (x : BitVec n) : x.extractLsb' 0 n = x := by
  ext i hi
  simp [BitVec.getElem_extractLsb', hi]

/-- A bit of the upper part of an append, and a bit that stands alone as the lower part. -/
theorem bit_high {n m : Nat} (x : BitVec n) (y : BitVec m) (s : Nat) (h : m ≤ s) : (x ++ y).getLsbD s = x.getLsbD (s - m) := by
  rw [BitVec.getLsbD_append, if_neg (by omega)]
theorem bit_low {n : Nat} (x : BitVec n) (b : Bool) : (x ++ BitVec.ofBool b).getLsbD 0 = b := by
  rw [BitVec.getLsbD_append, if_pos Nat.one_pos]
  cases b <;> rfl

/-- A bit that stands alone above others. -/
theorem bit_here {n m : Nat} (x : BitVec n) (b : Bool) (y : BitVec m) : (x ++ BitVec.ofBool b ++ y).getLsbD m = b := by
  rw [BitVec.getLsbD_append, if_neg (Nat.lt_irrefl m), Nat.sub_self, BitVec.getLsbD_append, if_pos Nat.one_pos]
  cases b <;> rfl

/-! Fields of packG. -/

@[simp] theorem fMajor_packG (major func : BitVec 8) (d a b c : WReg) (rm : BitVec 2) (imm : BitVec 48) :
    fMajor (packG major func d a b c rm imm) = major := by
  show (major ++ func ++ d ++ a ++ b ++ c ++ rm ++ 0#2 ++ imm).extractLsb' 88 8 = major
  rw [slice_high, slice_high, slice_high, slice_high, slice_high, slice_high, slice_high, slice_high, slice_all] <;> decide

@[simp] theorem fFunc_packG (major func : BitVec 8) (d a b c : WReg) (rm : BitVec 2) (imm : BitVec 48) :
    fFunc (packG major func d a b c rm imm) = func := by
  show (major ++ func ++ d ++ a ++ b ++ c ++ rm ++ 0#2 ++ imm).extractLsb' 80 8 = func
  rw [slice_high, slice_high, slice_high, slice_high, slice_high, slice_high, slice_high, slice_here] <;> decide

@[simp] theorem gD_packG (major func : BitVec 8) (d a b c : WReg) (rm : BitVec 2) (imm : BitVec 48) :
    gD (packG major func d a b c rm imm) = d := by
  show (major ++ func ++ d ++ a ++ b ++ c ++ rm ++ 0#2 ++ imm).extractLsb' 73 7 = d
  rw [slice_high, slice_high, slice_high, slice_high, slice_high, slice_high, slice_here] <;> decide

@[simp] theorem gA_packG (major func : BitVec 8) (d a b c : WReg) (rm : BitVec 2) (imm : BitVec 48) :
    gA (packG major func d a b c rm imm) = a := by
  show (major ++ func ++ d ++ a ++ b ++ c ++ rm ++ 0#2 ++ imm).extractLsb' 66 7 = a
  rw [slice_high, slice_high, slice_high, slice_high, slice_high, slice_here] <;> decide

@[simp] theorem gB_packG (major func : BitVec 8) (d a b c : WReg) (rm : BitVec 2) (imm : BitVec 48) :
    gB (packG major func d a b c rm imm) = b := by
  show (major ++ func ++ d ++ a ++ b ++ c ++ rm ++ 0#2 ++ imm).extractLsb' 59 7 = b
  rw [slice_high, slice_high, slice_high, slice_high, slice_here] <;> decide

@[simp] theorem gC_packG (major func : BitVec 8) (d a b c : WReg) (rm : BitVec 2) (imm : BitVec 48) :
    gC (packG major func d a b c rm imm) = c := by
  show (major ++ func ++ d ++ a ++ b ++ c ++ rm ++ 0#2 ++ imm).extractLsb' 52 7 = c
  rw [slice_high, slice_high, slice_high, slice_here] <;> decide

@[simp] theorem gRm_packG (major func : BitVec 8) (d a b c : WReg) (rm : BitVec 2) (imm : BitVec 48) :
    gRm (packG major func d a b c rm imm) = rm := by
  show (major ++ func ++ d ++ a ++ b ++ c ++ rm ++ 0#2 ++ imm).extractLsb' 50 2 = rm
  rw [slice_high, slice_high, slice_here] <;> decide

@[simp] theorem gImm_packG (major func : BitVec 8) (d a b c : WReg) (rm : BitVec 2) (imm : BitVec 48) :
    gImm (packG major func d a b c rm imm) = imm := by
  show (major ++ func ++ d ++ a ++ b ++ c ++ rm ++ 0#2 ++ imm).extractLsb' 0 48 = imm
  rw [slice_here]

/-! Fields of packM. -/

@[simp] theorem fMajor_packM (major func : BitVec 8) (d : WReg) (m : MemOp) (s : WReg) (acq rel : Bool) :
    fMajor (packM major func d m s acq rel) = major := by
  show (major ++ func ++ d ++ m.k ++ m.x ++ BitVec.ofBool m.xen ++ m.sh ++ s ++ BitVec.ofBool acq ++ BitVec.ofBool rel ++ 0#1 ++ m.disp).extractLsb' 88 8 = major
  rw [slice_high, slice_high, slice_high, slice_high, slice_high, slice_high, slice_high, slice_high, slice_high, slice_high, slice_high, slice_all] <;> decide

@[simp] theorem fFunc_packM (major func : BitVec 8) (d : WReg) (m : MemOp) (s : WReg) (acq rel : Bool) :
    fFunc (packM major func d m s acq rel) = func := by
  show (major ++ func ++ d ++ m.k ++ m.x ++ BitVec.ofBool m.xen ++ m.sh ++ s ++ BitVec.ofBool acq ++ BitVec.ofBool rel ++ 0#1 ++ m.disp).extractLsb' 80 8 = func
  rw [slice_high, slice_high, slice_high, slice_high, slice_high, slice_high, slice_high, slice_high, slice_high, slice_high, slice_here] <;> decide

@[simp] theorem mD_packM (major func : BitVec 8) (d : WReg) (m : MemOp) (s : WReg) (acq rel : Bool) :
    mD (packM major func d m s acq rel) = d := by
  show (major ++ func ++ d ++ m.k ++ m.x ++ BitVec.ofBool m.xen ++ m.sh ++ s ++ BitVec.ofBool acq ++ BitVec.ofBool rel ++ 0#1 ++ m.disp).extractLsb' 73 7 = d
  rw [slice_high, slice_high, slice_high, slice_high, slice_high, slice_high, slice_high, slice_high, slice_high, slice_here] <;> decide

@[simp] theorem mK_packM (major func : BitVec 8) (d : WReg) (m : MemOp) (s : WReg) (acq rel : Bool) :
    mK (packM major func d m s acq rel) = m.k := by
  show (major ++ func ++ d ++ m.k ++ m.x ++ BitVec.ofBool m.xen ++ m.sh ++ s ++ BitVec.ofBool acq ++ BitVec.ofBool rel ++ 0#1 ++ m.disp).extractLsb' 69 4 = m.k
  rw [slice_high, slice_high, slice_high, slice_high, slice_high, slice_high, slice_high, slice_high, slice_here] <;> decide

@[simp] theorem mX_packM (major func : BitVec 8) (d : WReg) (m : MemOp) (s : WReg) (acq rel : Bool) :
    mX (packM major func d m s acq rel) = m.x := by
  show (major ++ func ++ d ++ m.k ++ m.x ++ BitVec.ofBool m.xen ++ m.sh ++ s ++ BitVec.ofBool acq ++ BitVec.ofBool rel ++ 0#1 ++ m.disp).extractLsb' 62 7 = m.x
  rw [slice_high, slice_high, slice_high, slice_high, slice_high, slice_high, slice_high, slice_here] <;> decide

@[simp] theorem mXen_packM (major func : BitVec 8) (d : WReg) (m : MemOp) (s : WReg) (acq rel : Bool) :
    mXen (packM major func d m s acq rel) = m.xen := by
  show (major ++ func ++ d ++ m.k ++ m.x ++ BitVec.ofBool m.xen ++ m.sh ++ s ++ BitVec.ofBool acq ++ BitVec.ofBool rel ++ 0#1 ++ m.disp).getLsbD 61 = m.xen
  rw [bit_high, bit_high, bit_high, bit_high, bit_high, bit_high, bit_low] <;> decide

@[simp] theorem mSh_packM (major func : BitVec 8) (d : WReg) (m : MemOp) (s : WReg) (acq rel : Bool) :
    mSh (packM major func d m s acq rel) = m.sh := by
  show (major ++ func ++ d ++ m.k ++ m.x ++ BitVec.ofBool m.xen ++ m.sh ++ s ++ BitVec.ofBool acq ++ BitVec.ofBool rel ++ 0#1 ++ m.disp).extractLsb' 58 3 = m.sh
  rw [slice_high, slice_high, slice_high, slice_high, slice_high, slice_here] <;> decide

@[simp] theorem mS_packM (major func : BitVec 8) (d : WReg) (m : MemOp) (s : WReg) (acq rel : Bool) :
    mS (packM major func d m s acq rel) = s := by
  show (major ++ func ++ d ++ m.k ++ m.x ++ BitVec.ofBool m.xen ++ m.sh ++ s ++ BitVec.ofBool acq ++ BitVec.ofBool rel ++ 0#1 ++ m.disp).extractLsb' 51 7 = s
  rw [slice_high, slice_high, slice_high, slice_high, slice_here] <;> decide

@[simp] theorem mAcq_packM (major func : BitVec 8) (d : WReg) (m : MemOp) (s : WReg) (acq rel : Bool) :
    mAcq (packM major func d m s acq rel) = acq := by
  show (major ++ func ++ d ++ m.k ++ m.x ++ BitVec.ofBool m.xen ++ m.sh ++ s ++ BitVec.ofBool acq ++ BitVec.ofBool rel ++ 0#1 ++ m.disp).getLsbD 50 = acq
  rw [bit_high, bit_high, bit_high, bit_low] <;> decide

@[simp] theorem mRel_packM (major func : BitVec 8) (d : WReg) (m : MemOp) (s : WReg) (acq rel : Bool) :
    mRel (packM major func d m s acq rel) = rel := by
  show (major ++ func ++ d ++ m.k ++ m.x ++ BitVec.ofBool m.xen ++ m.sh ++ s ++ BitVec.ofBool acq ++ BitVec.ofBool rel ++ 0#1 ++ m.disp).getLsbD 49 = rel
  rw [bit_high, bit_high, bit_low] <;> decide

@[simp] theorem mDisp_packM (major func : BitVec 8) (d : WReg) (m : MemOp) (s : WReg) (acq rel : Bool) :
    mDisp (packM major func d m s acq rel) = m.disp := by
  show (major ++ func ++ d ++ m.k ++ m.x ++ BitVec.ofBool m.xen ++ m.sh ++ s ++ BitVec.ofBool acq ++ BitVec.ofBool rel ++ 0#1 ++ m.disp).extractLsb' 0 48 = m.disp
  rw [slice_here]

@[simp] theorem mOperand_packM (major func : BitVec 8) (d : WReg) (m : MemOp) (s : WReg) (acq rel : Bool) :
    mOperand (packM major func d m s acq rel) = m := by
  simp [mOperand]

/-! Fields of packVf. -/

@[simp] theorem fMajor_packVf (major func : BitVec 8) (vd va vb vc : VReg) (mask : MReg) (ty : BitVec 4) (rm : BitVec 2) (z : Bool) (bsel : BitVec 2) (imm : BitVec 48) :
    fMajor (packVf major func vd va vb vc mask ty rm z bsel imm) = major := by
  show (major ++ func ++ vd ++ va ++ vb ++ vc ++ mask ++ ty ++ rm ++ BitVec.ofBool z ++ bsel ++ 0#4 ++ imm).extractLsb' 88 8 = major
  rw [slice_high, slice_high, slice_high, slice_high, slice_high, slice_high, slice_high, slice_high, slice_high, slice_high, slice_high, slice_high, slice_all] <;> decide

@[simp] theorem fFunc_packVf (major func : BitVec 8) (vd va vb vc : VReg) (mask : MReg) (ty : BitVec 4) (rm : BitVec 2) (z : Bool) (bsel : BitVec 2) (imm : BitVec 48) :
    fFunc (packVf major func vd va vb vc mask ty rm z bsel imm) = func := by
  show (major ++ func ++ vd ++ va ++ vb ++ vc ++ mask ++ ty ++ rm ++ BitVec.ofBool z ++ bsel ++ 0#4 ++ imm).extractLsb' 80 8 = func
  rw [slice_high, slice_high, slice_high, slice_high, slice_high, slice_high, slice_high, slice_high, slice_high, slice_high, slice_high, slice_here] <;> decide

@[simp] theorem vVd_packVf (major func : BitVec 8) (vd va vb vc : VReg) (mask : MReg) (ty : BitVec 4) (rm : BitVec 2) (z : Bool) (bsel : BitVec 2) (imm : BitVec 48) :
    vVd (packVf major func vd va vb vc mask ty rm z bsel imm) = vd := by
  show (major ++ func ++ vd ++ va ++ vb ++ vc ++ mask ++ ty ++ rm ++ BitVec.ofBool z ++ bsel ++ 0#4 ++ imm).extractLsb' 76 4 = vd
  rw [slice_high, slice_high, slice_high, slice_high, slice_high, slice_high, slice_high, slice_high, slice_high, slice_high, slice_here] <;> decide

@[simp] theorem vVa_packVf (major func : BitVec 8) (vd va vb vc : VReg) (mask : MReg) (ty : BitVec 4) (rm : BitVec 2) (z : Bool) (bsel : BitVec 2) (imm : BitVec 48) :
    vVa (packVf major func vd va vb vc mask ty rm z bsel imm) = va := by
  show (major ++ func ++ vd ++ va ++ vb ++ vc ++ mask ++ ty ++ rm ++ BitVec.ofBool z ++ bsel ++ 0#4 ++ imm).extractLsb' 72 4 = va
  rw [slice_high, slice_high, slice_high, slice_high, slice_high, slice_high, slice_high, slice_high, slice_high, slice_here] <;> decide

@[simp] theorem vVb_packVf (major func : BitVec 8) (vd va vb vc : VReg) (mask : MReg) (ty : BitVec 4) (rm : BitVec 2) (z : Bool) (bsel : BitVec 2) (imm : BitVec 48) :
    vVb (packVf major func vd va vb vc mask ty rm z bsel imm) = vb := by
  show (major ++ func ++ vd ++ va ++ vb ++ vc ++ mask ++ ty ++ rm ++ BitVec.ofBool z ++ bsel ++ 0#4 ++ imm).extractLsb' 68 4 = vb
  rw [slice_high, slice_high, slice_high, slice_high, slice_high, slice_high, slice_high, slice_high, slice_here] <;> decide

@[simp] theorem vVc_packVf (major func : BitVec 8) (vd va vb vc : VReg) (mask : MReg) (ty : BitVec 4) (rm : BitVec 2) (z : Bool) (bsel : BitVec 2) (imm : BitVec 48) :
    vVc (packVf major func vd va vb vc mask ty rm z bsel imm) = vc := by
  show (major ++ func ++ vd ++ va ++ vb ++ vc ++ mask ++ ty ++ rm ++ BitVec.ofBool z ++ bsel ++ 0#4 ++ imm).extractLsb' 64 4 = vc
  rw [slice_high, slice_high, slice_high, slice_high, slice_high, slice_high, slice_high, slice_here] <;> decide

@[simp] theorem vMask_packVf (major func : BitVec 8) (vd va vb vc : VReg) (mask : MReg) (ty : BitVec 4) (rm : BitVec 2) (z : Bool) (bsel : BitVec 2) (imm : BitVec 48) :
    vMask (packVf major func vd va vb vc mask ty rm z bsel imm) = mask := by
  show (major ++ func ++ vd ++ va ++ vb ++ vc ++ mask ++ ty ++ rm ++ BitVec.ofBool z ++ bsel ++ 0#4 ++ imm).extractLsb' 61 3 = mask
  rw [slice_high, slice_high, slice_high, slice_high, slice_high, slice_high, slice_here] <;> decide

@[simp] theorem vTy_packVf (major func : BitVec 8) (vd va vb vc : VReg) (mask : MReg) (ty : BitVec 4) (rm : BitVec 2) (z : Bool) (bsel : BitVec 2) (imm : BitVec 48) :
    vTy (packVf major func vd va vb vc mask ty rm z bsel imm) = ty := by
  show (major ++ func ++ vd ++ va ++ vb ++ vc ++ mask ++ ty ++ rm ++ BitVec.ofBool z ++ bsel ++ 0#4 ++ imm).extractLsb' 57 4 = ty
  rw [slice_high, slice_high, slice_high, slice_high, slice_high, slice_here] <;> decide

@[simp] theorem vRm_packVf (major func : BitVec 8) (vd va vb vc : VReg) (mask : MReg) (ty : BitVec 4) (rm : BitVec 2) (z : Bool) (bsel : BitVec 2) (imm : BitVec 48) :
    vRm (packVf major func vd va vb vc mask ty rm z bsel imm) = rm := by
  show (major ++ func ++ vd ++ va ++ vb ++ vc ++ mask ++ ty ++ rm ++ BitVec.ofBool z ++ bsel ++ 0#4 ++ imm).extractLsb' 55 2 = rm
  rw [slice_high, slice_high, slice_high, slice_high, slice_here] <;> decide

@[simp] theorem vZ_packVf (major func : BitVec 8) (vd va vb vc : VReg) (mask : MReg) (ty : BitVec 4) (rm : BitVec 2) (z : Bool) (bsel : BitVec 2) (imm : BitVec 48) :
    vZ (packVf major func vd va vb vc mask ty rm z bsel imm) = z := by
  show (major ++ func ++ vd ++ va ++ vb ++ vc ++ mask ++ ty ++ rm ++ BitVec.ofBool z ++ bsel ++ 0#4 ++ imm).getLsbD 54 = z
  rw [bit_high, bit_high, bit_high, bit_low] <;> decide

@[simp] theorem vBsel_packVf (major func : BitVec 8) (vd va vb vc : VReg) (mask : MReg) (ty : BitVec 4) (rm : BitVec 2) (z : Bool) (bsel : BitVec 2) (imm : BitVec 48) :
    vBsel (packVf major func vd va vb vc mask ty rm z bsel imm) = bsel := by
  show (major ++ func ++ vd ++ va ++ vb ++ vc ++ mask ++ ty ++ rm ++ BitVec.ofBool z ++ bsel ++ 0#4 ++ imm).extractLsb' 52 2 = bsel
  rw [slice_high, slice_high, slice_here] <;> decide

@[simp] theorem vImm_packVf (major func : BitVec 8) (vd va vb vc : VReg) (mask : MReg) (ty : BitVec 4) (rm : BitVec 2) (z : Bool) (bsel : BitVec 2) (imm : BitVec 48) :
    vImm (packVf major func vd va vb vc mask ty rm z bsel imm) = imm := by
  show (major ++ func ++ vd ++ va ++ vb ++ vc ++ mask ++ ty ++ rm ++ BitVec.ofBool z ++ bsel ++ 0#4 ++ imm).extractLsb' 0 48 = imm
  rw [slice_here]

/-- A format-V word whose form has no bsel is one whose bsel is 0. -/
@[simp] theorem packVi_eq (major func : BitVec 8) (vd va vb vc : VReg) (mask : MReg) (ty : BitVec 4) (rm : BitVec 2) (z : Bool) (imm : BitVec 48) :
    packVi major func vd va vb vc mask ty rm z imm = packVf major func vd va vb vc mask ty rm z 0 imm := rfl

/-! Fields of packB. -/

@[simp] theorem fMajor_packB (major func : BitVec 8) (d a b : WReg) (kc : KReg) (t : Target) :
    fMajor (packB major func d a b kc t) = major := by
  show (major ++ func ++ d ++ a ++ b ++ kc ++ 0#7 ++ t.disp ++ t.slot).extractLsb' 88 8 = major
  rw [slice_high, slice_high, slice_high, slice_high, slice_high, slice_high, slice_high, slice_high, slice_all] <;> decide

@[simp] theorem fFunc_packB (major func : BitVec 8) (d a b : WReg) (kc : KReg) (t : Target) :
    fFunc (packB major func d a b kc t) = func := by
  show (major ++ func ++ d ++ a ++ b ++ kc ++ 0#7 ++ t.disp ++ t.slot).extractLsb' 80 8 = func
  rw [slice_high, slice_high, slice_high, slice_high, slice_high, slice_high, slice_high, slice_here] <;> decide

@[simp] theorem bD_packB (major func : BitVec 8) (d a b : WReg) (kc : KReg) (t : Target) :
    bD (packB major func d a b kc t) = d := by
  show (major ++ func ++ d ++ a ++ b ++ kc ++ 0#7 ++ t.disp ++ t.slot).extractLsb' 73 7 = d
  rw [slice_high, slice_high, slice_high, slice_high, slice_high, slice_high, slice_here] <;> decide

@[simp] theorem bA_packB (major func : BitVec 8) (d a b : WReg) (kc : KReg) (t : Target) :
    bA (packB major func d a b kc t) = a := by
  show (major ++ func ++ d ++ a ++ b ++ kc ++ 0#7 ++ t.disp ++ t.slot).extractLsb' 66 7 = a
  rw [slice_high, slice_high, slice_high, slice_high, slice_high, slice_here] <;> decide

@[simp] theorem bB_packB (major func : BitVec 8) (d a b : WReg) (kc : KReg) (t : Target) :
    bB (packB major func d a b kc t) = b := by
  show (major ++ func ++ d ++ a ++ b ++ kc ++ 0#7 ++ t.disp ++ t.slot).extractLsb' 59 7 = b
  rw [slice_high, slice_high, slice_high, slice_high, slice_here] <;> decide

@[simp] theorem bKc_packB (major func : BitVec 8) (d a b : WReg) (kc : KReg) (t : Target) :
    bKc (packB major func d a b kc t) = kc := by
  show (major ++ func ++ d ++ a ++ b ++ kc ++ 0#7 ++ t.disp ++ t.slot).extractLsb' 55 4 = kc
  rw [slice_high, slice_high, slice_high, slice_here] <;> decide

@[simp] theorem bTarget_packB (major func : BitVec 8) (d a b : WReg) (kc : KReg) (t : Target) :
    bTarget (packB major func d a b kc t) = t := by
  have h1 : (major ++ func ++ d ++ a ++ b ++ kc ++ 0#7 ++ t.disp ++ t.slot).extractLsb' 3 45 = t.disp := by rw [slice_high, slice_here]; decide
  have h2 : (major ++ func ++ d ++ a ++ b ++ kc ++ 0#7 ++ t.disp ++ t.slot).extractLsb' 0 3 = t.slot := slice_here _ _
  exact congrArg₂ Target.mk h1 h2

/-! A format-V word whose second operand is chosen by bsel, and a compare-skip. -/

@[simp] theorem fMajor_packV (major func : BitVec 8) (vd va vc : VReg) (mask : MReg) (ty : BitVec 4) (rm : BitVec 2) (z : Bool) (b : BOp) :
    fMajor (packV major func vd va vc mask ty rm z b) = major := by
  cases b <;> simp [packV]

@[simp] theorem fFunc_packV (major func : BitVec 8) (vd va vc : VReg) (mask : MReg) (ty : BitVec 4) (rm : BitVec 2) (z : Bool) (b : BOp) :
    fFunc (packV major func vd va vc mask ty rm z b) = func := by
  cases b <;> simp [packV]

@[simp] theorem vVd_packV (major func : BitVec 8) (vd va vc : VReg) (mask : MReg) (ty : BitVec 4) (rm : BitVec 2) (z : Bool) (b : BOp) :
    vVd (packV major func vd va vc mask ty rm z b) = vd := by
  cases b <;> simp [packV]

@[simp] theorem vVa_packV (major func : BitVec 8) (vd va vc : VReg) (mask : MReg) (ty : BitVec 4) (rm : BitVec 2) (z : Bool) (b : BOp) :
    vVa (packV major func vd va vc mask ty rm z b) = va := by
  cases b <;> simp [packV]

@[simp] theorem vVc_packV (major func : BitVec 8) (vd va vc : VReg) (mask : MReg) (ty : BitVec 4) (rm : BitVec 2) (z : Bool) (b : BOp) :
    vVc (packV major func vd va vc mask ty rm z b) = vc := by
  cases b <;> simp [packV]

@[simp] theorem vMask_packV (major func : BitVec 8) (vd va vc : VReg) (mask : MReg) (ty : BitVec 4) (rm : BitVec 2) (z : Bool) (b : BOp) :
    vMask (packV major func vd va vc mask ty rm z b) = mask := by
  cases b <;> simp [packV]

@[simp] theorem vTy_packV (major func : BitVec 8) (vd va vc : VReg) (mask : MReg) (ty : BitVec 4) (rm : BitVec 2) (z : Bool) (b : BOp) :
    vTy (packV major func vd va vc mask ty rm z b) = ty := by
  cases b <;> simp [packV]

@[simp] theorem vRm_packV (major func : BitVec 8) (vd va vc : VReg) (mask : MReg) (ty : BitVec 4) (rm : BitVec 2) (z : Bool) (b : BOp) :
    vRm (packV major func vd va vc mask ty rm z b) = rm := by
  cases b <;> simp [packV]

@[simp] theorem vZ_packV (major func : BitVec 8) (vd va vc : VReg) (mask : MReg) (ty : BitVec 4) (rm : BitVec 2) (z : Bool) (b : BOp) :
    vZ (packV major func vd va vc mask ty rm z b) = z := by
  cases b <;> simp [packV]

@[simp] theorem vOperand_packV (major func : BitVec 8) (vd va vc : VReg) (mask : MReg) (ty : BitVec 4) (rm : BitVec 2) (z : Bool) (b : BOp) :
    vOperand (packV major func vd va vc mask ty rm z b) = some b := by
  cases b <;> simp [packV, vOperand]

@[simp] theorem fMajor_packS (func : BitVec 8) (a : WReg) (q : SkipOp) (n : BitVec 2) :
    fMajor (packS func a q n) = 0x30#8 := by
  cases q with
  | reg b =>
    show (0x30#8 ++ func ++ 0#7 ++ a ++ b ++ 0#4 ++ n ++ 0#1 ++ 0#4 ++ 0#48).extractLsb' 88 8 = 0x30#8
    rw [slice_high, slice_high, slice_high, slice_high, slice_high, slice_high, slice_high, slice_high, slice_high, slice_all] <;> decide
  | imm i =>
    show (0x30#8 ++ func ++ 0#7 ++ a ++ 0#7 ++ 0#4 ++ n ++ 1#1 ++ 0#4 ++ i).extractLsb' 88 8 = 0x30#8
    rw [slice_high, slice_high, slice_high, slice_high, slice_high, slice_high, slice_high, slice_high, slice_high, slice_all] <;> decide

@[simp] theorem fFunc_packS (func : BitVec 8) (a : WReg) (q : SkipOp) (n : BitVec 2) :
    fFunc (packS func a q n) = func := by
  cases q with
  | reg b =>
    show (0x30#8 ++ func ++ 0#7 ++ a ++ b ++ 0#4 ++ n ++ 0#1 ++ 0#4 ++ 0#48).extractLsb' 80 8 = func
    rw [slice_high, slice_high, slice_high, slice_high, slice_high, slice_high, slice_high, slice_high, slice_here] <;> decide
  | imm i =>
    show (0x30#8 ++ func ++ 0#7 ++ a ++ 0#7 ++ 0#4 ++ n ++ 1#1 ++ 0#4 ++ i).extractLsb' 80 8 = func
    rw [slice_high, slice_high, slice_high, slice_high, slice_high, slice_high, slice_high, slice_high, slice_here] <;> decide

@[simp] theorem sA_packS (func : BitVec 8) (a : WReg) (q : SkipOp) (n : BitVec 2) :
    sA (packS func a q n) = a := by
  cases q with
  | reg b =>
    show (0x30#8 ++ func ++ 0#7 ++ a ++ b ++ 0#4 ++ n ++ 0#1 ++ 0#4 ++ 0#48).extractLsb' 66 7 = a
    rw [slice_high, slice_high, slice_high, slice_high, slice_high, slice_high, slice_here] <;> decide
  | imm i =>
    show (0x30#8 ++ func ++ 0#7 ++ a ++ 0#7 ++ 0#4 ++ n ++ 1#1 ++ 0#4 ++ i).extractLsb' 66 7 = a
    rw [slice_high, slice_high, slice_high, slice_high, slice_high, slice_high, slice_here] <;> decide

@[simp] theorem sN_packS (func : BitVec 8) (a : WReg) (q : SkipOp) (n : BitVec 2) :
    sN (packS func a q n) = n := by
  cases q with
  | reg b =>
    show (0x30#8 ++ func ++ 0#7 ++ a ++ b ++ 0#4 ++ n ++ 0#1 ++ 0#4 ++ 0#48).extractLsb' 53 2 = n
    rw [slice_high, slice_high, slice_high, slice_here] <;> decide
  | imm i =>
    show (0x30#8 ++ func ++ 0#7 ++ a ++ 0#7 ++ 0#4 ++ n ++ 1#1 ++ 0#4 ++ i).extractLsb' 53 2 = n
    rw [slice_high, slice_high, slice_high, slice_here] <;> decide

@[simp] theorem sOperand_packS (func : BitVec 8) (a : WReg) (q : SkipOp) (n : BitVec 2) :
    sOperand (packS func a q n) = q := by
  cases q with
  | reg b =>
    have h1 : (0x30#8 ++ func ++ 0#7 ++ a ++ b ++ 0#4 ++ n ++ 0#1 ++ 0#4 ++ 0#48).getLsbD 52 = false := by
      rw [bit_high, bit_high, BitVec.getLsbD_append] <;> first | rfl | decide
    have h2 : (0x30#8 ++ func ++ 0#7 ++ a ++ b ++ 0#4 ++ n ++ 0#1 ++ 0#4 ++ 0#48).extractLsb' 59 7 = b := by rw [slice_high, slice_high, slice_high, slice_high, slice_high, slice_here] <;> decide
    simp only [sOperand, packS, h1, h2, if_false, Bool.false_eq_true]
  | imm i =>
    have h1 : (0x30#8 ++ func ++ 0#7 ++ a ++ 0#7 ++ 0#4 ++ n ++ 1#1 ++ 0#4 ++ i).getLsbD 52 = true := by
      rw [bit_high, bit_high, BitVec.getLsbD_append] <;> first | rfl | decide
    have h2 : (0x30#8 ++ func ++ 0#7 ++ a ++ 0#7 ++ 0#4 ++ n ++ 1#1 ++ 0#4 ++ i).extractLsb' 0 48 = i := slice_here _ _
    simp only [sOperand, packS, h1, h2, if_true]

/-! Fields of the function byte. -/

theorem fOp_func (w : InstWord) : fOp w = (fFunc w).extractLsb' 4 4 := by
  ext i hi
  simp [fOp, fFunc, hi, show 4 + i < 8 by omega, show 80 + (4 + i) = 84 + i by omega]
theorem fTy_func (w : InstWord) : fTy w = (fFunc w).extractLsb' 0 4 := by
  ext i hi
  simp [fTy, fFunc, hi, show i < 8 by omega]
/-- The halves of a function byte put together from two codes. -/
@[simp] theorem high_append (x y : BitVec 4) : (x ++ y).extractLsb' 4 4 = x := by
  rw [slice_high, slice_all]
  decide
@[simp] theorem low_append (x y : BitVec 4) : (x ++ y).extractLsb' 0 4 = y := slice_here x y

/-! Parts of an immediate put together from two or three fields. -/

@[simp] theorem low_part {n m : Nat} (x : BitVec n) (y : BitVec m) : (x ++ y).setWidth m = y := by
  ext i hi
  rw [BitVec.getElem_setWidth, BitVec.getLsbD_append, if_pos hi, BitVec.getLsbD_eq_getElem hi]
@[simp] theorem top_bit {m : Nat} (b : Bool) (y : BitVec m) (h : m < 1 + m) : (BitVec.ofBool b ++ y)[m] = b := by
  simp [BitVec.getElem_append]
@[simp] theorem high_part {n m : Nat} (x : BitVec n) (y : BitVec m) : (x ++ y).extractLsb' m n = x := by
  rw [slice_high _ _ _ _ (Nat.le_refl m), Nat.sub_self, slice_all]
/-- A slice of a wider word. -/
theorem slice_wide {n k : Nat} (x : BitVec n) (s l : Nat) (h : n ≤ k) : (x.setWidth k).extractLsb' s l = x.extractLsb' s l := by
  ext i hi
  have : n ≤ s + i → x.getLsbD (s + i) = false := fun h' => BitVec.getLsbD_of_ge x _ h'
  by_cases hk : s + i < k
  · simp [BitVec.getElem_extractLsb', hk]
  · simp [BitVec.getElem_extractLsb', hk, this (by omega)]
@[simp] theorem wide_high {n m : Nat} (x : BitVec n) (y : BitVec m) (h : n + m ≤ 48) : ((x ++ y).setWidth 48).extractLsb' m n = x := by
  rw [slice_wide _ _ _ h, high_part]
@[simp] theorem wide_high_gap {n : Nat} (x : BitVec n) (z : BitVec 7) (h : n + 1 + 7 ≤ 48) : ((x ++ 0#1 ++ z).setWidth 48).extractLsb' 8 n = x := by
  rw [slice_wide _ _ _ h, slice_high _ _ _ _ (by decide : (7 : Nat) ≤ 8)]
  exact high_part x 0#1
@[simp] theorem code_wide (c : BitVec 4) : (c.setWidth 8).extractLsb' 0 4 = c := by rw [slice_wide _ _ _ (by decide), slice_all]
@[simp] theorem low_mod (x : BitVec 6) (y : BitVec 8) : (x ++ y).toNat % 4 = y.toNat % 4 := by
  rw [BitVec.toNat_append, Nat.shiftLeft_eq, Nat.mul_comm, ← Nat.two_pow_add_eq_or_of_lt y.isLt]
  omega

end Sys2Proof
end

