-- ==== Sys2Proof/Laws/Map.lean ====
section
/-! SUPPORT. Maps: a read after a write, and the canonical form. -/

namespace Sys2Proof.Machine

variable {α : Type}

/-- Every key above `k` is above what `k` is above. -/
theorem Map.above_mono {b k : Nat} (h : b ≤ k) : ∀ {m : Map α}, Map.above k m = true → Map.above b m = true := by
  intro m hm
  simp only [Map.above, List.all_eq_true, decide_eq_true_eq] at hm ⊢
  exact fun p hp => lt_of_le_of_lt h (hm p hp)

/-- A key below every key of a map is not listed. -/
theorem mget_above (d : α) {a : Nat} : ∀ {m : Map α}, Map.above a m = true → mget d m a = d
  | [], _ => rfl
  | (k, x) :: r, h => by
    simp only [Map.above, List.all_cons, Bool.and_eq_true, decide_eq_true_eq] at h
    have hk : k ≠ a := by omega
    simp [mget, hk, mget_above d (m := r) (by simpa [Map.above] using h.2)]

/-- A read of the key listed gives the value listed. -/
theorem mget_mset_same (d : α) (a : Nat) (v : α) : ∀ m : Map α, mget d (mset m a v) a = v
  | [] => by simp [mset, mget]
  | (k, x) :: r => by
    by_cases h1 : a < k
    · simp [mset, mget, h1]
    · by_cases h2 : a = k
      · simp [mset, mget, h2]
      · simp [mset, mget, h1, h2, Ne.symm h2, mget_mset_same d a v r]

/-- Listing a key leaves every other key alone. -/
theorem mget_mset_other (d : α) {a b : Nat} (v : α) (h : a ≠ b) : ∀ m : Map α, mget d (mset m a v) b = mget d m b
  | [] => by simp [mset, mget, h]
  | (k, x) :: r => by
    by_cases h1 : a < k
    · simp [mset, mget, h1, h]
    · by_cases h2 : a = k
      · simp [mset, mget, h2, h2 ▸ h]
      · simp [mset, mget, h1, h2, mget_mset_other d v h r]

/-- A key that is left out reads as the unlisted value. -/
theorem mget_erase_same (d : α) (a : Nat) : ∀ m : Map α, mget d (m.filter fun p => decide (p.1 ≠ a)) a = d
  | [] => rfl
  | (k, x) :: r => by
    have ih := mget_erase_same d a r
    by_cases h : k = a
    · simpa [List.filter, h] using ih
    · simpa [List.filter, h, mget] using ih

/-- Leaving out a key leaves every other key alone. -/
theorem mget_erase_other (d : α) {a b : Nat} (h : a ≠ b) : ∀ m : Map α, mget d (m.filter fun p => decide (p.1 ≠ a)) b = mget d m b
  | [] => rfl
  | (k, x) :: r => by
    have ih := mget_erase_other d h r
    by_cases hk : k = a
    · simpa [List.filter, mget, hk, h] using ih
    · simp only [List.filter, hk, ne_eq, not_false_eq_true, decide_true, mget]
      split
      · rfl
      · simpa using ih

variable [DecidableEq α]

/-- A read of the key written gives the value written. -/
@[simp] theorem mget_mput_same (d : α) (m : Map α) (a : Nat) (v : α) : mget d (mput d m a v) a = v := by
  by_cases hv : v = d
  · rw [mput, if_pos hv, hv, mget_erase_same]
  · rw [mput, if_neg hv, mget_mset_same]

/-- A write leaves every other key alone. -/
theorem mget_mput_other (d : α) (m : Map α) {a b : Nat} (v : α) (h : a ≠ b) : mget d (mput d m a v) b = mget d m b := by
  by_cases hv : v = d
  · rw [mput, if_pos hv, mget_erase_other d h]
  · rw [mput, if_neg hv, mget_mset_other d v h]

/-- A read after a write, at any key. -/
theorem mget_mput (d : α) (m : Map α) (a b : Nat) (v : α) : mget d (mput d m a v) b = if a = b then v else mget d m b := by
  split
  next h => rw [h, mget_mput_same]
  next h => exact mget_mput_other d m v h

omit [DecidableEq α] in
/-- Listing a key above a bound keeps every key above it. -/
theorem Map.above_mset {b a : Nat} {v : α} (hab : b < a) : ∀ {m : Map α}, Map.above b m = true → Map.above b (mset m a v) = true
  | [], _ => by simp [mset, Map.above, hab]
  | (k, x) :: r, h => by
    have hk : b < k ∧ Map.above b r = true := by simpa [Map.above] using h
    have ih := Map.above_mset (v := v) hab hk.2
    simp only [Map.above] at ih
    by_cases h1 : a < k
    · simpa [mset, h1, Map.above, hab] using hk
    · by_cases h2 : a = k
      · simpa [mset, h2, Map.above] using hk
      · simpa [mset, h1, h2, Map.above, hk.1] using ih

/-- Listing a key with a listable value keeps the canonical form. -/
theorem Map.wf_mset (d : α) {a : Nat} {v : α} (hv : v ≠ d) : ∀ {m : Map α}, Map.wf d m = true → Map.wf d (mset m a v) = true
  | [], _ => by simp [mset, Map.wf, Map.above, hv]
  | (k, x) :: r, h => by
    have h' := h
    simp only [Map.wf, Bool.and_eq_true] at h
    obtain ⟨⟨hx, hr⟩, hw⟩ := h
    by_cases h1 : a < k
    · have hab : Map.above a r = true := Map.above_mono (by omega) hr
      simp only [mset, h1, if_true, Map.wf, Bool.and_eq_true]
      refine ⟨⟨by simpa using hv, ?_⟩, ⟨hx, hr⟩, hw⟩
      simpa [Map.above, h1] using hab
    · by_cases h2 : a = k
      · subst h2
        simp [mset, hv, Map.wf, hr, hw]
      · simp only [mset, h1, if_false, h2, Map.wf, Bool.and_eq_true]
        exact ⟨⟨hx, Map.above_mset (by omega) hr⟩, Map.wf_mset d hv hw⟩

/-- Leaving out keys keeps the canonical form. -/
theorem Map.wf_filter (d : α) (q : Nat × α → Bool) : ∀ {m : Map α}, Map.wf d m = true → Map.wf d (m.filter q) = true
  | [], _ => rfl
  | (k, x) :: r, h => by
    simp only [Map.wf, Bool.and_eq_true] at h
    obtain ⟨⟨hx, hr⟩, hw⟩ := h
    have ih := Map.wf_filter d q hw
    by_cases hq : q (k, x) = true
    · simp only [List.filter, hq, Map.wf, Bool.and_eq_true]
      refine ⟨⟨hx, ?_⟩, ih⟩
      simp only [Map.above, List.all_eq_true, decide_eq_true_eq] at hr ⊢
      exact fun p hp => hr p (List.mem_filter.mp hp).1
    · simpa [List.filter, hq] using ih

/-- A write keeps the canonical form. -/
theorem Map.wf_mput (d : α) {m : Map α} (h : Map.wf d m = true) (a : Nat) (v : α) : Map.wf d (mput d m a v) = true := by
  by_cases hv : v = d
  · rw [mput, if_pos hv]
    exact Map.wf_filter d _ h
  · rw [mput, if_neg hv]
    exact Map.wf_mset d hv h

/-- A fold keeps what each of its steps keeps. -/
theorem foldl_keeps {β σ : Type} {p : σ → Prop} {f : σ → β → σ} (hf : ∀ s x, p s → p (f s x)) : ∀ {xs : List β} {s : σ}, p s → p (xs.foldl f s)
  | [], _, h => h
  | x :: xs, s, h => foldl_keeps hf (xs := xs) (hf s x h)

/-- A fold leaves alone what each of its steps leaves alone. -/
theorem foldl_same {β σ γ : Type} {g : σ → γ} {f : σ → β → σ} (hf : ∀ s x, g (f s x) = g s) : ∀ (xs : List β) (s : σ), g (xs.foldl f s) = g s
  | [], _ => rfl
  | x :: xs, s => by rw [List.foldl_cons, foldl_same hf xs, hf]

end Sys2Proof.Machine
end

