-- ==== Sys2Proof/Laws/State.lean ====
section
/-! SUPPORT. Every field of the state after every named update of it. -/

namespace Sys2Proof.Machine

namespace State

/-! After `setCtx`. -/

@[simp] theorem ctxs_setCtx (s : State) (c : Nat) (x : Ctx) : (s.setCtx c x).ctxs = mput Ctx.reset s.ctxs c x := rfl
@[simp] theorem cores_setCtx (s : State) (c : Nat) (x : Ctx) : (s.setCtx c x).cores = s.cores := rfl
@[simp] theorem barns_setCtx (s : State) (c : Nat) (x : Ctx) : (s.setCtx c x).barns = s.barns := rfl
@[simp] theorem regs_setCtx (s : State) (c : Nat) (x : Ctx) : (s.setCtx c x).regs = s.regs := rfl
@[simp] theorem tiles_setCtx (s : State) (c : Nat) (x : Ctx) : (s.setCtx c x).tiles = s.tiles := rfl
@[simp] theorem mem_setCtx (s : State) (c : Nat) (x : Ctx) : (s.setCtx c x).mem = s.mem := rfl
@[simp] theorem tags_setCtx (s : State) (c : Nat) (x : Ctx) : (s.setCtx c x).tags = s.tags := rfl
@[simp] theorem slots_setCtx (s : State) (c : Nat) (x : Ctx) : (s.setCtx c x).slots = s.slots := rfl
@[simp] theorem poison_setCtx (s : State) (c : Nat) (x : Ctx) : (s.setCtx c x).poison = s.poison := rfl
@[simp] theorem stale_setCtx (s : State) (c : Nat) (x : Ctx) : (s.setCtx c x).stale = s.stale := rfl
@[simp] theorem seals_setCtx (s : State) (c : Nat) (x : Ctx) : (s.setCtx c x).seals = s.seals := rfl
@[simp] theorem reports_setCtx (s : State) (c : Nat) (x : Ctx) : (s.setCtx c x).reports = s.reports := rfl
@[simp] theorem images_setCtx (s : State) (c : Nat) (x : Ctx) : (s.setCtx c x).images = s.images := rfl
@[simp] theorem dead_setCtx (s : State) (c : Nat) (x : Ctx) : (s.setCtx c x).dead = s.dead := rfl
@[simp] theorem posted_setCtx (s : State) (c : Nat) (x : Ctx) : (s.setCtx c x).posted = s.posted := rfl
@[simp] theorem rings_setCtx (s : State) (c : Nat) (x : Ctx) : (s.setCtx c x).rings = s.rings := rfl
@[simp] theorem msgs_setCtx (s : State) (c : Nat) (x : Ctx) : (s.setCtx c x).msgs = s.msgs := rfl
@[simp] theorem regions_setCtx (s : State) (c : Nat) (x : Ctx) : (s.setCtx c x).regions = s.regions := rfl
@[simp] theorem stations_setCtx (s : State) (c : Nat) (x : Ctx) : (s.setCtx c x).stations = s.stations := rfl
@[simp] theorem yards_setCtx (s : State) (c : Nat) (x : Ctx) : (s.setCtx c x).yards = s.yards := rfl
@[simp] theorem engines_setCtx (s : State) (c : Nat) (x : Ctx) : (s.setCtx c x).engines = s.engines := rfl
@[simp] theorem ports_setCtx (s : State) (c : Nat) (x : Ctx) : (s.setCtx c x).ports = s.ports := rfl
@[simp] theorem row_setCtx (s : State) (c : Nat) (x : Ctx) : (s.setCtx c x).row = s.row := rfl
@[simp] theorem col_setCtx (s : State) (c : Nat) (x : Ctx) : (s.setCtx c x).col = s.col := rfl
@[simp] theorem sent_setCtx (s : State) (c : Nat) (x : Ctx) : (s.setCtx c x).sent = s.sent := rfl
@[simp] theorem txs_setCtx (s : State) (c : Nat) (x : Ctx) : (s.setCtx c x).txs = s.txs := rfl
@[simp] theorem hitches_setCtx (s : State) (c : Nat) (x : Ctx) : (s.setCtx c x).hitches = s.hitches := rfl
@[simp] theorem hitchGen_setCtx (s : State) (c : Nat) (x : Ctx) : (s.setCtx c x).hitchGen = s.hitchGen := rfl
@[simp] theorem launches_setCtx (s : State) (c : Nat) (x : Ctx) : (s.setCtx c x).launches = s.launches := rfl
@[simp] theorem queues_setCtx (s : State) (c : Nat) (x : Ctx) : (s.setCtx c x).queues = s.queues := rfl
@[simp] theorem tdis_setCtx (s : State) (c : Nat) (x : Ctx) : (s.setCtx c x).tdis = s.tdis := rfl
@[simp] theorem sessions_setCtx (s : State) (c : Nat) (x : Ctx) : (s.setCtx c x).sessions = s.sessions := rfl
@[simp] theorem epochs_setCtx (s : State) (c : Nat) (x : Ctx) : (s.setCtx c x).epochs = s.epochs := rfl
@[simp] theorem alarms_setCtx (s : State) (c : Nat) (x : Ctx) : (s.setCtx c x).alarms = s.alarms := rfl
@[simp] theorem debugged_setCtx (s : State) (c : Nat) (x : Ctx) : (s.setCtx c x).debugged = s.debugged := rfl
@[simp] theorem keys_setCtx (s : State) (c : Nat) (x : Ctx) : (s.setCtx c x).keys = s.keys := rfl
@[simp] theorem receipts_setCtx (s : State) (c : Nat) (x : Ctx) : (s.setCtx c x).receipts = s.receipts := rfl
@[simp] theorem boot_setCtx (s : State) (c : Nat) (x : Ctx) : (s.setCtx c x).boot = s.boot := rfl
@[simp] theorem power_setCtx (s : State) (c : Nat) (x : Ctx) : (s.setCtx c x).power = s.power := rfl
@[simp] theorem throttle_setCtx (s : State) (c : Nat) (x : Ctx) : (s.setCtx c x).throttle = s.throttle := rfl
@[simp] theorem extents_setCtx (s : State) (c : Nat) (x : Ctx) : (s.setCtx c x).extents = s.extents := rfl
@[simp] theorem cycle_setCtx (s : State) (c : Nat) (x : Ctx) : (s.setCtx c x).cycle = s.cycle := rfl
@[simp] theorem agenda_setCtx (s : State) (c : Nat) (x : Ctx) : (s.setCtx c x).agenda = s.agenda := rfl
@[simp] theorem work_setCtx (s : State) (c : Nat) (x : Ctx) : (s.setCtx c x).work = s.work := rfl
@[simp] theorem todo_setCtx (s : State) (c : Nat) (x : Ctx) : (s.setCtx c x).todo = s.todo := rfl
@[simp] theorem passed_setCtx (s : State) (c : Nat) (x : Ctx) : (s.setCtx c x).passed = s.passed := rfl
@[simp] theorem cur_setCtx (s : State) (c : Nat) (x : Ctx) : (s.setCtx c x).cur = s.cur := rfl
@[simp] theorem stamp_setCtx (s : State) (c : Nat) (x : Ctx) : (s.setCtx c x).stamp = s.stamp := rfl
@[simp] theorem focus_setCtx (s : State) (c : Nat) (x : Ctx) : (s.setCtx c x).focus = s.focus := rfl
@[simp] theorem answers_setCtx (s : State) (c : Nat) (x : Ctx) : (s.setCtx c x).answers = s.answers := rfl
@[simp] theorem free_setCtx (s : State) (c : Nat) (x : Ctx) : (s.setCtx c x).free = s.free := rfl
@[simp] theorem pick_setCtx (s : State) (c : Nat) (x : Ctx) : (s.setCtx c x).pick = s.pick := rfl
@[simp] theorem testing_setCtx (s : State) (c : Nat) (x : Ctx) : (s.setCtx c x).testing = s.testing := rfl
@[simp] theorem ideKeys_setCtx (s : State) (c : Nat) (x : Ctx) : (s.setCtx c x).ideKeys = s.ideKeys := rfl
@[simp] theorem slow_setCtx (s : State) (c : Nat) (x : Ctx) : (s.setCtx c x).slow = s.slow := rfl

/-! After `setCore`. -/

@[simp] theorem ctxs_setCore (s : State) (i : Nat) (x : Core) : (s.setCore i x).ctxs = s.ctxs := rfl
@[simp] theorem cores_setCore (s : State) (i : Nat) (x : Core) : (s.setCore i x).cores = mput Core.reset s.cores i x := rfl
@[simp] theorem barns_setCore (s : State) (i : Nat) (x : Core) : (s.setCore i x).barns = s.barns := rfl
@[simp] theorem regs_setCore (s : State) (i : Nat) (x : Core) : (s.setCore i x).regs = s.regs := rfl
@[simp] theorem tiles_setCore (s : State) (i : Nat) (x : Core) : (s.setCore i x).tiles = s.tiles := rfl
@[simp] theorem mem_setCore (s : State) (i : Nat) (x : Core) : (s.setCore i x).mem = s.mem := rfl
@[simp] theorem tags_setCore (s : State) (i : Nat) (x : Core) : (s.setCore i x).tags = s.tags := rfl
@[simp] theorem slots_setCore (s : State) (i : Nat) (x : Core) : (s.setCore i x).slots = s.slots := rfl
@[simp] theorem poison_setCore (s : State) (i : Nat) (x : Core) : (s.setCore i x).poison = s.poison := rfl
@[simp] theorem stale_setCore (s : State) (i : Nat) (x : Core) : (s.setCore i x).stale = s.stale := rfl
@[simp] theorem seals_setCore (s : State) (i : Nat) (x : Core) : (s.setCore i x).seals = s.seals := rfl
@[simp] theorem reports_setCore (s : State) (i : Nat) (x : Core) : (s.setCore i x).reports = s.reports := rfl
@[simp] theorem images_setCore (s : State) (i : Nat) (x : Core) : (s.setCore i x).images = s.images := rfl
@[simp] theorem dead_setCore (s : State) (i : Nat) (x : Core) : (s.setCore i x).dead = s.dead := rfl
@[simp] theorem posted_setCore (s : State) (i : Nat) (x : Core) : (s.setCore i x).posted = s.posted := rfl
@[simp] theorem rings_setCore (s : State) (i : Nat) (x : Core) : (s.setCore i x).rings = s.rings := rfl
@[simp] theorem msgs_setCore (s : State) (i : Nat) (x : Core) : (s.setCore i x).msgs = s.msgs := rfl
@[simp] theorem regions_setCore (s : State) (i : Nat) (x : Core) : (s.setCore i x).regions = s.regions := rfl
@[simp] theorem stations_setCore (s : State) (i : Nat) (x : Core) : (s.setCore i x).stations = s.stations := rfl
@[simp] theorem yards_setCore (s : State) (i : Nat) (x : Core) : (s.setCore i x).yards = s.yards := rfl
@[simp] theorem engines_setCore (s : State) (i : Nat) (x : Core) : (s.setCore i x).engines = s.engines := rfl
@[simp] theorem ports_setCore (s : State) (i : Nat) (x : Core) : (s.setCore i x).ports = s.ports := rfl
@[simp] theorem row_setCore (s : State) (i : Nat) (x : Core) : (s.setCore i x).row = s.row := rfl
@[simp] theorem col_setCore (s : State) (i : Nat) (x : Core) : (s.setCore i x).col = s.col := rfl
@[simp] theorem sent_setCore (s : State) (i : Nat) (x : Core) : (s.setCore i x).sent = s.sent := rfl
@[simp] theorem txs_setCore (s : State) (i : Nat) (x : Core) : (s.setCore i x).txs = s.txs := rfl
@[simp] theorem hitches_setCore (s : State) (i : Nat) (x : Core) : (s.setCore i x).hitches = s.hitches := rfl
@[simp] theorem hitchGen_setCore (s : State) (i : Nat) (x : Core) : (s.setCore i x).hitchGen = s.hitchGen := rfl
@[simp] theorem launches_setCore (s : State) (i : Nat) (x : Core) : (s.setCore i x).launches = s.launches := rfl
@[simp] theorem queues_setCore (s : State) (i : Nat) (x : Core) : (s.setCore i x).queues = s.queues := rfl
@[simp] theorem tdis_setCore (s : State) (i : Nat) (x : Core) : (s.setCore i x).tdis = s.tdis := rfl
@[simp] theorem sessions_setCore (s : State) (i : Nat) (x : Core) : (s.setCore i x).sessions = s.sessions := rfl
@[simp] theorem epochs_setCore (s : State) (i : Nat) (x : Core) : (s.setCore i x).epochs = s.epochs := rfl
@[simp] theorem alarms_setCore (s : State) (i : Nat) (x : Core) : (s.setCore i x).alarms = s.alarms := rfl
@[simp] theorem debugged_setCore (s : State) (i : Nat) (x : Core) : (s.setCore i x).debugged = s.debugged := rfl
@[simp] theorem keys_setCore (s : State) (i : Nat) (x : Core) : (s.setCore i x).keys = s.keys := rfl
@[simp] theorem receipts_setCore (s : State) (i : Nat) (x : Core) : (s.setCore i x).receipts = s.receipts := rfl
@[simp] theorem boot_setCore (s : State) (i : Nat) (x : Core) : (s.setCore i x).boot = s.boot := rfl
@[simp] theorem power_setCore (s : State) (i : Nat) (x : Core) : (s.setCore i x).power = s.power := rfl
@[simp] theorem throttle_setCore (s : State) (i : Nat) (x : Core) : (s.setCore i x).throttle = s.throttle := rfl
@[simp] theorem extents_setCore (s : State) (i : Nat) (x : Core) : (s.setCore i x).extents = s.extents := rfl
@[simp] theorem cycle_setCore (s : State) (i : Nat) (x : Core) : (s.setCore i x).cycle = s.cycle := rfl
@[simp] theorem agenda_setCore (s : State) (i : Nat) (x : Core) : (s.setCore i x).agenda = s.agenda := rfl
@[simp] theorem work_setCore (s : State) (i : Nat) (x : Core) : (s.setCore i x).work = s.work := rfl
@[simp] theorem todo_setCore (s : State) (i : Nat) (x : Core) : (s.setCore i x).todo = s.todo := rfl
@[simp] theorem passed_setCore (s : State) (i : Nat) (x : Core) : (s.setCore i x).passed = s.passed := rfl
@[simp] theorem cur_setCore (s : State) (i : Nat) (x : Core) : (s.setCore i x).cur = s.cur := rfl
@[simp] theorem stamp_setCore (s : State) (i : Nat) (x : Core) : (s.setCore i x).stamp = s.stamp := rfl
@[simp] theorem focus_setCore (s : State) (i : Nat) (x : Core) : (s.setCore i x).focus = s.focus := rfl
@[simp] theorem answers_setCore (s : State) (i : Nat) (x : Core) : (s.setCore i x).answers = s.answers := rfl
@[simp] theorem free_setCore (s : State) (i : Nat) (x : Core) : (s.setCore i x).free = s.free := rfl
@[simp] theorem pick_setCore (s : State) (i : Nat) (x : Core) : (s.setCore i x).pick = s.pick := rfl
@[simp] theorem testing_setCore (s : State) (i : Nat) (x : Core) : (s.setCore i x).testing = s.testing := rfl
@[simp] theorem ideKeys_setCore (s : State) (i : Nat) (x : Core) : (s.setCore i x).ideKeys = s.ideKeys := rfl
@[simp] theorem slow_setCore (s : State) (i : Nat) (x : Core) : (s.setCore i x).slow = s.slow := rfl

/-! After `setBarn`. -/

@[simp] theorem ctxs_setBarn (s : State) (b : Nat) (x : Barn) : (s.setBarn b x).ctxs = s.ctxs := rfl
@[simp] theorem cores_setBarn (s : State) (b : Nat) (x : Barn) : (s.setBarn b x).cores = s.cores := rfl
@[simp] theorem barns_setBarn (s : State) (b : Nat) (x : Barn) : (s.setBarn b x).barns = mput Barn.reset s.barns b x := rfl
@[simp] theorem regs_setBarn (s : State) (b : Nat) (x : Barn) : (s.setBarn b x).regs = s.regs := rfl
@[simp] theorem tiles_setBarn (s : State) (b : Nat) (x : Barn) : (s.setBarn b x).tiles = s.tiles := rfl
@[simp] theorem mem_setBarn (s : State) (b : Nat) (x : Barn) : (s.setBarn b x).mem = s.mem := rfl
@[simp] theorem tags_setBarn (s : State) (b : Nat) (x : Barn) : (s.setBarn b x).tags = s.tags := rfl
@[simp] theorem slots_setBarn (s : State) (b : Nat) (x : Barn) : (s.setBarn b x).slots = s.slots := rfl
@[simp] theorem poison_setBarn (s : State) (b : Nat) (x : Barn) : (s.setBarn b x).poison = s.poison := rfl
@[simp] theorem stale_setBarn (s : State) (b : Nat) (x : Barn) : (s.setBarn b x).stale = s.stale := rfl
@[simp] theorem seals_setBarn (s : State) (b : Nat) (x : Barn) : (s.setBarn b x).seals = s.seals := rfl
@[simp] theorem reports_setBarn (s : State) (b : Nat) (x : Barn) : (s.setBarn b x).reports = s.reports := rfl
@[simp] theorem images_setBarn (s : State) (b : Nat) (x : Barn) : (s.setBarn b x).images = s.images := rfl
@[simp] theorem dead_setBarn (s : State) (b : Nat) (x : Barn) : (s.setBarn b x).dead = s.dead := rfl
@[simp] theorem posted_setBarn (s : State) (b : Nat) (x : Barn) : (s.setBarn b x).posted = s.posted := rfl
@[simp] theorem rings_setBarn (s : State) (b : Nat) (x : Barn) : (s.setBarn b x).rings = s.rings := rfl
@[simp] theorem msgs_setBarn (s : State) (b : Nat) (x : Barn) : (s.setBarn b x).msgs = s.msgs := rfl
@[simp] theorem regions_setBarn (s : State) (b : Nat) (x : Barn) : (s.setBarn b x).regions = s.regions := rfl
@[simp] theorem stations_setBarn (s : State) (b : Nat) (x : Barn) : (s.setBarn b x).stations = s.stations := rfl
@[simp] theorem yards_setBarn (s : State) (b : Nat) (x : Barn) : (s.setBarn b x).yards = s.yards := rfl
@[simp] theorem engines_setBarn (s : State) (b : Nat) (x : Barn) : (s.setBarn b x).engines = s.engines := rfl
@[simp] theorem ports_setBarn (s : State) (b : Nat) (x : Barn) : (s.setBarn b x).ports = s.ports := rfl
@[simp] theorem row_setBarn (s : State) (b : Nat) (x : Barn) : (s.setBarn b x).row = s.row := rfl
@[simp] theorem col_setBarn (s : State) (b : Nat) (x : Barn) : (s.setBarn b x).col = s.col := rfl
@[simp] theorem sent_setBarn (s : State) (b : Nat) (x : Barn) : (s.setBarn b x).sent = s.sent := rfl
@[simp] theorem txs_setBarn (s : State) (b : Nat) (x : Barn) : (s.setBarn b x).txs = s.txs := rfl
@[simp] theorem hitches_setBarn (s : State) (b : Nat) (x : Barn) : (s.setBarn b x).hitches = s.hitches := rfl
@[simp] theorem hitchGen_setBarn (s : State) (b : Nat) (x : Barn) : (s.setBarn b x).hitchGen = s.hitchGen := rfl
@[simp] theorem launches_setBarn (s : State) (b : Nat) (x : Barn) : (s.setBarn b x).launches = s.launches := rfl
@[simp] theorem queues_setBarn (s : State) (b : Nat) (x : Barn) : (s.setBarn b x).queues = s.queues := rfl
@[simp] theorem tdis_setBarn (s : State) (b : Nat) (x : Barn) : (s.setBarn b x).tdis = s.tdis := rfl
@[simp] theorem sessions_setBarn (s : State) (b : Nat) (x : Barn) : (s.setBarn b x).sessions = s.sessions := rfl
@[simp] theorem epochs_setBarn (s : State) (b : Nat) (x : Barn) : (s.setBarn b x).epochs = s.epochs := rfl
@[simp] theorem alarms_setBarn (s : State) (b : Nat) (x : Barn) : (s.setBarn b x).alarms = s.alarms := rfl
@[simp] theorem debugged_setBarn (s : State) (b : Nat) (x : Barn) : (s.setBarn b x).debugged = s.debugged := rfl
@[simp] theorem keys_setBarn (s : State) (b : Nat) (x : Barn) : (s.setBarn b x).keys = s.keys := rfl
@[simp] theorem receipts_setBarn (s : State) (b : Nat) (x : Barn) : (s.setBarn b x).receipts = s.receipts := rfl
@[simp] theorem boot_setBarn (s : State) (b : Nat) (x : Barn) : (s.setBarn b x).boot = s.boot := rfl
@[simp] theorem power_setBarn (s : State) (b : Nat) (x : Barn) : (s.setBarn b x).power = s.power := rfl
@[simp] theorem throttle_setBarn (s : State) (b : Nat) (x : Barn) : (s.setBarn b x).throttle = s.throttle := rfl
@[simp] theorem extents_setBarn (s : State) (b : Nat) (x : Barn) : (s.setBarn b x).extents = s.extents := rfl
@[simp] theorem cycle_setBarn (s : State) (b : Nat) (x : Barn) : (s.setBarn b x).cycle = s.cycle := rfl
@[simp] theorem agenda_setBarn (s : State) (b : Nat) (x : Barn) : (s.setBarn b x).agenda = s.agenda := rfl
@[simp] theorem work_setBarn (s : State) (b : Nat) (x : Barn) : (s.setBarn b x).work = s.work := rfl
@[simp] theorem todo_setBarn (s : State) (b : Nat) (x : Barn) : (s.setBarn b x).todo = s.todo := rfl
@[simp] theorem passed_setBarn (s : State) (b : Nat) (x : Barn) : (s.setBarn b x).passed = s.passed := rfl
@[simp] theorem cur_setBarn (s : State) (b : Nat) (x : Barn) : (s.setBarn b x).cur = s.cur := rfl
@[simp] theorem stamp_setBarn (s : State) (b : Nat) (x : Barn) : (s.setBarn b x).stamp = s.stamp := rfl
@[simp] theorem focus_setBarn (s : State) (b : Nat) (x : Barn) : (s.setBarn b x).focus = s.focus := rfl
@[simp] theorem answers_setBarn (s : State) (b : Nat) (x : Barn) : (s.setBarn b x).answers = s.answers := rfl
@[simp] theorem free_setBarn (s : State) (b : Nat) (x : Barn) : (s.setBarn b x).free = s.free := rfl
@[simp] theorem pick_setBarn (s : State) (b : Nat) (x : Barn) : (s.setBarn b x).pick = s.pick := rfl
@[simp] theorem testing_setBarn (s : State) (b : Nat) (x : Barn) : (s.setBarn b x).testing = s.testing := rfl
@[simp] theorem ideKeys_setBarn (s : State) (b : Nat) (x : Barn) : (s.setBarn b x).ideKeys = s.ideKeys := rfl
@[simp] theorem slow_setBarn (s : State) (b : Nat) (x : Barn) : (s.setBarn b x).slow = s.slow := rfl

/-! After `setRing`. -/

@[simp] theorem ctxs_setRing (s : State) (p : Nat) (x : Ring) : (s.setRing p x).ctxs = s.ctxs := rfl
@[simp] theorem cores_setRing (s : State) (p : Nat) (x : Ring) : (s.setRing p x).cores = s.cores := rfl
@[simp] theorem barns_setRing (s : State) (p : Nat) (x : Ring) : (s.setRing p x).barns = s.barns := rfl
@[simp] theorem regs_setRing (s : State) (p : Nat) (x : Ring) : (s.setRing p x).regs = s.regs := rfl
@[simp] theorem tiles_setRing (s : State) (p : Nat) (x : Ring) : (s.setRing p x).tiles = s.tiles := rfl
@[simp] theorem mem_setRing (s : State) (p : Nat) (x : Ring) : (s.setRing p x).mem = s.mem := rfl
@[simp] theorem tags_setRing (s : State) (p : Nat) (x : Ring) : (s.setRing p x).tags = s.tags := rfl
@[simp] theorem slots_setRing (s : State) (p : Nat) (x : Ring) : (s.setRing p x).slots = s.slots := rfl
@[simp] theorem poison_setRing (s : State) (p : Nat) (x : Ring) : (s.setRing p x).poison = s.poison := rfl
@[simp] theorem stale_setRing (s : State) (p : Nat) (x : Ring) : (s.setRing p x).stale = s.stale := rfl
@[simp] theorem seals_setRing (s : State) (p : Nat) (x : Ring) : (s.setRing p x).seals = s.seals := rfl
@[simp] theorem reports_setRing (s : State) (p : Nat) (x : Ring) : (s.setRing p x).reports = s.reports := rfl
@[simp] theorem images_setRing (s : State) (p : Nat) (x : Ring) : (s.setRing p x).images = s.images := rfl
@[simp] theorem dead_setRing (s : State) (p : Nat) (x : Ring) : (s.setRing p x).dead = s.dead := rfl
@[simp] theorem posted_setRing (s : State) (p : Nat) (x : Ring) : (s.setRing p x).posted = s.posted := rfl
@[simp] theorem rings_setRing (s : State) (p : Nat) (x : Ring) : (s.setRing p x).rings = mput Ring.reset s.rings p x := rfl
@[simp] theorem msgs_setRing (s : State) (p : Nat) (x : Ring) : (s.setRing p x).msgs = s.msgs := rfl
@[simp] theorem regions_setRing (s : State) (p : Nat) (x : Ring) : (s.setRing p x).regions = s.regions := rfl
@[simp] theorem stations_setRing (s : State) (p : Nat) (x : Ring) : (s.setRing p x).stations = s.stations := rfl
@[simp] theorem yards_setRing (s : State) (p : Nat) (x : Ring) : (s.setRing p x).yards = s.yards := rfl
@[simp] theorem engines_setRing (s : State) (p : Nat) (x : Ring) : (s.setRing p x).engines = s.engines := rfl
@[simp] theorem ports_setRing (s : State) (p : Nat) (x : Ring) : (s.setRing p x).ports = s.ports := rfl
@[simp] theorem row_setRing (s : State) (p : Nat) (x : Ring) : (s.setRing p x).row = s.row := rfl
@[simp] theorem col_setRing (s : State) (p : Nat) (x : Ring) : (s.setRing p x).col = s.col := rfl
@[simp] theorem sent_setRing (s : State) (p : Nat) (x : Ring) : (s.setRing p x).sent = s.sent := rfl
@[simp] theorem txs_setRing (s : State) (p : Nat) (x : Ring) : (s.setRing p x).txs = s.txs := rfl
@[simp] theorem hitches_setRing (s : State) (p : Nat) (x : Ring) : (s.setRing p x).hitches = s.hitches := rfl
@[simp] theorem hitchGen_setRing (s : State) (p : Nat) (x : Ring) : (s.setRing p x).hitchGen = s.hitchGen := rfl
@[simp] theorem launches_setRing (s : State) (p : Nat) (x : Ring) : (s.setRing p x).launches = s.launches := rfl
@[simp] theorem queues_setRing (s : State) (p : Nat) (x : Ring) : (s.setRing p x).queues = s.queues := rfl
@[simp] theorem tdis_setRing (s : State) (p : Nat) (x : Ring) : (s.setRing p x).tdis = s.tdis := rfl
@[simp] theorem sessions_setRing (s : State) (p : Nat) (x : Ring) : (s.setRing p x).sessions = s.sessions := rfl
@[simp] theorem epochs_setRing (s : State) (p : Nat) (x : Ring) : (s.setRing p x).epochs = s.epochs := rfl
@[simp] theorem alarms_setRing (s : State) (p : Nat) (x : Ring) : (s.setRing p x).alarms = s.alarms := rfl
@[simp] theorem debugged_setRing (s : State) (p : Nat) (x : Ring) : (s.setRing p x).debugged = s.debugged := rfl
@[simp] theorem keys_setRing (s : State) (p : Nat) (x : Ring) : (s.setRing p x).keys = s.keys := rfl
@[simp] theorem receipts_setRing (s : State) (p : Nat) (x : Ring) : (s.setRing p x).receipts = s.receipts := rfl
@[simp] theorem boot_setRing (s : State) (p : Nat) (x : Ring) : (s.setRing p x).boot = s.boot := rfl
@[simp] theorem power_setRing (s : State) (p : Nat) (x : Ring) : (s.setRing p x).power = s.power := rfl
@[simp] theorem throttle_setRing (s : State) (p : Nat) (x : Ring) : (s.setRing p x).throttle = s.throttle := rfl
@[simp] theorem extents_setRing (s : State) (p : Nat) (x : Ring) : (s.setRing p x).extents = s.extents := rfl
@[simp] theorem cycle_setRing (s : State) (p : Nat) (x : Ring) : (s.setRing p x).cycle = s.cycle := rfl
@[simp] theorem agenda_setRing (s : State) (p : Nat) (x : Ring) : (s.setRing p x).agenda = s.agenda := rfl
@[simp] theorem work_setRing (s : State) (p : Nat) (x : Ring) : (s.setRing p x).work = s.work := rfl
@[simp] theorem todo_setRing (s : State) (p : Nat) (x : Ring) : (s.setRing p x).todo = s.todo := rfl
@[simp] theorem passed_setRing (s : State) (p : Nat) (x : Ring) : (s.setRing p x).passed = s.passed := rfl
@[simp] theorem cur_setRing (s : State) (p : Nat) (x : Ring) : (s.setRing p x).cur = s.cur := rfl
@[simp] theorem stamp_setRing (s : State) (p : Nat) (x : Ring) : (s.setRing p x).stamp = s.stamp := rfl
@[simp] theorem focus_setRing (s : State) (p : Nat) (x : Ring) : (s.setRing p x).focus = s.focus := rfl
@[simp] theorem answers_setRing (s : State) (p : Nat) (x : Ring) : (s.setRing p x).answers = s.answers := rfl
@[simp] theorem free_setRing (s : State) (p : Nat) (x : Ring) : (s.setRing p x).free = s.free := rfl
@[simp] theorem pick_setRing (s : State) (p : Nat) (x : Ring) : (s.setRing p x).pick = s.pick := rfl
@[simp] theorem testing_setRing (s : State) (p : Nat) (x : Ring) : (s.setRing p x).testing = s.testing := rfl
@[simp] theorem ideKeys_setRing (s : State) (p : Nat) (x : Ring) : (s.setRing p x).ideKeys = s.ideKeys := rfl
@[simp] theorem slow_setRing (s : State) (p : Nat) (x : Ring) : (s.setRing p x).slow = s.slow := rfl

/-! After `setRegion`. -/

@[simp] theorem ctxs_setRegion (s : State) (k : Nat) (x : Region) : (s.setRegion k x).ctxs = s.ctxs := rfl
@[simp] theorem cores_setRegion (s : State) (k : Nat) (x : Region) : (s.setRegion k x).cores = s.cores := rfl
@[simp] theorem barns_setRegion (s : State) (k : Nat) (x : Region) : (s.setRegion k x).barns = s.barns := rfl
@[simp] theorem regs_setRegion (s : State) (k : Nat) (x : Region) : (s.setRegion k x).regs = s.regs := rfl
@[simp] theorem tiles_setRegion (s : State) (k : Nat) (x : Region) : (s.setRegion k x).tiles = s.tiles := rfl
@[simp] theorem mem_setRegion (s : State) (k : Nat) (x : Region) : (s.setRegion k x).mem = s.mem := rfl
@[simp] theorem tags_setRegion (s : State) (k : Nat) (x : Region) : (s.setRegion k x).tags = s.tags := rfl
@[simp] theorem slots_setRegion (s : State) (k : Nat) (x : Region) : (s.setRegion k x).slots = s.slots := rfl
@[simp] theorem poison_setRegion (s : State) (k : Nat) (x : Region) : (s.setRegion k x).poison = s.poison := rfl
@[simp] theorem stale_setRegion (s : State) (k : Nat) (x : Region) : (s.setRegion k x).stale = s.stale := rfl
@[simp] theorem seals_setRegion (s : State) (k : Nat) (x : Region) : (s.setRegion k x).seals = s.seals := rfl
@[simp] theorem reports_setRegion (s : State) (k : Nat) (x : Region) : (s.setRegion k x).reports = s.reports := rfl
@[simp] theorem images_setRegion (s : State) (k : Nat) (x : Region) : (s.setRegion k x).images = s.images := rfl
@[simp] theorem dead_setRegion (s : State) (k : Nat) (x : Region) : (s.setRegion k x).dead = s.dead := rfl
@[simp] theorem posted_setRegion (s : State) (k : Nat) (x : Region) : (s.setRegion k x).posted = s.posted := rfl
@[simp] theorem rings_setRegion (s : State) (k : Nat) (x : Region) : (s.setRegion k x).rings = s.rings := rfl
@[simp] theorem msgs_setRegion (s : State) (k : Nat) (x : Region) : (s.setRegion k x).msgs = s.msgs := rfl
@[simp] theorem regions_setRegion (s : State) (k : Nat) (x : Region) : (s.setRegion k x).regions = mput Region.reset s.regions k x := rfl
@[simp] theorem stations_setRegion (s : State) (k : Nat) (x : Region) : (s.setRegion k x).stations = s.stations := rfl
@[simp] theorem yards_setRegion (s : State) (k : Nat) (x : Region) : (s.setRegion k x).yards = s.yards := rfl
@[simp] theorem engines_setRegion (s : State) (k : Nat) (x : Region) : (s.setRegion k x).engines = s.engines := rfl
@[simp] theorem ports_setRegion (s : State) (k : Nat) (x : Region) : (s.setRegion k x).ports = s.ports := rfl
@[simp] theorem row_setRegion (s : State) (k : Nat) (x : Region) : (s.setRegion k x).row = s.row := rfl
@[simp] theorem col_setRegion (s : State) (k : Nat) (x : Region) : (s.setRegion k x).col = s.col := rfl
@[simp] theorem sent_setRegion (s : State) (k : Nat) (x : Region) : (s.setRegion k x).sent = s.sent := rfl
@[simp] theorem txs_setRegion (s : State) (k : Nat) (x : Region) : (s.setRegion k x).txs = s.txs := rfl
@[simp] theorem hitches_setRegion (s : State) (k : Nat) (x : Region) : (s.setRegion k x).hitches = s.hitches := rfl
@[simp] theorem hitchGen_setRegion (s : State) (k : Nat) (x : Region) : (s.setRegion k x).hitchGen = s.hitchGen := rfl
@[simp] theorem launches_setRegion (s : State) (k : Nat) (x : Region) : (s.setRegion k x).launches = s.launches := rfl
@[simp] theorem queues_setRegion (s : State) (k : Nat) (x : Region) : (s.setRegion k x).queues = s.queues := rfl
@[simp] theorem tdis_setRegion (s : State) (k : Nat) (x : Region) : (s.setRegion k x).tdis = s.tdis := rfl
@[simp] theorem sessions_setRegion (s : State) (k : Nat) (x : Region) : (s.setRegion k x).sessions = s.sessions := rfl
@[simp] theorem epochs_setRegion (s : State) (k : Nat) (x : Region) : (s.setRegion k x).epochs = s.epochs := rfl
@[simp] theorem alarms_setRegion (s : State) (k : Nat) (x : Region) : (s.setRegion k x).alarms = s.alarms := rfl
@[simp] theorem debugged_setRegion (s : State) (k : Nat) (x : Region) : (s.setRegion k x).debugged = s.debugged := rfl
@[simp] theorem keys_setRegion (s : State) (k : Nat) (x : Region) : (s.setRegion k x).keys = s.keys := rfl
@[simp] theorem receipts_setRegion (s : State) (k : Nat) (x : Region) : (s.setRegion k x).receipts = s.receipts := rfl
@[simp] theorem boot_setRegion (s : State) (k : Nat) (x : Region) : (s.setRegion k x).boot = s.boot := rfl
@[simp] theorem power_setRegion (s : State) (k : Nat) (x : Region) : (s.setRegion k x).power = s.power := rfl
@[simp] theorem throttle_setRegion (s : State) (k : Nat) (x : Region) : (s.setRegion k x).throttle = s.throttle := rfl
@[simp] theorem extents_setRegion (s : State) (k : Nat) (x : Region) : (s.setRegion k x).extents = s.extents := rfl
@[simp] theorem cycle_setRegion (s : State) (k : Nat) (x : Region) : (s.setRegion k x).cycle = s.cycle := rfl
@[simp] theorem agenda_setRegion (s : State) (k : Nat) (x : Region) : (s.setRegion k x).agenda = s.agenda := rfl
@[simp] theorem work_setRegion (s : State) (k : Nat) (x : Region) : (s.setRegion k x).work = s.work := rfl
@[simp] theorem todo_setRegion (s : State) (k : Nat) (x : Region) : (s.setRegion k x).todo = s.todo := rfl
@[simp] theorem passed_setRegion (s : State) (k : Nat) (x : Region) : (s.setRegion k x).passed = s.passed := rfl
@[simp] theorem cur_setRegion (s : State) (k : Nat) (x : Region) : (s.setRegion k x).cur = s.cur := rfl
@[simp] theorem stamp_setRegion (s : State) (k : Nat) (x : Region) : (s.setRegion k x).stamp = s.stamp := rfl
@[simp] theorem focus_setRegion (s : State) (k : Nat) (x : Region) : (s.setRegion k x).focus = s.focus := rfl
@[simp] theorem answers_setRegion (s : State) (k : Nat) (x : Region) : (s.setRegion k x).answers = s.answers := rfl
@[simp] theorem free_setRegion (s : State) (k : Nat) (x : Region) : (s.setRegion k x).free = s.free := rfl
@[simp] theorem pick_setRegion (s : State) (k : Nat) (x : Region) : (s.setRegion k x).pick = s.pick := rfl
@[simp] theorem testing_setRegion (s : State) (k : Nat) (x : Region) : (s.setRegion k x).testing = s.testing := rfl
@[simp] theorem ideKeys_setRegion (s : State) (k : Nat) (x : Region) : (s.setRegion k x).ideKeys = s.ideKeys := rfl
@[simp] theorem slow_setRegion (s : State) (k : Nat) (x : Region) : (s.setRegion k x).slow = s.slow := rfl

/-! After `setStation`. -/

@[simp] theorem ctxs_setStation (s : State) (n : Nat) (x : Station) : (s.setStation n x).ctxs = s.ctxs := rfl
@[simp] theorem cores_setStation (s : State) (n : Nat) (x : Station) : (s.setStation n x).cores = s.cores := rfl
@[simp] theorem barns_setStation (s : State) (n : Nat) (x : Station) : (s.setStation n x).barns = s.barns := rfl
@[simp] theorem regs_setStation (s : State) (n : Nat) (x : Station) : (s.setStation n x).regs = s.regs := rfl
@[simp] theorem tiles_setStation (s : State) (n : Nat) (x : Station) : (s.setStation n x).tiles = s.tiles := rfl
@[simp] theorem mem_setStation (s : State) (n : Nat) (x : Station) : (s.setStation n x).mem = s.mem := rfl
@[simp] theorem tags_setStation (s : State) (n : Nat) (x : Station) : (s.setStation n x).tags = s.tags := rfl
@[simp] theorem slots_setStation (s : State) (n : Nat) (x : Station) : (s.setStation n x).slots = s.slots := rfl
@[simp] theorem poison_setStation (s : State) (n : Nat) (x : Station) : (s.setStation n x).poison = s.poison := rfl
@[simp] theorem stale_setStation (s : State) (n : Nat) (x : Station) : (s.setStation n x).stale = s.stale := rfl
@[simp] theorem seals_setStation (s : State) (n : Nat) (x : Station) : (s.setStation n x).seals = s.seals := rfl
@[simp] theorem reports_setStation (s : State) (n : Nat) (x : Station) : (s.setStation n x).reports = s.reports := rfl
@[simp] theorem images_setStation (s : State) (n : Nat) (x : Station) : (s.setStation n x).images = s.images := rfl
@[simp] theorem dead_setStation (s : State) (n : Nat) (x : Station) : (s.setStation n x).dead = s.dead := rfl
@[simp] theorem posted_setStation (s : State) (n : Nat) (x : Station) : (s.setStation n x).posted = s.posted := rfl
@[simp] theorem rings_setStation (s : State) (n : Nat) (x : Station) : (s.setStation n x).rings = s.rings := rfl
@[simp] theorem msgs_setStation (s : State) (n : Nat) (x : Station) : (s.setStation n x).msgs = s.msgs := rfl
@[simp] theorem regions_setStation (s : State) (n : Nat) (x : Station) : (s.setStation n x).regions = s.regions := rfl
@[simp] theorem stations_setStation (s : State) (n : Nat) (x : Station) : (s.setStation n x).stations = mput Station.reset s.stations n x := rfl
@[simp] theorem yards_setStation (s : State) (n : Nat) (x : Station) : (s.setStation n x).yards = s.yards := rfl
@[simp] theorem engines_setStation (s : State) (n : Nat) (x : Station) : (s.setStation n x).engines = s.engines := rfl
@[simp] theorem ports_setStation (s : State) (n : Nat) (x : Station) : (s.setStation n x).ports = s.ports := rfl
@[simp] theorem row_setStation (s : State) (n : Nat) (x : Station) : (s.setStation n x).row = s.row := rfl
@[simp] theorem col_setStation (s : State) (n : Nat) (x : Station) : (s.setStation n x).col = s.col := rfl
@[simp] theorem sent_setStation (s : State) (n : Nat) (x : Station) : (s.setStation n x).sent = s.sent := rfl
@[simp] theorem txs_setStation (s : State) (n : Nat) (x : Station) : (s.setStation n x).txs = s.txs := rfl
@[simp] theorem hitches_setStation (s : State) (n : Nat) (x : Station) : (s.setStation n x).hitches = s.hitches := rfl
@[simp] theorem hitchGen_setStation (s : State) (n : Nat) (x : Station) : (s.setStation n x).hitchGen = s.hitchGen := rfl
@[simp] theorem launches_setStation (s : State) (n : Nat) (x : Station) : (s.setStation n x).launches = s.launches := rfl
@[simp] theorem queues_setStation (s : State) (n : Nat) (x : Station) : (s.setStation n x).queues = s.queues := rfl
@[simp] theorem tdis_setStation (s : State) (n : Nat) (x : Station) : (s.setStation n x).tdis = s.tdis := rfl
@[simp] theorem sessions_setStation (s : State) (n : Nat) (x : Station) : (s.setStation n x).sessions = s.sessions := rfl
@[simp] theorem epochs_setStation (s : State) (n : Nat) (x : Station) : (s.setStation n x).epochs = s.epochs := rfl
@[simp] theorem alarms_setStation (s : State) (n : Nat) (x : Station) : (s.setStation n x).alarms = s.alarms := rfl
@[simp] theorem debugged_setStation (s : State) (n : Nat) (x : Station) : (s.setStation n x).debugged = s.debugged := rfl
@[simp] theorem keys_setStation (s : State) (n : Nat) (x : Station) : (s.setStation n x).keys = s.keys := rfl
@[simp] theorem receipts_setStation (s : State) (n : Nat) (x : Station) : (s.setStation n x).receipts = s.receipts := rfl
@[simp] theorem boot_setStation (s : State) (n : Nat) (x : Station) : (s.setStation n x).boot = s.boot := rfl
@[simp] theorem power_setStation (s : State) (n : Nat) (x : Station) : (s.setStation n x).power = s.power := rfl
@[simp] theorem throttle_setStation (s : State) (n : Nat) (x : Station) : (s.setStation n x).throttle = s.throttle := rfl
@[simp] theorem extents_setStation (s : State) (n : Nat) (x : Station) : (s.setStation n x).extents = s.extents := rfl
@[simp] theorem cycle_setStation (s : State) (n : Nat) (x : Station) : (s.setStation n x).cycle = s.cycle := rfl
@[simp] theorem agenda_setStation (s : State) (n : Nat) (x : Station) : (s.setStation n x).agenda = s.agenda := rfl
@[simp] theorem work_setStation (s : State) (n : Nat) (x : Station) : (s.setStation n x).work = s.work := rfl
@[simp] theorem todo_setStation (s : State) (n : Nat) (x : Station) : (s.setStation n x).todo = s.todo := rfl
@[simp] theorem passed_setStation (s : State) (n : Nat) (x : Station) : (s.setStation n x).passed = s.passed := rfl
@[simp] theorem cur_setStation (s : State) (n : Nat) (x : Station) : (s.setStation n x).cur = s.cur := rfl
@[simp] theorem stamp_setStation (s : State) (n : Nat) (x : Station) : (s.setStation n x).stamp = s.stamp := rfl
@[simp] theorem focus_setStation (s : State) (n : Nat) (x : Station) : (s.setStation n x).focus = s.focus := rfl
@[simp] theorem answers_setStation (s : State) (n : Nat) (x : Station) : (s.setStation n x).answers = s.answers := rfl
@[simp] theorem free_setStation (s : State) (n : Nat) (x : Station) : (s.setStation n x).free = s.free := rfl
@[simp] theorem pick_setStation (s : State) (n : Nat) (x : Station) : (s.setStation n x).pick = s.pick := rfl
@[simp] theorem testing_setStation (s : State) (n : Nat) (x : Station) : (s.setStation n x).testing = s.testing := rfl
@[simp] theorem ideKeys_setStation (s : State) (n : Nat) (x : Station) : (s.setStation n x).ideKeys = s.ideKeys := rfl
@[simp] theorem slow_setStation (s : State) (n : Nat) (x : Station) : (s.setStation n x).slow = s.slow := rfl

/-! After `setEngine`. -/

@[simp] theorem ctxs_setEngine (s : State) (n : Nat) (x : Engine) : (s.setEngine n x).ctxs = s.ctxs := rfl
@[simp] theorem cores_setEngine (s : State) (n : Nat) (x : Engine) : (s.setEngine n x).cores = s.cores := rfl
@[simp] theorem barns_setEngine (s : State) (n : Nat) (x : Engine) : (s.setEngine n x).barns = s.barns := rfl
@[simp] theorem regs_setEngine (s : State) (n : Nat) (x : Engine) : (s.setEngine n x).regs = s.regs := rfl
@[simp] theorem tiles_setEngine (s : State) (n : Nat) (x : Engine) : (s.setEngine n x).tiles = s.tiles := rfl
@[simp] theorem mem_setEngine (s : State) (n : Nat) (x : Engine) : (s.setEngine n x).mem = s.mem := rfl
@[simp] theorem tags_setEngine (s : State) (n : Nat) (x : Engine) : (s.setEngine n x).tags = s.tags := rfl
@[simp] theorem slots_setEngine (s : State) (n : Nat) (x : Engine) : (s.setEngine n x).slots = s.slots := rfl
@[simp] theorem poison_setEngine (s : State) (n : Nat) (x : Engine) : (s.setEngine n x).poison = s.poison := rfl
@[simp] theorem stale_setEngine (s : State) (n : Nat) (x : Engine) : (s.setEngine n x).stale = s.stale := rfl
@[simp] theorem seals_setEngine (s : State) (n : Nat) (x : Engine) : (s.setEngine n x).seals = s.seals := rfl
@[simp] theorem reports_setEngine (s : State) (n : Nat) (x : Engine) : (s.setEngine n x).reports = s.reports := rfl
@[simp] theorem images_setEngine (s : State) (n : Nat) (x : Engine) : (s.setEngine n x).images = s.images := rfl
@[simp] theorem dead_setEngine (s : State) (n : Nat) (x : Engine) : (s.setEngine n x).dead = s.dead := rfl
@[simp] theorem posted_setEngine (s : State) (n : Nat) (x : Engine) : (s.setEngine n x).posted = s.posted := rfl
@[simp] theorem rings_setEngine (s : State) (n : Nat) (x : Engine) : (s.setEngine n x).rings = s.rings := rfl
@[simp] theorem msgs_setEngine (s : State) (n : Nat) (x : Engine) : (s.setEngine n x).msgs = s.msgs := rfl
@[simp] theorem regions_setEngine (s : State) (n : Nat) (x : Engine) : (s.setEngine n x).regions = s.regions := rfl
@[simp] theorem stations_setEngine (s : State) (n : Nat) (x : Engine) : (s.setEngine n x).stations = s.stations := rfl
@[simp] theorem yards_setEngine (s : State) (n : Nat) (x : Engine) : (s.setEngine n x).yards = s.yards := rfl
@[simp] theorem engines_setEngine (s : State) (n : Nat) (x : Engine) : (s.setEngine n x).engines = mput Engine.reset s.engines n x := rfl
@[simp] theorem ports_setEngine (s : State) (n : Nat) (x : Engine) : (s.setEngine n x).ports = s.ports := rfl
@[simp] theorem row_setEngine (s : State) (n : Nat) (x : Engine) : (s.setEngine n x).row = s.row := rfl
@[simp] theorem col_setEngine (s : State) (n : Nat) (x : Engine) : (s.setEngine n x).col = s.col := rfl
@[simp] theorem sent_setEngine (s : State) (n : Nat) (x : Engine) : (s.setEngine n x).sent = s.sent := rfl
@[simp] theorem txs_setEngine (s : State) (n : Nat) (x : Engine) : (s.setEngine n x).txs = s.txs := rfl
@[simp] theorem hitches_setEngine (s : State) (n : Nat) (x : Engine) : (s.setEngine n x).hitches = s.hitches := rfl
@[simp] theorem hitchGen_setEngine (s : State) (n : Nat) (x : Engine) : (s.setEngine n x).hitchGen = s.hitchGen := rfl
@[simp] theorem launches_setEngine (s : State) (n : Nat) (x : Engine) : (s.setEngine n x).launches = s.launches := rfl
@[simp] theorem queues_setEngine (s : State) (n : Nat) (x : Engine) : (s.setEngine n x).queues = s.queues := rfl
@[simp] theorem tdis_setEngine (s : State) (n : Nat) (x : Engine) : (s.setEngine n x).tdis = s.tdis := rfl
@[simp] theorem sessions_setEngine (s : State) (n : Nat) (x : Engine) : (s.setEngine n x).sessions = s.sessions := rfl
@[simp] theorem epochs_setEngine (s : State) (n : Nat) (x : Engine) : (s.setEngine n x).epochs = s.epochs := rfl
@[simp] theorem alarms_setEngine (s : State) (n : Nat) (x : Engine) : (s.setEngine n x).alarms = s.alarms := rfl
@[simp] theorem debugged_setEngine (s : State) (n : Nat) (x : Engine) : (s.setEngine n x).debugged = s.debugged := rfl
@[simp] theorem keys_setEngine (s : State) (n : Nat) (x : Engine) : (s.setEngine n x).keys = s.keys := rfl
@[simp] theorem receipts_setEngine (s : State) (n : Nat) (x : Engine) : (s.setEngine n x).receipts = s.receipts := rfl
@[simp] theorem boot_setEngine (s : State) (n : Nat) (x : Engine) : (s.setEngine n x).boot = s.boot := rfl
@[simp] theorem power_setEngine (s : State) (n : Nat) (x : Engine) : (s.setEngine n x).power = s.power := rfl
@[simp] theorem throttle_setEngine (s : State) (n : Nat) (x : Engine) : (s.setEngine n x).throttle = s.throttle := rfl
@[simp] theorem extents_setEngine (s : State) (n : Nat) (x : Engine) : (s.setEngine n x).extents = s.extents := rfl
@[simp] theorem cycle_setEngine (s : State) (n : Nat) (x : Engine) : (s.setEngine n x).cycle = s.cycle := rfl
@[simp] theorem agenda_setEngine (s : State) (n : Nat) (x : Engine) : (s.setEngine n x).agenda = s.agenda := rfl
@[simp] theorem work_setEngine (s : State) (n : Nat) (x : Engine) : (s.setEngine n x).work = s.work := rfl
@[simp] theorem todo_setEngine (s : State) (n : Nat) (x : Engine) : (s.setEngine n x).todo = s.todo := rfl
@[simp] theorem passed_setEngine (s : State) (n : Nat) (x : Engine) : (s.setEngine n x).passed = s.passed := rfl
@[simp] theorem cur_setEngine (s : State) (n : Nat) (x : Engine) : (s.setEngine n x).cur = s.cur := rfl
@[simp] theorem stamp_setEngine (s : State) (n : Nat) (x : Engine) : (s.setEngine n x).stamp = s.stamp := rfl
@[simp] theorem focus_setEngine (s : State) (n : Nat) (x : Engine) : (s.setEngine n x).focus = s.focus := rfl
@[simp] theorem answers_setEngine (s : State) (n : Nat) (x : Engine) : (s.setEngine n x).answers = s.answers := rfl
@[simp] theorem free_setEngine (s : State) (n : Nat) (x : Engine) : (s.setEngine n x).free = s.free := rfl
@[simp] theorem pick_setEngine (s : State) (n : Nat) (x : Engine) : (s.setEngine n x).pick = s.pick := rfl
@[simp] theorem testing_setEngine (s : State) (n : Nat) (x : Engine) : (s.setEngine n x).testing = s.testing := rfl
@[simp] theorem ideKeys_setEngine (s : State) (n : Nat) (x : Engine) : (s.setEngine n x).ideKeys = s.ideKeys := rfl
@[simp] theorem slow_setEngine (s : State) (n : Nat) (x : Engine) : (s.setEngine n x).slow = s.slow := rfl

/-! After `setPort`. -/

@[simp] theorem ctxs_setPort (s : State) (n : Nat) (x : Port) : (s.setPort n x).ctxs = s.ctxs := rfl
@[simp] theorem cores_setPort (s : State) (n : Nat) (x : Port) : (s.setPort n x).cores = s.cores := rfl
@[simp] theorem barns_setPort (s : State) (n : Nat) (x : Port) : (s.setPort n x).barns = s.barns := rfl
@[simp] theorem regs_setPort (s : State) (n : Nat) (x : Port) : (s.setPort n x).regs = s.regs := rfl
@[simp] theorem tiles_setPort (s : State) (n : Nat) (x : Port) : (s.setPort n x).tiles = s.tiles := rfl
@[simp] theorem mem_setPort (s : State) (n : Nat) (x : Port) : (s.setPort n x).mem = s.mem := rfl
@[simp] theorem tags_setPort (s : State) (n : Nat) (x : Port) : (s.setPort n x).tags = s.tags := rfl
@[simp] theorem slots_setPort (s : State) (n : Nat) (x : Port) : (s.setPort n x).slots = s.slots := rfl
@[simp] theorem poison_setPort (s : State) (n : Nat) (x : Port) : (s.setPort n x).poison = s.poison := rfl
@[simp] theorem stale_setPort (s : State) (n : Nat) (x : Port) : (s.setPort n x).stale = s.stale := rfl
@[simp] theorem seals_setPort (s : State) (n : Nat) (x : Port) : (s.setPort n x).seals = s.seals := rfl
@[simp] theorem reports_setPort (s : State) (n : Nat) (x : Port) : (s.setPort n x).reports = s.reports := rfl
@[simp] theorem images_setPort (s : State) (n : Nat) (x : Port) : (s.setPort n x).images = s.images := rfl
@[simp] theorem dead_setPort (s : State) (n : Nat) (x : Port) : (s.setPort n x).dead = s.dead := rfl
@[simp] theorem posted_setPort (s : State) (n : Nat) (x : Port) : (s.setPort n x).posted = s.posted := rfl
@[simp] theorem rings_setPort (s : State) (n : Nat) (x : Port) : (s.setPort n x).rings = s.rings := rfl
@[simp] theorem msgs_setPort (s : State) (n : Nat) (x : Port) : (s.setPort n x).msgs = s.msgs := rfl
@[simp] theorem regions_setPort (s : State) (n : Nat) (x : Port) : (s.setPort n x).regions = s.regions := rfl
@[simp] theorem stations_setPort (s : State) (n : Nat) (x : Port) : (s.setPort n x).stations = s.stations := rfl
@[simp] theorem yards_setPort (s : State) (n : Nat) (x : Port) : (s.setPort n x).yards = s.yards := rfl
@[simp] theorem engines_setPort (s : State) (n : Nat) (x : Port) : (s.setPort n x).engines = s.engines := rfl
@[simp] theorem ports_setPort (s : State) (n : Nat) (x : Port) : (s.setPort n x).ports = mput Port.reset s.ports n x := rfl
@[simp] theorem row_setPort (s : State) (n : Nat) (x : Port) : (s.setPort n x).row = s.row := rfl
@[simp] theorem col_setPort (s : State) (n : Nat) (x : Port) : (s.setPort n x).col = s.col := rfl
@[simp] theorem sent_setPort (s : State) (n : Nat) (x : Port) : (s.setPort n x).sent = s.sent := rfl
@[simp] theorem txs_setPort (s : State) (n : Nat) (x : Port) : (s.setPort n x).txs = s.txs := rfl
@[simp] theorem hitches_setPort (s : State) (n : Nat) (x : Port) : (s.setPort n x).hitches = s.hitches := rfl
@[simp] theorem hitchGen_setPort (s : State) (n : Nat) (x : Port) : (s.setPort n x).hitchGen = s.hitchGen := rfl
@[simp] theorem launches_setPort (s : State) (n : Nat) (x : Port) : (s.setPort n x).launches = s.launches := rfl
@[simp] theorem queues_setPort (s : State) (n : Nat) (x : Port) : (s.setPort n x).queues = s.queues := rfl
@[simp] theorem tdis_setPort (s : State) (n : Nat) (x : Port) : (s.setPort n x).tdis = s.tdis := rfl
@[simp] theorem sessions_setPort (s : State) (n : Nat) (x : Port) : (s.setPort n x).sessions = s.sessions := rfl
@[simp] theorem epochs_setPort (s : State) (n : Nat) (x : Port) : (s.setPort n x).epochs = s.epochs := rfl
@[simp] theorem alarms_setPort (s : State) (n : Nat) (x : Port) : (s.setPort n x).alarms = s.alarms := rfl
@[simp] theorem debugged_setPort (s : State) (n : Nat) (x : Port) : (s.setPort n x).debugged = s.debugged := rfl
@[simp] theorem keys_setPort (s : State) (n : Nat) (x : Port) : (s.setPort n x).keys = s.keys := rfl
@[simp] theorem receipts_setPort (s : State) (n : Nat) (x : Port) : (s.setPort n x).receipts = s.receipts := rfl
@[simp] theorem boot_setPort (s : State) (n : Nat) (x : Port) : (s.setPort n x).boot = s.boot := rfl
@[simp] theorem power_setPort (s : State) (n : Nat) (x : Port) : (s.setPort n x).power = s.power := rfl
@[simp] theorem throttle_setPort (s : State) (n : Nat) (x : Port) : (s.setPort n x).throttle = s.throttle := rfl
@[simp] theorem extents_setPort (s : State) (n : Nat) (x : Port) : (s.setPort n x).extents = s.extents := rfl
@[simp] theorem cycle_setPort (s : State) (n : Nat) (x : Port) : (s.setPort n x).cycle = s.cycle := rfl
@[simp] theorem agenda_setPort (s : State) (n : Nat) (x : Port) : (s.setPort n x).agenda = s.agenda := rfl
@[simp] theorem work_setPort (s : State) (n : Nat) (x : Port) : (s.setPort n x).work = s.work := rfl
@[simp] theorem todo_setPort (s : State) (n : Nat) (x : Port) : (s.setPort n x).todo = s.todo := rfl
@[simp] theorem passed_setPort (s : State) (n : Nat) (x : Port) : (s.setPort n x).passed = s.passed := rfl
@[simp] theorem cur_setPort (s : State) (n : Nat) (x : Port) : (s.setPort n x).cur = s.cur := rfl
@[simp] theorem stamp_setPort (s : State) (n : Nat) (x : Port) : (s.setPort n x).stamp = s.stamp := rfl
@[simp] theorem focus_setPort (s : State) (n : Nat) (x : Port) : (s.setPort n x).focus = s.focus := rfl
@[simp] theorem answers_setPort (s : State) (n : Nat) (x : Port) : (s.setPort n x).answers = s.answers := rfl
@[simp] theorem free_setPort (s : State) (n : Nat) (x : Port) : (s.setPort n x).free = s.free := rfl
@[simp] theorem pick_setPort (s : State) (n : Nat) (x : Port) : (s.setPort n x).pick = s.pick := rfl
@[simp] theorem testing_setPort (s : State) (n : Nat) (x : Port) : (s.setPort n x).testing = s.testing := rfl
@[simp] theorem ideKeys_setPort (s : State) (n : Nat) (x : Port) : (s.setPort n x).ideKeys = s.ideKeys := rfl
@[simp] theorem slow_setPort (s : State) (n : Nat) (x : Port) : (s.setPort n x).slow = s.slow := rfl

/-! After `setQueue`. -/

@[simp] theorem ctxs_setQueue (s : State) (q : Nat) (x : Queue) : (s.setQueue q x).ctxs = s.ctxs := rfl
@[simp] theorem cores_setQueue (s : State) (q : Nat) (x : Queue) : (s.setQueue q x).cores = s.cores := rfl
@[simp] theorem barns_setQueue (s : State) (q : Nat) (x : Queue) : (s.setQueue q x).barns = s.barns := rfl
@[simp] theorem regs_setQueue (s : State) (q : Nat) (x : Queue) : (s.setQueue q x).regs = s.regs := rfl
@[simp] theorem tiles_setQueue (s : State) (q : Nat) (x : Queue) : (s.setQueue q x).tiles = s.tiles := rfl
@[simp] theorem mem_setQueue (s : State) (q : Nat) (x : Queue) : (s.setQueue q x).mem = s.mem := rfl
@[simp] theorem tags_setQueue (s : State) (q : Nat) (x : Queue) : (s.setQueue q x).tags = s.tags := rfl
@[simp] theorem slots_setQueue (s : State) (q : Nat) (x : Queue) : (s.setQueue q x).slots = s.slots := rfl
@[simp] theorem poison_setQueue (s : State) (q : Nat) (x : Queue) : (s.setQueue q x).poison = s.poison := rfl
@[simp] theorem stale_setQueue (s : State) (q : Nat) (x : Queue) : (s.setQueue q x).stale = s.stale := rfl
@[simp] theorem seals_setQueue (s : State) (q : Nat) (x : Queue) : (s.setQueue q x).seals = s.seals := rfl
@[simp] theorem reports_setQueue (s : State) (q : Nat) (x : Queue) : (s.setQueue q x).reports = s.reports := rfl
@[simp] theorem images_setQueue (s : State) (q : Nat) (x : Queue) : (s.setQueue q x).images = s.images := rfl
@[simp] theorem dead_setQueue (s : State) (q : Nat) (x : Queue) : (s.setQueue q x).dead = s.dead := rfl
@[simp] theorem posted_setQueue (s : State) (q : Nat) (x : Queue) : (s.setQueue q x).posted = s.posted := rfl
@[simp] theorem rings_setQueue (s : State) (q : Nat) (x : Queue) : (s.setQueue q x).rings = s.rings := rfl
@[simp] theorem msgs_setQueue (s : State) (q : Nat) (x : Queue) : (s.setQueue q x).msgs = s.msgs := rfl
@[simp] theorem regions_setQueue (s : State) (q : Nat) (x : Queue) : (s.setQueue q x).regions = s.regions := rfl
@[simp] theorem stations_setQueue (s : State) (q : Nat) (x : Queue) : (s.setQueue q x).stations = s.stations := rfl
@[simp] theorem yards_setQueue (s : State) (q : Nat) (x : Queue) : (s.setQueue q x).yards = s.yards := rfl
@[simp] theorem engines_setQueue (s : State) (q : Nat) (x : Queue) : (s.setQueue q x).engines = s.engines := rfl
@[simp] theorem ports_setQueue (s : State) (q : Nat) (x : Queue) : (s.setQueue q x).ports = s.ports := rfl
@[simp] theorem row_setQueue (s : State) (q : Nat) (x : Queue) : (s.setQueue q x).row = s.row := rfl
@[simp] theorem col_setQueue (s : State) (q : Nat) (x : Queue) : (s.setQueue q x).col = s.col := rfl
@[simp] theorem sent_setQueue (s : State) (q : Nat) (x : Queue) : (s.setQueue q x).sent = s.sent := rfl
@[simp] theorem txs_setQueue (s : State) (q : Nat) (x : Queue) : (s.setQueue q x).txs = s.txs := rfl
@[simp] theorem hitches_setQueue (s : State) (q : Nat) (x : Queue) : (s.setQueue q x).hitches = s.hitches := rfl
@[simp] theorem hitchGen_setQueue (s : State) (q : Nat) (x : Queue) : (s.setQueue q x).hitchGen = s.hitchGen := rfl
@[simp] theorem launches_setQueue (s : State) (q : Nat) (x : Queue) : (s.setQueue q x).launches = s.launches := rfl
@[simp] theorem queues_setQueue (s : State) (q : Nat) (x : Queue) : (s.setQueue q x).queues = mput Queue.reset s.queues q x := rfl
@[simp] theorem tdis_setQueue (s : State) (q : Nat) (x : Queue) : (s.setQueue q x).tdis = s.tdis := rfl
@[simp] theorem sessions_setQueue (s : State) (q : Nat) (x : Queue) : (s.setQueue q x).sessions = s.sessions := rfl
@[simp] theorem epochs_setQueue (s : State) (q : Nat) (x : Queue) : (s.setQueue q x).epochs = s.epochs := rfl
@[simp] theorem alarms_setQueue (s : State) (q : Nat) (x : Queue) : (s.setQueue q x).alarms = s.alarms := rfl
@[simp] theorem debugged_setQueue (s : State) (q : Nat) (x : Queue) : (s.setQueue q x).debugged = s.debugged := rfl
@[simp] theorem keys_setQueue (s : State) (q : Nat) (x : Queue) : (s.setQueue q x).keys = s.keys := rfl
@[simp] theorem receipts_setQueue (s : State) (q : Nat) (x : Queue) : (s.setQueue q x).receipts = s.receipts := rfl
@[simp] theorem boot_setQueue (s : State) (q : Nat) (x : Queue) : (s.setQueue q x).boot = s.boot := rfl
@[simp] theorem power_setQueue (s : State) (q : Nat) (x : Queue) : (s.setQueue q x).power = s.power := rfl
@[simp] theorem throttle_setQueue (s : State) (q : Nat) (x : Queue) : (s.setQueue q x).throttle = s.throttle := rfl
@[simp] theorem extents_setQueue (s : State) (q : Nat) (x : Queue) : (s.setQueue q x).extents = s.extents := rfl
@[simp] theorem cycle_setQueue (s : State) (q : Nat) (x : Queue) : (s.setQueue q x).cycle = s.cycle := rfl
@[simp] theorem agenda_setQueue (s : State) (q : Nat) (x : Queue) : (s.setQueue q x).agenda = s.agenda := rfl
@[simp] theorem work_setQueue (s : State) (q : Nat) (x : Queue) : (s.setQueue q x).work = s.work := rfl
@[simp] theorem todo_setQueue (s : State) (q : Nat) (x : Queue) : (s.setQueue q x).todo = s.todo := rfl
@[simp] theorem passed_setQueue (s : State) (q : Nat) (x : Queue) : (s.setQueue q x).passed = s.passed := rfl
@[simp] theorem cur_setQueue (s : State) (q : Nat) (x : Queue) : (s.setQueue q x).cur = s.cur := rfl
@[simp] theorem stamp_setQueue (s : State) (q : Nat) (x : Queue) : (s.setQueue q x).stamp = s.stamp := rfl
@[simp] theorem focus_setQueue (s : State) (q : Nat) (x : Queue) : (s.setQueue q x).focus = s.focus := rfl
@[simp] theorem answers_setQueue (s : State) (q : Nat) (x : Queue) : (s.setQueue q x).answers = s.answers := rfl
@[simp] theorem free_setQueue (s : State) (q : Nat) (x : Queue) : (s.setQueue q x).free = s.free := rfl
@[simp] theorem pick_setQueue (s : State) (q : Nat) (x : Queue) : (s.setQueue q x).pick = s.pick := rfl
@[simp] theorem testing_setQueue (s : State) (q : Nat) (x : Queue) : (s.setQueue q x).testing = s.testing := rfl
@[simp] theorem ideKeys_setQueue (s : State) (q : Nat) (x : Queue) : (s.setQueue q x).ideKeys = s.ideKeys := rfl
@[simp] theorem slow_setQueue (s : State) (q : Nat) (x : Queue) : (s.setQueue q x).slow = s.slow := rfl

/-! After `setTdi`. -/

@[simp] theorem ctxs_setTdi (s : State) (n : Nat) (x : Tdi) : (s.setTdi n x).ctxs = s.ctxs := rfl
@[simp] theorem cores_setTdi (s : State) (n : Nat) (x : Tdi) : (s.setTdi n x).cores = s.cores := rfl
@[simp] theorem barns_setTdi (s : State) (n : Nat) (x : Tdi) : (s.setTdi n x).barns = s.barns := rfl
@[simp] theorem regs_setTdi (s : State) (n : Nat) (x : Tdi) : (s.setTdi n x).regs = s.regs := rfl
@[simp] theorem tiles_setTdi (s : State) (n : Nat) (x : Tdi) : (s.setTdi n x).tiles = s.tiles := rfl
@[simp] theorem mem_setTdi (s : State) (n : Nat) (x : Tdi) : (s.setTdi n x).mem = s.mem := rfl
@[simp] theorem tags_setTdi (s : State) (n : Nat) (x : Tdi) : (s.setTdi n x).tags = s.tags := rfl
@[simp] theorem slots_setTdi (s : State) (n : Nat) (x : Tdi) : (s.setTdi n x).slots = s.slots := rfl
@[simp] theorem poison_setTdi (s : State) (n : Nat) (x : Tdi) : (s.setTdi n x).poison = s.poison := rfl
@[simp] theorem stale_setTdi (s : State) (n : Nat) (x : Tdi) : (s.setTdi n x).stale = s.stale := rfl
@[simp] theorem seals_setTdi (s : State) (n : Nat) (x : Tdi) : (s.setTdi n x).seals = s.seals := rfl
@[simp] theorem reports_setTdi (s : State) (n : Nat) (x : Tdi) : (s.setTdi n x).reports = s.reports := rfl
@[simp] theorem images_setTdi (s : State) (n : Nat) (x : Tdi) : (s.setTdi n x).images = s.images := rfl
@[simp] theorem dead_setTdi (s : State) (n : Nat) (x : Tdi) : (s.setTdi n x).dead = s.dead := rfl
@[simp] theorem posted_setTdi (s : State) (n : Nat) (x : Tdi) : (s.setTdi n x).posted = s.posted := rfl
@[simp] theorem rings_setTdi (s : State) (n : Nat) (x : Tdi) : (s.setTdi n x).rings = s.rings := rfl
@[simp] theorem msgs_setTdi (s : State) (n : Nat) (x : Tdi) : (s.setTdi n x).msgs = s.msgs := rfl
@[simp] theorem regions_setTdi (s : State) (n : Nat) (x : Tdi) : (s.setTdi n x).regions = s.regions := rfl
@[simp] theorem stations_setTdi (s : State) (n : Nat) (x : Tdi) : (s.setTdi n x).stations = s.stations := rfl
@[simp] theorem yards_setTdi (s : State) (n : Nat) (x : Tdi) : (s.setTdi n x).yards = s.yards := rfl
@[simp] theorem engines_setTdi (s : State) (n : Nat) (x : Tdi) : (s.setTdi n x).engines = s.engines := rfl
@[simp] theorem ports_setTdi (s : State) (n : Nat) (x : Tdi) : (s.setTdi n x).ports = s.ports := rfl
@[simp] theorem row_setTdi (s : State) (n : Nat) (x : Tdi) : (s.setTdi n x).row = s.row := rfl
@[simp] theorem col_setTdi (s : State) (n : Nat) (x : Tdi) : (s.setTdi n x).col = s.col := rfl
@[simp] theorem sent_setTdi (s : State) (n : Nat) (x : Tdi) : (s.setTdi n x).sent = s.sent := rfl
@[simp] theorem txs_setTdi (s : State) (n : Nat) (x : Tdi) : (s.setTdi n x).txs = s.txs := rfl
@[simp] theorem hitches_setTdi (s : State) (n : Nat) (x : Tdi) : (s.setTdi n x).hitches = s.hitches := rfl
@[simp] theorem hitchGen_setTdi (s : State) (n : Nat) (x : Tdi) : (s.setTdi n x).hitchGen = s.hitchGen := rfl
@[simp] theorem launches_setTdi (s : State) (n : Nat) (x : Tdi) : (s.setTdi n x).launches = s.launches := rfl
@[simp] theorem queues_setTdi (s : State) (n : Nat) (x : Tdi) : (s.setTdi n x).queues = s.queues := rfl
@[simp] theorem tdis_setTdi (s : State) (n : Nat) (x : Tdi) : (s.setTdi n x).tdis = mput Tdi.reset s.tdis n x := rfl
@[simp] theorem sessions_setTdi (s : State) (n : Nat) (x : Tdi) : (s.setTdi n x).sessions = s.sessions := rfl
@[simp] theorem epochs_setTdi (s : State) (n : Nat) (x : Tdi) : (s.setTdi n x).epochs = s.epochs := rfl
@[simp] theorem alarms_setTdi (s : State) (n : Nat) (x : Tdi) : (s.setTdi n x).alarms = s.alarms := rfl
@[simp] theorem debugged_setTdi (s : State) (n : Nat) (x : Tdi) : (s.setTdi n x).debugged = s.debugged := rfl
@[simp] theorem keys_setTdi (s : State) (n : Nat) (x : Tdi) : (s.setTdi n x).keys = s.keys := rfl
@[simp] theorem receipts_setTdi (s : State) (n : Nat) (x : Tdi) : (s.setTdi n x).receipts = s.receipts := rfl
@[simp] theorem boot_setTdi (s : State) (n : Nat) (x : Tdi) : (s.setTdi n x).boot = s.boot := rfl
@[simp] theorem power_setTdi (s : State) (n : Nat) (x : Tdi) : (s.setTdi n x).power = s.power := rfl
@[simp] theorem throttle_setTdi (s : State) (n : Nat) (x : Tdi) : (s.setTdi n x).throttle = s.throttle := rfl
@[simp] theorem extents_setTdi (s : State) (n : Nat) (x : Tdi) : (s.setTdi n x).extents = s.extents := rfl
@[simp] theorem cycle_setTdi (s : State) (n : Nat) (x : Tdi) : (s.setTdi n x).cycle = s.cycle := rfl
@[simp] theorem agenda_setTdi (s : State) (n : Nat) (x : Tdi) : (s.setTdi n x).agenda = s.agenda := rfl
@[simp] theorem work_setTdi (s : State) (n : Nat) (x : Tdi) : (s.setTdi n x).work = s.work := rfl
@[simp] theorem todo_setTdi (s : State) (n : Nat) (x : Tdi) : (s.setTdi n x).todo = s.todo := rfl
@[simp] theorem passed_setTdi (s : State) (n : Nat) (x : Tdi) : (s.setTdi n x).passed = s.passed := rfl
@[simp] theorem cur_setTdi (s : State) (n : Nat) (x : Tdi) : (s.setTdi n x).cur = s.cur := rfl
@[simp] theorem stamp_setTdi (s : State) (n : Nat) (x : Tdi) : (s.setTdi n x).stamp = s.stamp := rfl
@[simp] theorem focus_setTdi (s : State) (n : Nat) (x : Tdi) : (s.setTdi n x).focus = s.focus := rfl
@[simp] theorem answers_setTdi (s : State) (n : Nat) (x : Tdi) : (s.setTdi n x).answers = s.answers := rfl
@[simp] theorem free_setTdi (s : State) (n : Nat) (x : Tdi) : (s.setTdi n x).free = s.free := rfl
@[simp] theorem pick_setTdi (s : State) (n : Nat) (x : Tdi) : (s.setTdi n x).pick = s.pick := rfl
@[simp] theorem testing_setTdi (s : State) (n : Nat) (x : Tdi) : (s.setTdi n x).testing = s.testing := rfl
@[simp] theorem ideKeys_setTdi (s : State) (n : Nat) (x : Tdi) : (s.setTdi n x).ideKeys = s.ideKeys := rfl
@[simp] theorem slow_setTdi (s : State) (n : Nat) (x : Tdi) : (s.setTdi n x).slow = s.slow := rfl

/-! After `push`. -/

@[simp] theorem ctxs_push (s : State) (i : Instr) : (s.push i).ctxs = s.ctxs := rfl
@[simp] theorem cores_push (s : State) (i : Instr) : (s.push i).cores = s.cores := rfl
@[simp] theorem barns_push (s : State) (i : Instr) : (s.push i).barns = s.barns := rfl
@[simp] theorem regs_push (s : State) (i : Instr) : (s.push i).regs = s.regs := rfl
@[simp] theorem tiles_push (s : State) (i : Instr) : (s.push i).tiles = s.tiles := rfl
@[simp] theorem mem_push (s : State) (i : Instr) : (s.push i).mem = s.mem := rfl
@[simp] theorem tags_push (s : State) (i : Instr) : (s.push i).tags = s.tags := rfl
@[simp] theorem slots_push (s : State) (i : Instr) : (s.push i).slots = s.slots := rfl
@[simp] theorem poison_push (s : State) (i : Instr) : (s.push i).poison = s.poison := rfl
@[simp] theorem stale_push (s : State) (i : Instr) : (s.push i).stale = s.stale := rfl
@[simp] theorem seals_push (s : State) (i : Instr) : (s.push i).seals = s.seals := rfl
@[simp] theorem reports_push (s : State) (i : Instr) : (s.push i).reports = s.reports := rfl
@[simp] theorem images_push (s : State) (i : Instr) : (s.push i).images = s.images := rfl
@[simp] theorem dead_push (s : State) (i : Instr) : (s.push i).dead = s.dead := rfl
@[simp] theorem posted_push (s : State) (i : Instr) : (s.push i).posted = s.posted := rfl
@[simp] theorem rings_push (s : State) (i : Instr) : (s.push i).rings = s.rings := rfl
@[simp] theorem msgs_push (s : State) (i : Instr) : (s.push i).msgs = s.msgs := rfl
@[simp] theorem regions_push (s : State) (i : Instr) : (s.push i).regions = s.regions := rfl
@[simp] theorem stations_push (s : State) (i : Instr) : (s.push i).stations = s.stations := rfl
@[simp] theorem yards_push (s : State) (i : Instr) : (s.push i).yards = s.yards := rfl
@[simp] theorem engines_push (s : State) (i : Instr) : (s.push i).engines = s.engines := rfl
@[simp] theorem ports_push (s : State) (i : Instr) : (s.push i).ports = s.ports := rfl
@[simp] theorem row_push (s : State) (i : Instr) : (s.push i).row = s.row := rfl
@[simp] theorem col_push (s : State) (i : Instr) : (s.push i).col = s.col := rfl
@[simp] theorem sent_push (s : State) (i : Instr) : (s.push i).sent = s.sent := rfl
@[simp] theorem txs_push (s : State) (i : Instr) : (s.push i).txs = s.txs := rfl
@[simp] theorem hitches_push (s : State) (i : Instr) : (s.push i).hitches = s.hitches := rfl
@[simp] theorem hitchGen_push (s : State) (i : Instr) : (s.push i).hitchGen = s.hitchGen := rfl
@[simp] theorem launches_push (s : State) (i : Instr) : (s.push i).launches = s.launches := rfl
@[simp] theorem queues_push (s : State) (i : Instr) : (s.push i).queues = s.queues := rfl
@[simp] theorem tdis_push (s : State) (i : Instr) : (s.push i).tdis = s.tdis := rfl
@[simp] theorem sessions_push (s : State) (i : Instr) : (s.push i).sessions = s.sessions := rfl
@[simp] theorem epochs_push (s : State) (i : Instr) : (s.push i).epochs = s.epochs := rfl
@[simp] theorem alarms_push (s : State) (i : Instr) : (s.push i).alarms = s.alarms := rfl
@[simp] theorem debugged_push (s : State) (i : Instr) : (s.push i).debugged = s.debugged := rfl
@[simp] theorem keys_push (s : State) (i : Instr) : (s.push i).keys = s.keys := rfl
@[simp] theorem receipts_push (s : State) (i : Instr) : (s.push i).receipts = s.receipts := rfl
@[simp] theorem boot_push (s : State) (i : Instr) : (s.push i).boot = s.boot := rfl
@[simp] theorem power_push (s : State) (i : Instr) : (s.push i).power = s.power := rfl
@[simp] theorem throttle_push (s : State) (i : Instr) : (s.push i).throttle = s.throttle := rfl
@[simp] theorem extents_push (s : State) (i : Instr) : (s.push i).extents = s.extents := rfl
@[simp] theorem cycle_push (s : State) (i : Instr) : (s.push i).cycle = s.cycle := rfl
@[simp] theorem agenda_push (s : State) (i : Instr) : (s.push i).agenda = s.agenda := rfl
@[simp] theorem work_push (s : State) (i : Instr) : (s.push i).work = s.work ++ [i] := rfl
@[simp] theorem todo_push (s : State) (i : Instr) : (s.push i).todo = s.todo := rfl
@[simp] theorem passed_push (s : State) (i : Instr) : (s.push i).passed = s.passed := rfl
@[simp] theorem cur_push (s : State) (i : Instr) : (s.push i).cur = s.cur := rfl
@[simp] theorem stamp_push (s : State) (i : Instr) : (s.push i).stamp = s.stamp := rfl
@[simp] theorem focus_push (s : State) (i : Instr) : (s.push i).focus = s.focus := rfl
@[simp] theorem answers_push (s : State) (i : Instr) : (s.push i).answers = s.answers := rfl
@[simp] theorem free_push (s : State) (i : Instr) : (s.push i).free = s.free := rfl
@[simp] theorem pick_push (s : State) (i : Instr) : (s.push i).pick = s.pick := rfl
@[simp] theorem testing_push (s : State) (i : Instr) : (s.push i).testing = s.testing := rfl
@[simp] theorem ideKeys_push (s : State) (i : Instr) : (s.push i).ideKeys = s.ideKeys := rfl
@[simp] theorem slow_push (s : State) (i : Instr) : (s.push i).slow = s.slow := rfl

/-! After `did`. -/

@[simp] theorem ctxs_did (s : State) (i : Instr) : (s.did i).ctxs = s.ctxs := rfl
@[simp] theorem cores_did (s : State) (i : Instr) : (s.did i).cores = s.cores := rfl
@[simp] theorem barns_did (s : State) (i : Instr) : (s.did i).barns = s.barns := rfl
@[simp] theorem regs_did (s : State) (i : Instr) : (s.did i).regs = s.regs := rfl
@[simp] theorem tiles_did (s : State) (i : Instr) : (s.did i).tiles = s.tiles := rfl
@[simp] theorem mem_did (s : State) (i : Instr) : (s.did i).mem = s.mem := rfl
@[simp] theorem tags_did (s : State) (i : Instr) : (s.did i).tags = s.tags := rfl
@[simp] theorem slots_did (s : State) (i : Instr) : (s.did i).slots = s.slots := rfl
@[simp] theorem poison_did (s : State) (i : Instr) : (s.did i).poison = s.poison := rfl
@[simp] theorem stale_did (s : State) (i : Instr) : (s.did i).stale = s.stale := rfl
@[simp] theorem seals_did (s : State) (i : Instr) : (s.did i).seals = s.seals := rfl
@[simp] theorem reports_did (s : State) (i : Instr) : (s.did i).reports = s.reports := rfl
@[simp] theorem images_did (s : State) (i : Instr) : (s.did i).images = s.images := rfl
@[simp] theorem dead_did (s : State) (i : Instr) : (s.did i).dead = s.dead := rfl
@[simp] theorem posted_did (s : State) (i : Instr) : (s.did i).posted = s.posted := rfl
@[simp] theorem rings_did (s : State) (i : Instr) : (s.did i).rings = s.rings := rfl
@[simp] theorem msgs_did (s : State) (i : Instr) : (s.did i).msgs = s.msgs := rfl
@[simp] theorem regions_did (s : State) (i : Instr) : (s.did i).regions = s.regions := rfl
@[simp] theorem stations_did (s : State) (i : Instr) : (s.did i).stations = s.stations := rfl
@[simp] theorem yards_did (s : State) (i : Instr) : (s.did i).yards = s.yards := rfl
@[simp] theorem engines_did (s : State) (i : Instr) : (s.did i).engines = s.engines := rfl
@[simp] theorem ports_did (s : State) (i : Instr) : (s.did i).ports = s.ports := rfl
@[simp] theorem row_did (s : State) (i : Instr) : (s.did i).row = s.row := rfl
@[simp] theorem col_did (s : State) (i : Instr) : (s.did i).col = s.col := rfl
@[simp] theorem sent_did (s : State) (i : Instr) : (s.did i).sent = s.sent := rfl
@[simp] theorem txs_did (s : State) (i : Instr) : (s.did i).txs = s.txs := rfl
@[simp] theorem hitches_did (s : State) (i : Instr) : (s.did i).hitches = s.hitches := rfl
@[simp] theorem hitchGen_did (s : State) (i : Instr) : (s.did i).hitchGen = s.hitchGen := rfl
@[simp] theorem launches_did (s : State) (i : Instr) : (s.did i).launches = s.launches := rfl
@[simp] theorem queues_did (s : State) (i : Instr) : (s.did i).queues = s.queues := rfl
@[simp] theorem tdis_did (s : State) (i : Instr) : (s.did i).tdis = s.tdis := rfl
@[simp] theorem sessions_did (s : State) (i : Instr) : (s.did i).sessions = s.sessions := rfl
@[simp] theorem epochs_did (s : State) (i : Instr) : (s.did i).epochs = s.epochs := rfl
@[simp] theorem alarms_did (s : State) (i : Instr) : (s.did i).alarms = s.alarms := rfl
@[simp] theorem debugged_did (s : State) (i : Instr) : (s.did i).debugged = s.debugged := rfl
@[simp] theorem keys_did (s : State) (i : Instr) : (s.did i).keys = s.keys := rfl
@[simp] theorem receipts_did (s : State) (i : Instr) : (s.did i).receipts = s.receipts := rfl
@[simp] theorem boot_did (s : State) (i : Instr) : (s.did i).boot = s.boot := rfl
@[simp] theorem power_did (s : State) (i : Instr) : (s.did i).power = s.power := rfl
@[simp] theorem throttle_did (s : State) (i : Instr) : (s.did i).throttle = s.throttle := rfl
@[simp] theorem extents_did (s : State) (i : Instr) : (s.did i).extents = s.extents := rfl
@[simp] theorem cycle_did (s : State) (i : Instr) : (s.did i).cycle = s.cycle := rfl
@[simp] theorem agenda_did (s : State) (i : Instr) : (s.did i).agenda = s.agenda := rfl
@[simp] theorem work_did (s : State) (i : Instr) : (s.did i).work = s.work.erase i := rfl
@[simp] theorem todo_did (s : State) (i : Instr) : (s.did i).todo = s.todo := rfl
@[simp] theorem passed_did (s : State) (i : Instr) : (s.did i).passed = s.passed := rfl
@[simp] theorem cur_did (s : State) (i : Instr) : (s.did i).cur = s.cur := rfl
@[simp] theorem stamp_did (s : State) (i : Instr) : (s.did i).stamp = s.stamp := rfl
@[simp] theorem focus_did (s : State) (i : Instr) : (s.did i).focus = s.focus := rfl
@[simp] theorem answers_did (s : State) (i : Instr) : (s.did i).answers = s.answers := rfl
@[simp] theorem free_did (s : State) (i : Instr) : (s.did i).free = s.free := rfl
@[simp] theorem pick_did (s : State) (i : Instr) : (s.did i).pick = s.pick := rfl
@[simp] theorem testing_did (s : State) (i : Instr) : (s.did i).testing = s.testing := rfl
@[simp] theorem ideKeys_did (s : State) (i : Instr) : (s.did i).ideKeys = s.ideKeys := rfl
@[simp] theorem slow_did (s : State) (i : Instr) : (s.did i).slow = s.slow := rfl

/-! After `setRegOf`. -/

@[simp] theorem ctxs_setRegOf (s : State) (c n : Nat) (v : Word) : (s.setRegOf c n v).ctxs = s.ctxs := rfl
@[simp] theorem cores_setRegOf (s : State) (c n : Nat) (v : Word) : (s.setRegOf c n v).cores = s.cores := rfl
@[simp] theorem barns_setRegOf (s : State) (c n : Nat) (v : Word) : (s.setRegOf c n v).barns = s.barns := rfl
@[simp] theorem regs_setRegOf (s : State) (c n : Nat) (v : Word) : (s.setRegOf c n v).regs = mput 0 s.regs (s.regKey c n) v := rfl
@[simp] theorem tiles_setRegOf (s : State) (c n : Nat) (v : Word) : (s.setRegOf c n v).tiles = s.tiles := rfl
@[simp] theorem mem_setRegOf (s : State) (c n : Nat) (v : Word) : (s.setRegOf c n v).mem = s.mem := rfl
@[simp] theorem tags_setRegOf (s : State) (c n : Nat) (v : Word) : (s.setRegOf c n v).tags = s.tags := rfl
@[simp] theorem slots_setRegOf (s : State) (c n : Nat) (v : Word) : (s.setRegOf c n v).slots = s.slots := rfl
@[simp] theorem poison_setRegOf (s : State) (c n : Nat) (v : Word) : (s.setRegOf c n v).poison = s.poison := rfl
@[simp] theorem stale_setRegOf (s : State) (c n : Nat) (v : Word) : (s.setRegOf c n v).stale = s.stale := rfl
@[simp] theorem seals_setRegOf (s : State) (c n : Nat) (v : Word) : (s.setRegOf c n v).seals = s.seals := rfl
@[simp] theorem reports_setRegOf (s : State) (c n : Nat) (v : Word) : (s.setRegOf c n v).reports = s.reports := rfl
@[simp] theorem images_setRegOf (s : State) (c n : Nat) (v : Word) : (s.setRegOf c n v).images = s.images := rfl
@[simp] theorem dead_setRegOf (s : State) (c n : Nat) (v : Word) : (s.setRegOf c n v).dead = s.dead := rfl
@[simp] theorem posted_setRegOf (s : State) (c n : Nat) (v : Word) : (s.setRegOf c n v).posted = s.posted := rfl
@[simp] theorem rings_setRegOf (s : State) (c n : Nat) (v : Word) : (s.setRegOf c n v).rings = s.rings := rfl
@[simp] theorem msgs_setRegOf (s : State) (c n : Nat) (v : Word) : (s.setRegOf c n v).msgs = s.msgs := rfl
@[simp] theorem regions_setRegOf (s : State) (c n : Nat) (v : Word) : (s.setRegOf c n v).regions = s.regions := rfl
@[simp] theorem stations_setRegOf (s : State) (c n : Nat) (v : Word) : (s.setRegOf c n v).stations = s.stations := rfl
@[simp] theorem yards_setRegOf (s : State) (c n : Nat) (v : Word) : (s.setRegOf c n v).yards = s.yards := rfl
@[simp] theorem engines_setRegOf (s : State) (c n : Nat) (v : Word) : (s.setRegOf c n v).engines = s.engines := rfl
@[simp] theorem ports_setRegOf (s : State) (c n : Nat) (v : Word) : (s.setRegOf c n v).ports = s.ports := rfl
@[simp] theorem row_setRegOf (s : State) (c n : Nat) (v : Word) : (s.setRegOf c n v).row = s.row := rfl
@[simp] theorem col_setRegOf (s : State) (c n : Nat) (v : Word) : (s.setRegOf c n v).col = s.col := rfl
@[simp] theorem sent_setRegOf (s : State) (c n : Nat) (v : Word) : (s.setRegOf c n v).sent = s.sent := rfl
@[simp] theorem txs_setRegOf (s : State) (c n : Nat) (v : Word) : (s.setRegOf c n v).txs = s.txs := rfl
@[simp] theorem hitches_setRegOf (s : State) (c n : Nat) (v : Word) : (s.setRegOf c n v).hitches = s.hitches := rfl
@[simp] theorem hitchGen_setRegOf (s : State) (c n : Nat) (v : Word) : (s.setRegOf c n v).hitchGen = s.hitchGen := rfl
@[simp] theorem launches_setRegOf (s : State) (c n : Nat) (v : Word) : (s.setRegOf c n v).launches = s.launches := rfl
@[simp] theorem queues_setRegOf (s : State) (c n : Nat) (v : Word) : (s.setRegOf c n v).queues = s.queues := rfl
@[simp] theorem tdis_setRegOf (s : State) (c n : Nat) (v : Word) : (s.setRegOf c n v).tdis = s.tdis := rfl
@[simp] theorem sessions_setRegOf (s : State) (c n : Nat) (v : Word) : (s.setRegOf c n v).sessions = s.sessions := rfl
@[simp] theorem epochs_setRegOf (s : State) (c n : Nat) (v : Word) : (s.setRegOf c n v).epochs = s.epochs := rfl
@[simp] theorem alarms_setRegOf (s : State) (c n : Nat) (v : Word) : (s.setRegOf c n v).alarms = s.alarms := rfl
@[simp] theorem debugged_setRegOf (s : State) (c n : Nat) (v : Word) : (s.setRegOf c n v).debugged = s.debugged := rfl
@[simp] theorem keys_setRegOf (s : State) (c n : Nat) (v : Word) : (s.setRegOf c n v).keys = s.keys := rfl
@[simp] theorem receipts_setRegOf (s : State) (c n : Nat) (v : Word) : (s.setRegOf c n v).receipts = s.receipts := rfl
@[simp] theorem boot_setRegOf (s : State) (c n : Nat) (v : Word) : (s.setRegOf c n v).boot = s.boot := rfl
@[simp] theorem power_setRegOf (s : State) (c n : Nat) (v : Word) : (s.setRegOf c n v).power = s.power := rfl
@[simp] theorem throttle_setRegOf (s : State) (c n : Nat) (v : Word) : (s.setRegOf c n v).throttle = s.throttle := rfl
@[simp] theorem extents_setRegOf (s : State) (c n : Nat) (v : Word) : (s.setRegOf c n v).extents = s.extents := rfl
@[simp] theorem cycle_setRegOf (s : State) (c n : Nat) (v : Word) : (s.setRegOf c n v).cycle = s.cycle := rfl
@[simp] theorem agenda_setRegOf (s : State) (c n : Nat) (v : Word) : (s.setRegOf c n v).agenda = s.agenda := rfl
@[simp] theorem work_setRegOf (s : State) (c n : Nat) (v : Word) : (s.setRegOf c n v).work = s.work := rfl
@[simp] theorem todo_setRegOf (s : State) (c n : Nat) (v : Word) : (s.setRegOf c n v).todo = s.todo := rfl
@[simp] theorem passed_setRegOf (s : State) (c n : Nat) (v : Word) : (s.setRegOf c n v).passed = s.passed := rfl
@[simp] theorem cur_setRegOf (s : State) (c n : Nat) (v : Word) : (s.setRegOf c n v).cur = s.cur := rfl
@[simp] theorem stamp_setRegOf (s : State) (c n : Nat) (v : Word) : (s.setRegOf c n v).stamp = s.stamp := rfl
@[simp] theorem focus_setRegOf (s : State) (c n : Nat) (v : Word) : (s.setRegOf c n v).focus = s.focus := rfl
@[simp] theorem answers_setRegOf (s : State) (c n : Nat) (v : Word) : (s.setRegOf c n v).answers = s.answers := rfl
@[simp] theorem free_setRegOf (s : State) (c n : Nat) (v : Word) : (s.setRegOf c n v).free = s.free := rfl
@[simp] theorem pick_setRegOf (s : State) (c n : Nat) (v : Word) : (s.setRegOf c n v).pick = s.pick := rfl
@[simp] theorem testing_setRegOf (s : State) (c n : Nat) (v : Word) : (s.setRegOf c n v).testing = s.testing := rfl
@[simp] theorem ideKeys_setRegOf (s : State) (c n : Nat) (v : Word) : (s.setRegOf c n v).ideKeys = s.ideKeys := rfl
@[simp] theorem slow_setRegOf (s : State) (c n : Nat) (v : Word) : (s.setRegOf c n v).slow = s.slow := rfl

/-! After `writeByte`. -/

@[simp] theorem ctxs_writeByte (s : State) (loc : Nat) (b : Byte) : (s.writeByte loc b).ctxs = s.ctxs := rfl
@[simp] theorem cores_writeByte (s : State) (loc : Nat) (b : Byte) : (s.writeByte loc b).cores = s.cores := rfl
@[simp] theorem barns_writeByte (s : State) (loc : Nat) (b : Byte) : (s.writeByte loc b).barns = s.barns := rfl
@[simp] theorem regs_writeByte (s : State) (loc : Nat) (b : Byte) : (s.writeByte loc b).regs = s.regs := rfl
@[simp] theorem tiles_writeByte (s : State) (loc : Nat) (b : Byte) : (s.writeByte loc b).tiles = s.tiles := rfl
@[simp] theorem mem_writeByte (s : State) (loc : Nat) (b : Byte) : (s.writeByte loc b).mem = mput 0 s.mem loc b := rfl
@[simp] theorem tags_writeByte (s : State) (loc : Nat) (b : Byte) : (s.writeByte loc b).tags = s.tags := rfl
@[simp] theorem slots_writeByte (s : State) (loc : Nat) (b : Byte) : (s.writeByte loc b).slots = s.slots := rfl
@[simp] theorem poison_writeByte (s : State) (loc : Nat) (b : Byte) : (s.writeByte loc b).poison = s.poison := rfl
@[simp] theorem stale_writeByte (s : State) (loc : Nat) (b : Byte) : (s.writeByte loc b).stale = s.stale := rfl
@[simp] theorem seals_writeByte (s : State) (loc : Nat) (b : Byte) : (s.writeByte loc b).seals = s.seals := rfl
@[simp] theorem reports_writeByte (s : State) (loc : Nat) (b : Byte) : (s.writeByte loc b).reports = s.reports := rfl
@[simp] theorem images_writeByte (s : State) (loc : Nat) (b : Byte) : (s.writeByte loc b).images = s.images := rfl
@[simp] theorem dead_writeByte (s : State) (loc : Nat) (b : Byte) : (s.writeByte loc b).dead = s.dead := rfl
@[simp] theorem posted_writeByte (s : State) (loc : Nat) (b : Byte) : (s.writeByte loc b).posted = s.posted := rfl
@[simp] theorem rings_writeByte (s : State) (loc : Nat) (b : Byte) : (s.writeByte loc b).rings = s.rings := rfl
@[simp] theorem msgs_writeByte (s : State) (loc : Nat) (b : Byte) : (s.writeByte loc b).msgs = s.msgs := rfl
@[simp] theorem regions_writeByte (s : State) (loc : Nat) (b : Byte) : (s.writeByte loc b).regions = s.regions := rfl
@[simp] theorem stations_writeByte (s : State) (loc : Nat) (b : Byte) : (s.writeByte loc b).stations = s.stations := rfl
@[simp] theorem yards_writeByte (s : State) (loc : Nat) (b : Byte) : (s.writeByte loc b).yards = s.yards := rfl
@[simp] theorem engines_writeByte (s : State) (loc : Nat) (b : Byte) : (s.writeByte loc b).engines = s.engines := rfl
@[simp] theorem ports_writeByte (s : State) (loc : Nat) (b : Byte) : (s.writeByte loc b).ports = s.ports := rfl
@[simp] theorem row_writeByte (s : State) (loc : Nat) (b : Byte) : (s.writeByte loc b).row = s.row := rfl
@[simp] theorem col_writeByte (s : State) (loc : Nat) (b : Byte) : (s.writeByte loc b).col = s.col := rfl
@[simp] theorem sent_writeByte (s : State) (loc : Nat) (b : Byte) : (s.writeByte loc b).sent = s.sent := rfl
@[simp] theorem txs_writeByte (s : State) (loc : Nat) (b : Byte) : (s.writeByte loc b).txs = s.txs := rfl
@[simp] theorem hitches_writeByte (s : State) (loc : Nat) (b : Byte) : (s.writeByte loc b).hitches = s.hitches := rfl
@[simp] theorem hitchGen_writeByte (s : State) (loc : Nat) (b : Byte) : (s.writeByte loc b).hitchGen = s.hitchGen := rfl
@[simp] theorem launches_writeByte (s : State) (loc : Nat) (b : Byte) : (s.writeByte loc b).launches = s.launches := rfl
@[simp] theorem queues_writeByte (s : State) (loc : Nat) (b : Byte) : (s.writeByte loc b).queues = s.queues := rfl
@[simp] theorem tdis_writeByte (s : State) (loc : Nat) (b : Byte) : (s.writeByte loc b).tdis = s.tdis := rfl
@[simp] theorem sessions_writeByte (s : State) (loc : Nat) (b : Byte) : (s.writeByte loc b).sessions = s.sessions := rfl
@[simp] theorem epochs_writeByte (s : State) (loc : Nat) (b : Byte) : (s.writeByte loc b).epochs = s.epochs := rfl
@[simp] theorem alarms_writeByte (s : State) (loc : Nat) (b : Byte) : (s.writeByte loc b).alarms = s.alarms := rfl
@[simp] theorem debugged_writeByte (s : State) (loc : Nat) (b : Byte) : (s.writeByte loc b).debugged = s.debugged := rfl
@[simp] theorem keys_writeByte (s : State) (loc : Nat) (b : Byte) : (s.writeByte loc b).keys = s.keys := rfl
@[simp] theorem receipts_writeByte (s : State) (loc : Nat) (b : Byte) : (s.writeByte loc b).receipts = s.receipts := rfl
@[simp] theorem boot_writeByte (s : State) (loc : Nat) (b : Byte) : (s.writeByte loc b).boot = s.boot := rfl
@[simp] theorem power_writeByte (s : State) (loc : Nat) (b : Byte) : (s.writeByte loc b).power = s.power := rfl
@[simp] theorem throttle_writeByte (s : State) (loc : Nat) (b : Byte) : (s.writeByte loc b).throttle = s.throttle := rfl
@[simp] theorem extents_writeByte (s : State) (loc : Nat) (b : Byte) : (s.writeByte loc b).extents = s.extents := rfl
@[simp] theorem cycle_writeByte (s : State) (loc : Nat) (b : Byte) : (s.writeByte loc b).cycle = s.cycle := rfl
@[simp] theorem agenda_writeByte (s : State) (loc : Nat) (b : Byte) : (s.writeByte loc b).agenda = s.agenda := rfl
@[simp] theorem work_writeByte (s : State) (loc : Nat) (b : Byte) : (s.writeByte loc b).work = s.work := rfl
@[simp] theorem todo_writeByte (s : State) (loc : Nat) (b : Byte) : (s.writeByte loc b).todo = s.todo := rfl
@[simp] theorem passed_writeByte (s : State) (loc : Nat) (b : Byte) : (s.writeByte loc b).passed = s.passed := rfl
@[simp] theorem cur_writeByte (s : State) (loc : Nat) (b : Byte) : (s.writeByte loc b).cur = s.cur := rfl
@[simp] theorem stamp_writeByte (s : State) (loc : Nat) (b : Byte) : (s.writeByte loc b).stamp = s.stamp := rfl
@[simp] theorem focus_writeByte (s : State) (loc : Nat) (b : Byte) : (s.writeByte loc b).focus = s.focus := rfl
@[simp] theorem answers_writeByte (s : State) (loc : Nat) (b : Byte) : (s.writeByte loc b).answers = s.answers := rfl
@[simp] theorem free_writeByte (s : State) (loc : Nat) (b : Byte) : (s.writeByte loc b).free = s.free := rfl
@[simp] theorem pick_writeByte (s : State) (loc : Nat) (b : Byte) : (s.writeByte loc b).pick = s.pick := rfl
@[simp] theorem testing_writeByte (s : State) (loc : Nat) (b : Byte) : (s.writeByte loc b).testing = s.testing := rfl
@[simp] theorem ideKeys_writeByte (s : State) (loc : Nat) (b : Byte) : (s.writeByte loc b).ideKeys = s.ideKeys := rfl
@[simp] theorem slow_writeByte (s : State) (loc : Nat) (b : Byte) : (s.writeByte loc b).slow = s.slow := rfl

/-! After `setTag`. -/

@[simp] theorem ctxs_setTag (s : State) (loc : Nat) (v : BitVec 16) : (s.setTag loc v).ctxs = s.ctxs := rfl
@[simp] theorem cores_setTag (s : State) (loc : Nat) (v : BitVec 16) : (s.setTag loc v).cores = s.cores := rfl
@[simp] theorem barns_setTag (s : State) (loc : Nat) (v : BitVec 16) : (s.setTag loc v).barns = s.barns := rfl
@[simp] theorem regs_setTag (s : State) (loc : Nat) (v : BitVec 16) : (s.setTag loc v).regs = s.regs := rfl
@[simp] theorem tiles_setTag (s : State) (loc : Nat) (v : BitVec 16) : (s.setTag loc v).tiles = s.tiles := rfl
@[simp] theorem mem_setTag (s : State) (loc : Nat) (v : BitVec 16) : (s.setTag loc v).mem = s.mem := rfl
@[simp] theorem tags_setTag (s : State) (loc : Nat) (v : BitVec 16) : (s.setTag loc v).tags = mput 0 s.tags (loc / 64) v := rfl
@[simp] theorem slots_setTag (s : State) (loc : Nat) (v : BitVec 16) : (s.setTag loc v).slots = s.slots := rfl
@[simp] theorem poison_setTag (s : State) (loc : Nat) (v : BitVec 16) : (s.setTag loc v).poison = s.poison := rfl
@[simp] theorem stale_setTag (s : State) (loc : Nat) (v : BitVec 16) : (s.setTag loc v).stale = s.stale := rfl
@[simp] theorem seals_setTag (s : State) (loc : Nat) (v : BitVec 16) : (s.setTag loc v).seals = s.seals := rfl
@[simp] theorem reports_setTag (s : State) (loc : Nat) (v : BitVec 16) : (s.setTag loc v).reports = s.reports := rfl
@[simp] theorem images_setTag (s : State) (loc : Nat) (v : BitVec 16) : (s.setTag loc v).images = s.images := rfl
@[simp] theorem dead_setTag (s : State) (loc : Nat) (v : BitVec 16) : (s.setTag loc v).dead = s.dead := rfl
@[simp] theorem posted_setTag (s : State) (loc : Nat) (v : BitVec 16) : (s.setTag loc v).posted = s.posted := rfl
@[simp] theorem rings_setTag (s : State) (loc : Nat) (v : BitVec 16) : (s.setTag loc v).rings = s.rings := rfl
@[simp] theorem msgs_setTag (s : State) (loc : Nat) (v : BitVec 16) : (s.setTag loc v).msgs = s.msgs := rfl
@[simp] theorem regions_setTag (s : State) (loc : Nat) (v : BitVec 16) : (s.setTag loc v).regions = s.regions := rfl
@[simp] theorem stations_setTag (s : State) (loc : Nat) (v : BitVec 16) : (s.setTag loc v).stations = s.stations := rfl
@[simp] theorem yards_setTag (s : State) (loc : Nat) (v : BitVec 16) : (s.setTag loc v).yards = s.yards := rfl
@[simp] theorem engines_setTag (s : State) (loc : Nat) (v : BitVec 16) : (s.setTag loc v).engines = s.engines := rfl
@[simp] theorem ports_setTag (s : State) (loc : Nat) (v : BitVec 16) : (s.setTag loc v).ports = s.ports := rfl
@[simp] theorem row_setTag (s : State) (loc : Nat) (v : BitVec 16) : (s.setTag loc v).row = s.row := rfl
@[simp] theorem col_setTag (s : State) (loc : Nat) (v : BitVec 16) : (s.setTag loc v).col = s.col := rfl
@[simp] theorem sent_setTag (s : State) (loc : Nat) (v : BitVec 16) : (s.setTag loc v).sent = s.sent := rfl
@[simp] theorem txs_setTag (s : State) (loc : Nat) (v : BitVec 16) : (s.setTag loc v).txs = s.txs := rfl
@[simp] theorem hitches_setTag (s : State) (loc : Nat) (v : BitVec 16) : (s.setTag loc v).hitches = s.hitches := rfl
@[simp] theorem hitchGen_setTag (s : State) (loc : Nat) (v : BitVec 16) : (s.setTag loc v).hitchGen = s.hitchGen := rfl
@[simp] theorem launches_setTag (s : State) (loc : Nat) (v : BitVec 16) : (s.setTag loc v).launches = s.launches := rfl
@[simp] theorem queues_setTag (s : State) (loc : Nat) (v : BitVec 16) : (s.setTag loc v).queues = s.queues := rfl
@[simp] theorem tdis_setTag (s : State) (loc : Nat) (v : BitVec 16) : (s.setTag loc v).tdis = s.tdis := rfl
@[simp] theorem sessions_setTag (s : State) (loc : Nat) (v : BitVec 16) : (s.setTag loc v).sessions = s.sessions := rfl
@[simp] theorem epochs_setTag (s : State) (loc : Nat) (v : BitVec 16) : (s.setTag loc v).epochs = s.epochs := rfl
@[simp] theorem alarms_setTag (s : State) (loc : Nat) (v : BitVec 16) : (s.setTag loc v).alarms = s.alarms := rfl
@[simp] theorem debugged_setTag (s : State) (loc : Nat) (v : BitVec 16) : (s.setTag loc v).debugged = s.debugged := rfl
@[simp] theorem keys_setTag (s : State) (loc : Nat) (v : BitVec 16) : (s.setTag loc v).keys = s.keys := rfl
@[simp] theorem receipts_setTag (s : State) (loc : Nat) (v : BitVec 16) : (s.setTag loc v).receipts = s.receipts := rfl
@[simp] theorem boot_setTag (s : State) (loc : Nat) (v : BitVec 16) : (s.setTag loc v).boot = s.boot := rfl
@[simp] theorem power_setTag (s : State) (loc : Nat) (v : BitVec 16) : (s.setTag loc v).power = s.power := rfl
@[simp] theorem throttle_setTag (s : State) (loc : Nat) (v : BitVec 16) : (s.setTag loc v).throttle = s.throttle := rfl
@[simp] theorem extents_setTag (s : State) (loc : Nat) (v : BitVec 16) : (s.setTag loc v).extents = s.extents := rfl
@[simp] theorem cycle_setTag (s : State) (loc : Nat) (v : BitVec 16) : (s.setTag loc v).cycle = s.cycle := rfl
@[simp] theorem agenda_setTag (s : State) (loc : Nat) (v : BitVec 16) : (s.setTag loc v).agenda = s.agenda := rfl
@[simp] theorem work_setTag (s : State) (loc : Nat) (v : BitVec 16) : (s.setTag loc v).work = s.work := rfl
@[simp] theorem todo_setTag (s : State) (loc : Nat) (v : BitVec 16) : (s.setTag loc v).todo = s.todo := rfl
@[simp] theorem passed_setTag (s : State) (loc : Nat) (v : BitVec 16) : (s.setTag loc v).passed = s.passed := rfl
@[simp] theorem cur_setTag (s : State) (loc : Nat) (v : BitVec 16) : (s.setTag loc v).cur = s.cur := rfl
@[simp] theorem stamp_setTag (s : State) (loc : Nat) (v : BitVec 16) : (s.setTag loc v).stamp = s.stamp := rfl
@[simp] theorem focus_setTag (s : State) (loc : Nat) (v : BitVec 16) : (s.setTag loc v).focus = s.focus := rfl
@[simp] theorem answers_setTag (s : State) (loc : Nat) (v : BitVec 16) : (s.setTag loc v).answers = s.answers := rfl
@[simp] theorem free_setTag (s : State) (loc : Nat) (v : BitVec 16) : (s.setTag loc v).free = s.free := rfl
@[simp] theorem pick_setTag (s : State) (loc : Nat) (v : BitVec 16) : (s.setTag loc v).pick = s.pick := rfl
@[simp] theorem testing_setTag (s : State) (loc : Nat) (v : BitVec 16) : (s.setTag loc v).testing = s.testing := rfl
@[simp] theorem ideKeys_setTag (s : State) (loc : Nat) (v : BitVec 16) : (s.setTag loc v).ideKeys = s.ideKeys := rfl
@[simp] theorem slow_setTag (s : State) (loc : Nat) (v : BitVec 16) : (s.setTag loc v).slow = s.slow := rfl

/-! After `setSlot`. -/

@[simp] theorem ctxs_setSlot (s : State) (loc : Nat) (k : Cap) : (s.setSlot loc k).ctxs = s.ctxs := rfl
@[simp] theorem cores_setSlot (s : State) (loc : Nat) (k : Cap) : (s.setSlot loc k).cores = s.cores := rfl
@[simp] theorem barns_setSlot (s : State) (loc : Nat) (k : Cap) : (s.setSlot loc k).barns = s.barns := rfl
@[simp] theorem regs_setSlot (s : State) (loc : Nat) (k : Cap) : (s.setSlot loc k).regs = s.regs := rfl
@[simp] theorem tiles_setSlot (s : State) (loc : Nat) (k : Cap) : (s.setSlot loc k).tiles = s.tiles := rfl
@[simp] theorem mem_setSlot (s : State) (loc : Nat) (k : Cap) : (s.setSlot loc k).mem = s.mem := rfl
@[simp] theorem tags_setSlot (s : State) (loc : Nat) (k : Cap) : (s.setSlot loc k).tags = s.tags := rfl
@[simp] theorem slots_setSlot (s : State) (loc : Nat) (k : Cap) : (s.setSlot loc k).slots = mput Cap.null s.slots (loc / 16) k := rfl
@[simp] theorem poison_setSlot (s : State) (loc : Nat) (k : Cap) : (s.setSlot loc k).poison = s.poison := rfl
@[simp] theorem stale_setSlot (s : State) (loc : Nat) (k : Cap) : (s.setSlot loc k).stale = s.stale := rfl
@[simp] theorem seals_setSlot (s : State) (loc : Nat) (k : Cap) : (s.setSlot loc k).seals = s.seals := rfl
@[simp] theorem reports_setSlot (s : State) (loc : Nat) (k : Cap) : (s.setSlot loc k).reports = s.reports := rfl
@[simp] theorem images_setSlot (s : State) (loc : Nat) (k : Cap) : (s.setSlot loc k).images = s.images := rfl
@[simp] theorem dead_setSlot (s : State) (loc : Nat) (k : Cap) : (s.setSlot loc k).dead = s.dead := rfl
@[simp] theorem posted_setSlot (s : State) (loc : Nat) (k : Cap) : (s.setSlot loc k).posted = s.posted := rfl
@[simp] theorem rings_setSlot (s : State) (loc : Nat) (k : Cap) : (s.setSlot loc k).rings = s.rings := rfl
@[simp] theorem msgs_setSlot (s : State) (loc : Nat) (k : Cap) : (s.setSlot loc k).msgs = s.msgs := rfl
@[simp] theorem regions_setSlot (s : State) (loc : Nat) (k : Cap) : (s.setSlot loc k).regions = s.regions := rfl
@[simp] theorem stations_setSlot (s : State) (loc : Nat) (k : Cap) : (s.setSlot loc k).stations = s.stations := rfl
@[simp] theorem yards_setSlot (s : State) (loc : Nat) (k : Cap) : (s.setSlot loc k).yards = s.yards := rfl
@[simp] theorem engines_setSlot (s : State) (loc : Nat) (k : Cap) : (s.setSlot loc k).engines = s.engines := rfl
@[simp] theorem ports_setSlot (s : State) (loc : Nat) (k : Cap) : (s.setSlot loc k).ports = s.ports := rfl
@[simp] theorem row_setSlot (s : State) (loc : Nat) (k : Cap) : (s.setSlot loc k).row = s.row := rfl
@[simp] theorem col_setSlot (s : State) (loc : Nat) (k : Cap) : (s.setSlot loc k).col = s.col := rfl
@[simp] theorem sent_setSlot (s : State) (loc : Nat) (k : Cap) : (s.setSlot loc k).sent = s.sent := rfl
@[simp] theorem txs_setSlot (s : State) (loc : Nat) (k : Cap) : (s.setSlot loc k).txs = s.txs := rfl
@[simp] theorem hitches_setSlot (s : State) (loc : Nat) (k : Cap) : (s.setSlot loc k).hitches = s.hitches := rfl
@[simp] theorem hitchGen_setSlot (s : State) (loc : Nat) (k : Cap) : (s.setSlot loc k).hitchGen = s.hitchGen := rfl
@[simp] theorem launches_setSlot (s : State) (loc : Nat) (k : Cap) : (s.setSlot loc k).launches = s.launches := rfl
@[simp] theorem queues_setSlot (s : State) (loc : Nat) (k : Cap) : (s.setSlot loc k).queues = s.queues := rfl
@[simp] theorem tdis_setSlot (s : State) (loc : Nat) (k : Cap) : (s.setSlot loc k).tdis = s.tdis := rfl
@[simp] theorem sessions_setSlot (s : State) (loc : Nat) (k : Cap) : (s.setSlot loc k).sessions = s.sessions := rfl
@[simp] theorem epochs_setSlot (s : State) (loc : Nat) (k : Cap) : (s.setSlot loc k).epochs = s.epochs := rfl
@[simp] theorem alarms_setSlot (s : State) (loc : Nat) (k : Cap) : (s.setSlot loc k).alarms = s.alarms := rfl
@[simp] theorem debugged_setSlot (s : State) (loc : Nat) (k : Cap) : (s.setSlot loc k).debugged = s.debugged := rfl
@[simp] theorem keys_setSlot (s : State) (loc : Nat) (k : Cap) : (s.setSlot loc k).keys = s.keys := rfl
@[simp] theorem receipts_setSlot (s : State) (loc : Nat) (k : Cap) : (s.setSlot loc k).receipts = s.receipts := rfl
@[simp] theorem boot_setSlot (s : State) (loc : Nat) (k : Cap) : (s.setSlot loc k).boot = s.boot := rfl
@[simp] theorem power_setSlot (s : State) (loc : Nat) (k : Cap) : (s.setSlot loc k).power = s.power := rfl
@[simp] theorem throttle_setSlot (s : State) (loc : Nat) (k : Cap) : (s.setSlot loc k).throttle = s.throttle := rfl
@[simp] theorem extents_setSlot (s : State) (loc : Nat) (k : Cap) : (s.setSlot loc k).extents = s.extents := rfl
@[simp] theorem cycle_setSlot (s : State) (loc : Nat) (k : Cap) : (s.setSlot loc k).cycle = s.cycle := rfl
@[simp] theorem agenda_setSlot (s : State) (loc : Nat) (k : Cap) : (s.setSlot loc k).agenda = s.agenda := rfl
@[simp] theorem work_setSlot (s : State) (loc : Nat) (k : Cap) : (s.setSlot loc k).work = s.work := rfl
@[simp] theorem todo_setSlot (s : State) (loc : Nat) (k : Cap) : (s.setSlot loc k).todo = s.todo := rfl
@[simp] theorem passed_setSlot (s : State) (loc : Nat) (k : Cap) : (s.setSlot loc k).passed = s.passed := rfl
@[simp] theorem cur_setSlot (s : State) (loc : Nat) (k : Cap) : (s.setSlot loc k).cur = s.cur := rfl
@[simp] theorem stamp_setSlot (s : State) (loc : Nat) (k : Cap) : (s.setSlot loc k).stamp = s.stamp := rfl
@[simp] theorem focus_setSlot (s : State) (loc : Nat) (k : Cap) : (s.setSlot loc k).focus = s.focus := rfl
@[simp] theorem answers_setSlot (s : State) (loc : Nat) (k : Cap) : (s.setSlot loc k).answers = s.answers := rfl
@[simp] theorem free_setSlot (s : State) (loc : Nat) (k : Cap) : (s.setSlot loc k).free = s.free := rfl
@[simp] theorem pick_setSlot (s : State) (loc : Nat) (k : Cap) : (s.setSlot loc k).pick = s.pick := rfl
@[simp] theorem testing_setSlot (s : State) (loc : Nat) (k : Cap) : (s.setSlot loc k).testing = s.testing := rfl
@[simp] theorem ideKeys_setSlot (s : State) (loc : Nat) (k : Cap) : (s.setSlot loc k).ideKeys = s.ideKeys := rfl
@[simp] theorem slow_setSlot (s : State) (loc : Nat) (k : Cap) : (s.setSlot loc k).slow = s.slow := rfl

/-! After `setPoison`. -/

@[simp] theorem ctxs_setPoison (s : State) (loc : Nat) (b : Bool) : (s.setPoison loc b).ctxs = s.ctxs := rfl
@[simp] theorem cores_setPoison (s : State) (loc : Nat) (b : Bool) : (s.setPoison loc b).cores = s.cores := rfl
@[simp] theorem barns_setPoison (s : State) (loc : Nat) (b : Bool) : (s.setPoison loc b).barns = s.barns := rfl
@[simp] theorem regs_setPoison (s : State) (loc : Nat) (b : Bool) : (s.setPoison loc b).regs = s.regs := rfl
@[simp] theorem tiles_setPoison (s : State) (loc : Nat) (b : Bool) : (s.setPoison loc b).tiles = s.tiles := rfl
@[simp] theorem mem_setPoison (s : State) (loc : Nat) (b : Bool) : (s.setPoison loc b).mem = s.mem := rfl
@[simp] theorem tags_setPoison (s : State) (loc : Nat) (b : Bool) : (s.setPoison loc b).tags = s.tags := rfl
@[simp] theorem slots_setPoison (s : State) (loc : Nat) (b : Bool) : (s.setPoison loc b).slots = s.slots := rfl
@[simp] theorem poison_setPoison (s : State) (loc : Nat) (b : Bool) :
    (s.setPoison loc b).poison = mput false s.poison (loc / 64) (xor (s.lost loc) b) := rfl
@[simp] theorem stale_setPoison (s : State) (loc : Nat) (b : Bool) : (s.setPoison loc b).stale = s.stale := rfl
@[simp] theorem seals_setPoison (s : State) (loc : Nat) (b : Bool) : (s.setPoison loc b).seals = s.seals := rfl
@[simp] theorem reports_setPoison (s : State) (loc : Nat) (b : Bool) : (s.setPoison loc b).reports = s.reports := rfl
@[simp] theorem images_setPoison (s : State) (loc : Nat) (b : Bool) : (s.setPoison loc b).images = s.images := rfl
@[simp] theorem dead_setPoison (s : State) (loc : Nat) (b : Bool) : (s.setPoison loc b).dead = s.dead := rfl
@[simp] theorem posted_setPoison (s : State) (loc : Nat) (b : Bool) : (s.setPoison loc b).posted = s.posted := rfl
@[simp] theorem rings_setPoison (s : State) (loc : Nat) (b : Bool) : (s.setPoison loc b).rings = s.rings := rfl
@[simp] theorem msgs_setPoison (s : State) (loc : Nat) (b : Bool) : (s.setPoison loc b).msgs = s.msgs := rfl
@[simp] theorem regions_setPoison (s : State) (loc : Nat) (b : Bool) : (s.setPoison loc b).regions = s.regions := rfl
@[simp] theorem stations_setPoison (s : State) (loc : Nat) (b : Bool) : (s.setPoison loc b).stations = s.stations := rfl
@[simp] theorem yards_setPoison (s : State) (loc : Nat) (b : Bool) : (s.setPoison loc b).yards = s.yards := rfl
@[simp] theorem engines_setPoison (s : State) (loc : Nat) (b : Bool) : (s.setPoison loc b).engines = s.engines := rfl
@[simp] theorem ports_setPoison (s : State) (loc : Nat) (b : Bool) : (s.setPoison loc b).ports = s.ports := rfl
@[simp] theorem row_setPoison (s : State) (loc : Nat) (b : Bool) : (s.setPoison loc b).row = s.row := rfl
@[simp] theorem col_setPoison (s : State) (loc : Nat) (b : Bool) : (s.setPoison loc b).col = s.col := rfl
@[simp] theorem sent_setPoison (s : State) (loc : Nat) (b : Bool) : (s.setPoison loc b).sent = s.sent := rfl
@[simp] theorem txs_setPoison (s : State) (loc : Nat) (b : Bool) : (s.setPoison loc b).txs = s.txs := rfl
@[simp] theorem hitches_setPoison (s : State) (loc : Nat) (b : Bool) : (s.setPoison loc b).hitches = s.hitches := rfl
@[simp] theorem hitchGen_setPoison (s : State) (loc : Nat) (b : Bool) : (s.setPoison loc b).hitchGen = s.hitchGen := rfl
@[simp] theorem launches_setPoison (s : State) (loc : Nat) (b : Bool) : (s.setPoison loc b).launches = s.launches := rfl
@[simp] theorem queues_setPoison (s : State) (loc : Nat) (b : Bool) : (s.setPoison loc b).queues = s.queues := rfl
@[simp] theorem tdis_setPoison (s : State) (loc : Nat) (b : Bool) : (s.setPoison loc b).tdis = s.tdis := rfl
@[simp] theorem sessions_setPoison (s : State) (loc : Nat) (b : Bool) : (s.setPoison loc b).sessions = s.sessions := rfl
@[simp] theorem epochs_setPoison (s : State) (loc : Nat) (b : Bool) : (s.setPoison loc b).epochs = s.epochs := rfl
@[simp] theorem alarms_setPoison (s : State) (loc : Nat) (b : Bool) : (s.setPoison loc b).alarms = s.alarms := rfl
@[simp] theorem debugged_setPoison (s : State) (loc : Nat) (b : Bool) : (s.setPoison loc b).debugged = s.debugged := rfl
@[simp] theorem keys_setPoison (s : State) (loc : Nat) (b : Bool) : (s.setPoison loc b).keys = s.keys := rfl
@[simp] theorem receipts_setPoison (s : State) (loc : Nat) (b : Bool) : (s.setPoison loc b).receipts = s.receipts := rfl
@[simp] theorem boot_setPoison (s : State) (loc : Nat) (b : Bool) : (s.setPoison loc b).boot = s.boot := rfl
@[simp] theorem power_setPoison (s : State) (loc : Nat) (b : Bool) : (s.setPoison loc b).power = s.power := rfl
@[simp] theorem throttle_setPoison (s : State) (loc : Nat) (b : Bool) : (s.setPoison loc b).throttle = s.throttle := rfl
@[simp] theorem extents_setPoison (s : State) (loc : Nat) (b : Bool) : (s.setPoison loc b).extents = s.extents := rfl
@[simp] theorem cycle_setPoison (s : State) (loc : Nat) (b : Bool) : (s.setPoison loc b).cycle = s.cycle := rfl
@[simp] theorem agenda_setPoison (s : State) (loc : Nat) (b : Bool) : (s.setPoison loc b).agenda = s.agenda := rfl
@[simp] theorem work_setPoison (s : State) (loc : Nat) (b : Bool) : (s.setPoison loc b).work = s.work := rfl
@[simp] theorem todo_setPoison (s : State) (loc : Nat) (b : Bool) : (s.setPoison loc b).todo = s.todo := rfl
@[simp] theorem passed_setPoison (s : State) (loc : Nat) (b : Bool) : (s.setPoison loc b).passed = s.passed := rfl
@[simp] theorem cur_setPoison (s : State) (loc : Nat) (b : Bool) : (s.setPoison loc b).cur = s.cur := rfl
@[simp] theorem stamp_setPoison (s : State) (loc : Nat) (b : Bool) : (s.setPoison loc b).stamp = s.stamp := rfl
@[simp] theorem focus_setPoison (s : State) (loc : Nat) (b : Bool) : (s.setPoison loc b).focus = s.focus := rfl
@[simp] theorem answers_setPoison (s : State) (loc : Nat) (b : Bool) : (s.setPoison loc b).answers = s.answers := rfl
@[simp] theorem free_setPoison (s : State) (loc : Nat) (b : Bool) : (s.setPoison loc b).free = s.free := rfl
@[simp] theorem pick_setPoison (s : State) (loc : Nat) (b : Bool) : (s.setPoison loc b).pick = s.pick := rfl
@[simp] theorem testing_setPoison (s : State) (loc : Nat) (b : Bool) : (s.setPoison loc b).testing = s.testing := rfl
@[simp] theorem ideKeys_setPoison (s : State) (loc : Nat) (b : Bool) : (s.setPoison loc b).ideKeys = s.ideKeys := rfl
@[simp] theorem slow_setPoison (s : State) (loc : Nat) (b : Bool) : (s.setPoison loc b).slow = s.slow := rfl

/-! After `modLaunch`. -/

@[simp] theorem ctxs_modLaunch (s : State) (l : Nat) (f : Launch → Launch) : (s.modLaunch l f).ctxs = s.ctxs := rfl
@[simp] theorem cores_modLaunch (s : State) (l : Nat) (f : Launch → Launch) : (s.modLaunch l f).cores = s.cores := rfl
@[simp] theorem barns_modLaunch (s : State) (l : Nat) (f : Launch → Launch) : (s.modLaunch l f).barns = s.barns := rfl
@[simp] theorem regs_modLaunch (s : State) (l : Nat) (f : Launch → Launch) : (s.modLaunch l f).regs = s.regs := rfl
@[simp] theorem tiles_modLaunch (s : State) (l : Nat) (f : Launch → Launch) : (s.modLaunch l f).tiles = s.tiles := rfl
@[simp] theorem mem_modLaunch (s : State) (l : Nat) (f : Launch → Launch) : (s.modLaunch l f).mem = s.mem := rfl
@[simp] theorem tags_modLaunch (s : State) (l : Nat) (f : Launch → Launch) : (s.modLaunch l f).tags = s.tags := rfl
@[simp] theorem slots_modLaunch (s : State) (l : Nat) (f : Launch → Launch) : (s.modLaunch l f).slots = s.slots := rfl
@[simp] theorem poison_modLaunch (s : State) (l : Nat) (f : Launch → Launch) : (s.modLaunch l f).poison = s.poison := rfl
@[simp] theorem stale_modLaunch (s : State) (l : Nat) (f : Launch → Launch) : (s.modLaunch l f).stale = s.stale := rfl
@[simp] theorem seals_modLaunch (s : State) (l : Nat) (f : Launch → Launch) : (s.modLaunch l f).seals = s.seals := rfl
@[simp] theorem reports_modLaunch (s : State) (l : Nat) (f : Launch → Launch) : (s.modLaunch l f).reports = s.reports := rfl
@[simp] theorem images_modLaunch (s : State) (l : Nat) (f : Launch → Launch) : (s.modLaunch l f).images = s.images := rfl
@[simp] theorem dead_modLaunch (s : State) (l : Nat) (f : Launch → Launch) : (s.modLaunch l f).dead = s.dead := rfl
@[simp] theorem posted_modLaunch (s : State) (l : Nat) (f : Launch → Launch) : (s.modLaunch l f).posted = s.posted := rfl
@[simp] theorem rings_modLaunch (s : State) (l : Nat) (f : Launch → Launch) : (s.modLaunch l f).rings = s.rings := rfl
@[simp] theorem msgs_modLaunch (s : State) (l : Nat) (f : Launch → Launch) : (s.modLaunch l f).msgs = s.msgs := rfl
@[simp] theorem regions_modLaunch (s : State) (l : Nat) (f : Launch → Launch) : (s.modLaunch l f).regions = s.regions := rfl
@[simp] theorem stations_modLaunch (s : State) (l : Nat) (f : Launch → Launch) : (s.modLaunch l f).stations = s.stations := rfl
@[simp] theorem yards_modLaunch (s : State) (l : Nat) (f : Launch → Launch) : (s.modLaunch l f).yards = s.yards := rfl
@[simp] theorem engines_modLaunch (s : State) (l : Nat) (f : Launch → Launch) : (s.modLaunch l f).engines = s.engines := rfl
@[simp] theorem ports_modLaunch (s : State) (l : Nat) (f : Launch → Launch) : (s.modLaunch l f).ports = s.ports := rfl
@[simp] theorem row_modLaunch (s : State) (l : Nat) (f : Launch → Launch) : (s.modLaunch l f).row = s.row := rfl
@[simp] theorem col_modLaunch (s : State) (l : Nat) (f : Launch → Launch) : (s.modLaunch l f).col = s.col := rfl
@[simp] theorem sent_modLaunch (s : State) (l : Nat) (f : Launch → Launch) : (s.modLaunch l f).sent = s.sent := rfl
@[simp] theorem txs_modLaunch (s : State) (l : Nat) (f : Launch → Launch) : (s.modLaunch l f).txs = s.txs := rfl
@[simp] theorem hitches_modLaunch (s : State) (l : Nat) (f : Launch → Launch) : (s.modLaunch l f).hitches = s.hitches := rfl
@[simp] theorem hitchGen_modLaunch (s : State) (l : Nat) (f : Launch → Launch) : (s.modLaunch l f).hitchGen = s.hitchGen := rfl
@[simp] theorem launches_modLaunch (s : State) (l : Nat) (f : Launch → Launch) :
    (s.modLaunch l f).launches = s.launches.map fun p => if p.1 = l then (p.1, f p.2) else p := rfl
@[simp] theorem queues_modLaunch (s : State) (l : Nat) (f : Launch → Launch) : (s.modLaunch l f).queues = s.queues := rfl
@[simp] theorem tdis_modLaunch (s : State) (l : Nat) (f : Launch → Launch) : (s.modLaunch l f).tdis = s.tdis := rfl
@[simp] theorem sessions_modLaunch (s : State) (l : Nat) (f : Launch → Launch) : (s.modLaunch l f).sessions = s.sessions := rfl
@[simp] theorem epochs_modLaunch (s : State) (l : Nat) (f : Launch → Launch) : (s.modLaunch l f).epochs = s.epochs := rfl
@[simp] theorem alarms_modLaunch (s : State) (l : Nat) (f : Launch → Launch) : (s.modLaunch l f).alarms = s.alarms := rfl
@[simp] theorem debugged_modLaunch (s : State) (l : Nat) (f : Launch → Launch) : (s.modLaunch l f).debugged = s.debugged := rfl
@[simp] theorem keys_modLaunch (s : State) (l : Nat) (f : Launch → Launch) : (s.modLaunch l f).keys = s.keys := rfl
@[simp] theorem receipts_modLaunch (s : State) (l : Nat) (f : Launch → Launch) : (s.modLaunch l f).receipts = s.receipts := rfl
@[simp] theorem boot_modLaunch (s : State) (l : Nat) (f : Launch → Launch) : (s.modLaunch l f).boot = s.boot := rfl
@[simp] theorem power_modLaunch (s : State) (l : Nat) (f : Launch → Launch) : (s.modLaunch l f).power = s.power := rfl
@[simp] theorem throttle_modLaunch (s : State) (l : Nat) (f : Launch → Launch) : (s.modLaunch l f).throttle = s.throttle := rfl
@[simp] theorem extents_modLaunch (s : State) (l : Nat) (f : Launch → Launch) : (s.modLaunch l f).extents = s.extents := rfl
@[simp] theorem cycle_modLaunch (s : State) (l : Nat) (f : Launch → Launch) : (s.modLaunch l f).cycle = s.cycle := rfl
@[simp] theorem agenda_modLaunch (s : State) (l : Nat) (f : Launch → Launch) : (s.modLaunch l f).agenda = s.agenda := rfl
@[simp] theorem work_modLaunch (s : State) (l : Nat) (f : Launch → Launch) : (s.modLaunch l f).work = s.work := rfl
@[simp] theorem todo_modLaunch (s : State) (l : Nat) (f : Launch → Launch) : (s.modLaunch l f).todo = s.todo := rfl
@[simp] theorem passed_modLaunch (s : State) (l : Nat) (f : Launch → Launch) : (s.modLaunch l f).passed = s.passed := rfl
@[simp] theorem cur_modLaunch (s : State) (l : Nat) (f : Launch → Launch) : (s.modLaunch l f).cur = s.cur := rfl
@[simp] theorem stamp_modLaunch (s : State) (l : Nat) (f : Launch → Launch) : (s.modLaunch l f).stamp = s.stamp := rfl
@[simp] theorem focus_modLaunch (s : State) (l : Nat) (f : Launch → Launch) : (s.modLaunch l f).focus = s.focus := rfl
@[simp] theorem answers_modLaunch (s : State) (l : Nat) (f : Launch → Launch) : (s.modLaunch l f).answers = s.answers := rfl
@[simp] theorem free_modLaunch (s : State) (l : Nat) (f : Launch → Launch) : (s.modLaunch l f).free = s.free := rfl
@[simp] theorem pick_modLaunch (s : State) (l : Nat) (f : Launch → Launch) : (s.modLaunch l f).pick = s.pick := rfl
@[simp] theorem testing_modLaunch (s : State) (l : Nat) (f : Launch → Launch) : (s.modLaunch l f).testing = s.testing := rfl
@[simp] theorem ideKeys_modLaunch (s : State) (l : Nat) (f : Launch → Launch) : (s.modLaunch l f).ideKeys = s.ideKeys := rfl
@[simp] theorem slow_modLaunch (s : State) (l : Nat) (f : Launch → Launch) : (s.modLaunch l f).slow = s.slow := rfl

end State

end Sys2Proof.Machine
end

