-- ==== Sys2Proof/Laws/Memory.lean ====
section
/-! SUPPORT. Memory: a read after a write, what a write leaves alone, and the canonical form, which every memory operation keeps. -/

namespace Sys2Proof.Machine

namespace State

/-! Writes that touch the bytes of memory alone. -/

@[simp] theorem writeBytes_cons (s : State) (loc : Nat) (b : Byte) (bs : List Byte) :
    s.writeBytes loc (b :: bs) = (s.writeByte loc b).writeBytes (loc + 1) bs := rfl
@[simp] theorem writeBytes_nil (s : State) (loc : Nat) : s.writeBytes loc [] = s := rfl

/-- A write of bytes is a write of memory alone. -/
theorem writeBytes_frame : ∀ (bs : List Byte) (s : State) (loc : Nat), ∃ m, s.writeBytes loc bs = { s with mem := m }
  | [], s, _ => ⟨s.mem, rfl⟩
  | b :: bs, s, loc => by
    obtain ⟨m, h⟩ := writeBytes_frame bs (s.writeByte loc b) (loc + 1)
    exact ⟨m, by rw [writeBytes_cons, h]; rfl⟩
theorem writeLe_frame (s : State) (loc n v : Nat) : ∃ m, s.writeLe loc n v = { s with mem := m } := writeBytes_frame _ s loc

/-! Bytes. -/

@[simp] theorem rawByte_writeByte_same (s : State) (loc : Nat) (b : Byte) : (s.writeByte loc b).rawByte loc = b :=
  mget_mput_same 0 s.mem loc b
theorem rawByte_writeByte_other (s : State) {loc l : Nat} (b : Byte) (h : loc ≠ l) : (s.writeByte loc b).rawByte l = s.rawByte l :=
  mget_mput_other 0 s.mem b h

/-- A write of bytes leaves every byte outside its range alone. -/
theorem rawByte_writeBytes_other : ∀ (bs : List Byte) (s : State) {loc l : Nat}, (l < loc ∨ loc + bs.length ≤ l) →
    (s.writeBytes loc bs).rawByte l = s.rawByte l
  | [], _, _, _, _ => rfl
  | b :: bs, s, loc, l, h => by
    have hn : loc ≠ l := by rintro rfl; simp at h
    rw [writeBytes_cons, rawByte_writeBytes_other bs _ (by simp at h; omega), rawByte_writeByte_other s b hn]

/-! The canonical form (log 5). -/

theorem wf_writeByte {s : State} (h : Memory.wf s.mem = true) (loc : Nat) (b : Byte) : Memory.wf (s.writeByte loc b).mem = true :=
  Map.wf_mput 0 h loc b
theorem wf_writeBytes : ∀ (bs : List Byte) {s : State} (loc : Nat), Memory.wf s.mem = true → Memory.wf (s.writeBytes loc bs).mem = true
  | [], _, _, h => h
  | b :: bs, _, loc, h => wf_writeBytes bs (loc + 1) (wf_writeByte h loc b)
theorem wf_writeLe {s : State} (h : Memory.wf s.mem = true) (loc n v : Nat) : Memory.wf (s.writeLe loc n v).mem = true := wf_writeBytes _ loc h

/-- A write of bytes gives them. -/
theorem rawByte_writeBytes_same (bs : List Byte) : ∀ (s : State) (loc i : Nat), (hi : i < bs.length) →
    (s.writeBytes loc bs).rawByte (loc + i) = bs[i] := by
  induction bs with
  | nil => intro s loc i hi; simp at hi
  | cons b bs ih =>
    intro s loc i hi
    rw [writeBytes_cons]
    cases i with
    | zero =>
      rw [rawByte_writeBytes_other bs _ (by omega), Nat.add_zero, rawByte_writeByte_same]
      exact (List.getElem_cons_zero b bs hi).symm
    | succ j =>
      have hj : j < bs.length := by simpa using hi
      rw [show loc + (j + 1) = loc + 1 + j by omega, ih _ (loc + 1) j hj]
      exact (List.getElem_cons_succ b bs j hi).symm

/-- A byte as a load sees it depends on the byte in memory and on the slot. -/
theorem readByte_of {s t : State} {l : Nat} (hm : t.rawByte l = s.rawByte l) (hs : t.slots = s.slots) : t.readByte l = s.readByte l := by
  simp [readByte, hm, hs]

theorem readByte_writeBytes_other (bs : List Byte) (s : State) {loc l : Nat} (h : l < loc ∨ loc + bs.length ≤ l) :
    (s.writeBytes loc bs).readByte l = s.readByte l := by
  obtain ⟨m, hm⟩ := writeBytes_frame bs s loc
  exact readByte_of (rawByte_writeBytes_other bs s h) (by rw [hm])

/-- A little-endian write leaves every byte outside its range alone. -/
theorem readByte_writeLe_other (s : State) {loc n v l : Nat} (h : l < loc ∨ loc + n ≤ l) : (s.writeLe loc n v).readByte l = s.readByte l :=
  readByte_writeBytes_other _ s (by simpa using h)

/-- A little-endian write gives the bytes of its number, outside stashed slots. -/
theorem readByte_writeLe_same (s : State) (loc n v i : Nat) (hi : i < n) (hs : s.slot (loc + i) = Cap.null) :
    (s.writeLe loc n v).readByte (loc + i) = byteOf v i := by
  obtain ⟨m, hm⟩ := writeLe_frame s loc n v
  have hb : (s.writeLe loc n v).rawByte (loc + i) = byteOf v i := by
    have := rawByte_writeBytes_same ((List.range n).map (byteOf v)) s loc i (by simpa using hi)
    simpa [writeLe] using this
  have hslot : (s.writeLe loc n v).slots = s.slots := by rw [hm]
  simp only [slot] at hs
  simp [readByte, hslot, hs, hb]

end State

open State

/-! The operations over memory keep its canonical form. -/

theorem wf_reset : Memory.wf State.reset.mem = true := rfl
theorem wf_filter {m : List Host.Cell} (q : Host.Cell → Bool) (h : Memory.wf m = true) : Memory.wf (m.filter q) = true := Map.wf_filter 0 q h

@[simp] theorem mem_discard (s : State) (b loc : Nat) : (discard s b loc).mem = s.mem := rfl
theorem wf_storeBy {s : State} (h : Memory.wf s.mem = true) (b loc n v : Nat) : Memory.wf (storeBy s b loc n v).mem = true := by
  unfold storeBy
  split
  · simpa using h
  · exact wf_writeLe h loc n v
theorem wf_storeAt {s : State} (h : Memory.wf s.mem = true) (loc n v : Nat) : Memory.wf (storeAt s loc n v).mem = true := wf_storeBy h _ _ _ _
@[simp] theorem mem_tagBy (s : State) (b loc : Nat) (t : BitVec 16) : (tagBy s b loc t).mem = s.mem := by
  unfold tagBy
  split <;> simp
@[simp] theorem mem_tagAt (s : State) (loc : Nat) (t : BitVec 16) : (tagAt s loc t).mem = s.mem := mem_tagBy s _ loc t
theorem wf_blockAt {s : State} (h : Memory.wf s.mem = true) (loc v : Nat) (t : BitVec 16) : Memory.wf (blockAt s loc v t).mem = true := by
  simpa [blockAt] using wf_writeLe h loc 64 v

/-- What a sequence of steps that may fail gives. -/
theorem bind_ok {ε α β : Type} {x : Except ε α} {f : α → Except ε β} {r : β} : (x >>= f) = .ok r ↔ ∃ a, x = .ok a ∧ f a = .ok r := by
  cases x <;> simp [bind, Except.bind]
theorem need_ok {b : Bool} {f : FaultInfo} {u : Unit} : need b f = .ok u ↔ b = true := by
  cases b <;> simp [need]

/-- Every part of an access keeps the canonical form. -/
theorem wf_doPrim {s t : State} {loc addr : Nat} {sh : Bool} {p : Prim} {g : Got} (h : Memory.wf s.mem = true)
    (ht : doPrim s loc addr sh p = .ok (t, g)) : Memory.wf t.mem = true := by
  cases p with
  | read n | readTag | readBoth =>
    simp only [doPrim, bind_ok, need_ok] at ht
    obtain ⟨_, _, ht⟩ := ht
    cases ht
    exact h
  | write n v =>
    simp only [doPrim, bind_ok, need_ok] at ht
    obtain ⟨_, _, ht⟩ := ht
    cases ht
    exact wf_storeAt h _ _ _
  | writeTag v =>
    simp only [doPrim, bind_ok, need_ok] at ht
    obtain ⟨_, _, _, _, ht⟩ := ht
    cases ht
    cases sh <;> simpa using h
  | writeBoth v w =>
    simp only [doPrim, bind_ok, need_ok] at ht
    obtain ⟨_, _, _, _, ht⟩ := ht
    cases ht
    exact wf_blockAt h _ _ _
  | incr =>
    simp only [doPrim, bind_ok, need_ok] at ht
    obtain ⟨_, _, ht⟩ := ht
    cases ht
    exact wf_storeAt h _ _ _
  | rmw o ty src cmp =>
    simp only [doPrim, bind_ok, need_ok] at ht
    obtain ⟨_, _, ht⟩ := ht
    split at ht <;> cases ht
    · exact wf_storeAt h _ _ _
    · exact h
  | put k =>
    simp only [doPrim, bind_ok, need_ok] at ht
    obtain ⟨_, _, _, _, ht⟩ := ht
    cases ht
    simpa using h
  | take room =>
    simp only [doPrim, bind_ok, need_ok] at ht
    obtain ⟨_, _, _, _, _, _, ht⟩ := ht
    cases ht
    exact wf_writeLe (by simpa using h) _ _ _

end Sys2Proof.Machine
end

