-- ==== Sys2Proof/Laws/Ops.lean ====
section
/-! SUPPORT. The operations over contexts and registers: reads after writes, and what the frame of an instruction does. -/

namespace Sys2Proof.Machine

open Sys2Proof

namespace State

/-! Contexts. -/

@[simp] theorem ctx_setCtx_same (s : State) (c : Nat) (x : Ctx) : (s.setCtx c x).ctx c = x := mget_mput_same _ _ _ _
theorem ctx_setCtx_other (s : State) {c e : Nat} (x : Ctx) (h : e ≠ c) : (s.setCtx c x).ctx e = s.ctx e :=
  mget_mput_other _ _ _ (Ne.symm h)
@[simp] theorem ctx_modCtx_same (s : State) (c : Nat) (f : Ctx → Ctx) : (s.modCtx c f).ctx c = f (s.ctx c) := ctx_setCtx_same _ _ _
theorem ctx_modCtx_other (s : State) {c e : Nat} (f : Ctx → Ctx) (h : e ≠ c) : (s.modCtx c f).ctx e = s.ctx e := ctx_setCtx_other s _ h
@[simp] theorem me_modMe (s : State) (f : Ctx → Ctx) : (s.modMe f).me = f s.me := ctx_modCtx_same _ _ _
theorem ctx_modMe_other (s : State) {c : Nat} (f : Ctx → Ctx) (h : c ≠ s.cur.ctx) : (s.modMe f).ctx c = s.ctx c := ctx_modCtx_other s f h
@[simp] theorem modMe_regs (s : State) (f : Ctx → Ctx) : (s.modMe f).regs = s.regs := rfl
@[simp] theorem modMe_cur (s : State) (f : Ctx → Ctx) : (s.modMe f).cur = s.cur := rfl
@[simp] theorem modMe_mem (s : State) (f : Ctx → Ctx) : (s.modMe f).mem = s.mem := rfl
@[simp] theorem modMe_slots (s : State) (f : Ctx → Ctx) : (s.modMe f).slots = s.slots := rfl

/-! Registers. -/

@[simp] theorem setRegOf_regs (s : State) (c n : Nat) (v : Word) : (s.setRegOf c n v).regs = mput 0 s.regs (s.regKey c n) v := rfl
@[simp] theorem setRegOf_ctxs (s : State) (c n : Nat) (v : Word) : (s.setRegOf c n v).ctxs = s.ctxs := rfl
@[simp] theorem setRegOf_ctx (s : State) (c n e : Nat) (v : Word) : (s.setRegOf c n v).ctx e = s.ctx e := rfl
@[simp] theorem setRegOf_cur (s : State) (c n : Nat) (v : Word) : (s.setRegOf c n v).cur = s.cur := rfl
@[simp] theorem setRegOf_me (s : State) (c n : Nat) (v : Word) : (s.setRegOf c n v).me = s.me := rfl
@[simp] theorem setRegOf_regKey (s : State) (c n e m : Nat) (v : Word) : (s.setRegOf c n v).regKey e m = s.regKey e m := rfl
/-- A read of the register written gives the value written. -/
@[simp] theorem regOf_setRegOf_same (s : State) (c n : Nat) (v : Word) : (s.setRegOf c n v).regOf c n = v := mget_mput_same _ _ _ _
theorem regKey_ne (s : State) {c m n : Nat} (h : m ≠ n) : s.regKey c m ≠ s.regKey c n := by unfold regKey; omega
/-- A write of one register leaves the other registers of the window alone. -/
theorem regOf_setRegOf_other (s : State) {c n m : Nat} (v : Word) (h : m ≠ n) : (s.setRegOf c n v).regOf c m = s.regOf c m :=
  mget_mput_other _ _ _ (s.regKey_ne (Ne.symm h))
@[simp] theorem w_setW_same (s : State) (d : WReg) (v : Word) : (s.setW d v).w d = v := regOf_setRegOf_same _ _ _ _
theorem w_setW_other (s : State) {d a : WReg} (v : Word) (h : a ≠ d) : (s.setW d v).w a = s.w a :=
  regOf_setRegOf_other s v fun e => h (BitVec.eq_of_toNat_eq e)
@[simp] theorem setW_me (s : State) (d : WReg) (v : Word) : (s.setW d v).me = s.me := rfl
@[simp] theorem setW_cur (s : State) (d : WReg) (v : Word) : (s.setW d v).cur = s.cur := rfl
theorem setW_regs (s : State) (d : WReg) (v : Word) : (s.setW d v).regs = mput 0 s.regs (s.regKey s.cur.ctx d.toNat) v := rfl

/-- A change of the context at issue that keeps its window moves none of its registers. -/
theorem wn_modMe (s : State) (f : Ctx → Ctx) (h : (f s.me).wbase = s.me.wbase) (n : Nat) : (s.modMe f).wn n = s.wn n := by
  have hk : (s.modMe f).regKey (s.modMe f).cur.ctx n = s.regKey s.cur.ctx n := by
    have h2 : ((s.modMe f).ctx s.cur.ctx).wbase = (s.ctx s.cur.ctx).wbase := (congrArg Ctx.wbase (me_modMe s f)).trans h
    show Config.fileRegs * coreOf s.cur.ctx + ((s.modMe f).ctx s.cur.ctx).wbase + n = _
    rw [h2]; rfl
  show mget 0 s.regs _ = mget 0 s.regs _
  rw [hk]

end State

open State

/-! Ending an instruction. -/

@[simp] theorem finishAt_me (s : State) (p : Nat) :
    (finishAt s p).me = { s.me with state := .ready, wait := .none, acc := none, latch := none, pc := p } := me_modMe _ _
@[simp] theorem finishAt_regs (s : State) (p : Nat) : (finishAt s p).regs = s.regs := rfl
@[simp] theorem finishAt_cur (s : State) (p : Nat) : (finishAt s p).cur = s.cur := rfl
@[simp] theorem finishAt_wn (s : State) (p n : Nat) : (finishAt s p).wn n = s.wn n := wn_modMe s _ rfl n
@[simp] theorem finishAt_w (s : State) (p : Nat) (d : WReg) : (finishAt s p).w d = s.w d := finishAt_wn s p d.toNat
theorem finishAt_ctx (s : State) {p c : Nat} (h : c ≠ s.cur.ctx) : (finishAt s p).ctx c = s.ctx c := ctx_modMe_other s _ h
/-- An instruction that ends where its state is `s` but for registers has changed nothing else. -/
theorem endsAt_finishAt (s : State) (p : Nat) : EndsAt s (finishAt s p) s.me p [] :=
  ⟨rfl, fun _ h => finishAt_ctx s h, fun _ _ => rfl, fun _ _ => rfl, finishAt_me s p⟩
theorem endsAt_setW (s : State) (d : WReg) (v : Word) (p : Nat) : EndsAt s (finishAt (s.setW d v) p) s.me p [d.toNat] := by
  refine ⟨rfl, fun c h => finishAt_ctx (s.setW d v) h, fun key h => ?_, fun _ _ => rfl, finishAt_me _ p⟩
  exact mget_mput_other _ _ _ (Ne.symm (h d.toNat (by simp)))

/-! The frame of an instruction (R108). -/

/-- An instruction that passes its first checks runs its body. -/
theorem issue_passes {q : Req} {body : State → Except FaultInfo State} {s : State} (h : Passes q s) : issue q body s = settle s (body s) := by
  rw [issue, if_neg h.1, h.2]
/-- An instruction that fails one of them parks its context. -/
theorem issue_fault {q : Req} {body : State → Except FaultInfo State} {s : State} {f : FaultInfo} (h : AtIssue s) (hf : q.check s.me = some f) :
    issue q body s = .next (raise s f) := by
  rw [issue, if_neg h, hf]
/-- What an instruction does, said once: nothing at issue, a fault of its first checks, a fault of its body, or its effect. -/
theorem issue_cases (q : Req) (body : State → Except FaultInfo State) (s : State) :
    (s.me.state = .absent ∧ issue q body s = .fault .noContext) ∨ (∃ f, AtIssue s ∧ q.check s.me = some f ∧ issue q body s = .next (raise s f)) ∨
      (∃ f, Passes q s ∧ body s = .error f ∧ issue q body s = .next (raise s f)) ∨
      ∃ t, Passes q s ∧ body s = .ok t ∧ issue q body s = .next t := by
  by_cases h : s.me.state = .absent
  · exact .inl ⟨h, by rw [issue, if_pos h]⟩
  · cases hq : q.check s.me with
    | some f => exact .inr (.inl ⟨f, h, rfl, issue_fault h hq⟩)
    | none =>
      have hp : Passes q s := ⟨h, hq⟩
      cases hb : body s with
      | error f => exact .inr (.inr (.inl ⟨f, hp, rfl, by rw [issue_passes hp, hb]; rfl⟩))
      | ok t => exact .inr (.inr (.inr ⟨t, hp, rfl, by rw [issue_passes hp, hb]; rfl⟩))

/-- Registers within the window are all that an instruction needs that is neither privileged nor refused. -/
theorem passes_window {s : State} {top : Nat} (h : InWindow s top) : Passes { top := top } s :=
  ⟨h.1, by simp [Req.check, Nat.not_lt.mpr h.2]⟩

/-- An instruction that computes one register gives it its value. -/
theorem gives_compute {i : Instr} {s : State} {d : WReg} {regs : List WReg} {f : State → Word} (hi : exec i s = compute d regs f s)
    (h : InWindow s (topOf (d :: regs))) : Gives i s d (f s) :=
  ⟨finish (s.setW d (f s)), by rw [hi, compute, issue_passes (passes_window h)]; rfl, by simp [finish], endsAt_setW s d _ _⟩

end Sys2Proof.Machine
end

