-- ==== Sys2Proof/Laws/PerInstr.lean ====
section
/-! SUPPORT. Statements made instruction by instruction: decoding the word of a well-formed instruction gives the instruction back. -/

namespace Sys2Proof

set_option Elab.async false

/-! The table of a major, once the major is known. -/

theorem decodeMajor_01 {w : InstWord} (h : fMajor w = 0x01#8) : decodeMajor w = decode01 w := by
  rw [decodeMajor, h]
  rfl
theorem decodeMajor_02 {w : InstWord} (h : fMajor w = 0x02#8) : decodeMajor w = decode02 w := by
  rw [decodeMajor, h]
  rfl
theorem decodeMajor_03 {w : InstWord} (h : fMajor w = 0x03#8) : decodeMajor w = decode03 w := by
  rw [decodeMajor, h]
  rfl
theorem decodeMajor_04 {w : InstWord} (h : fMajor w = 0x04#8) : decodeMajor w = decode04 w := by
  rw [decodeMajor, h]
  rfl
theorem decodeMajor_05 {w : InstWord} (h : fMajor w = 0x05#8) : decodeMajor w = decode05 w := by
  rw [decodeMajor, h]
  rfl
theorem decodeMajor_06 {w : InstWord} (h : fMajor w = 0x06#8) : decodeMajor w = decode06 w := by
  rw [decodeMajor, h]
  rfl
theorem decodeMajor_07 {w : InstWord} (h : fMajor w = 0x07#8) : decodeMajor w = decode07 w := by
  rw [decodeMajor, h]
  rfl
theorem decodeMajor_08 {w : InstWord} (h : fMajor w = 0x08#8) : decodeMajor w = decode08 w := by
  rw [decodeMajor, h]
  rfl
theorem decodeMajor_09 {w : InstWord} (h : fMajor w = 0x09#8) : decodeMajor w = decode09 w := by
  rw [decodeMajor, h]
  rfl
theorem decodeMajor_0A {w : InstWord} (h : fMajor w = 0x0A#8) : decodeMajor w = decode0A w := by
  rw [decodeMajor, h]
  rfl
theorem decodeMajor_0B {w : InstWord} (h : fMajor w = 0x0B#8) : decodeMajor w = decode0B w := by
  rw [decodeMajor, h]
  rfl
theorem decodeMajor_20 {w : InstWord} (h : fMajor w = 0x20#8) : decodeMajor w = decode20 w := by
  rw [decodeMajor, h]
  rfl
theorem decodeMajor_21 {w : InstWord} (h : fMajor w = 0x21#8) : decodeMajor w = decode21 w := by
  rw [decodeMajor, h]
  rfl
theorem decodeMajor_22 {w : InstWord} (h : fMajor w = 0x22#8) : decodeMajor w = decode22 w := by
  rw [decodeMajor, h]
  rfl
theorem decodeMajor_23 {w : InstWord} (h : fMajor w = 0x23#8) : decodeMajor w = decode23 w := by
  rw [decodeMajor, h]
  rfl
theorem decodeMajor_24 {w : InstWord} (h : fMajor w = 0x24#8) : decodeMajor w = decode24 w := by
  rw [decodeMajor, h]
  rfl
theorem decodeMajor_25 {w : InstWord} (h : fMajor w = 0x25#8) : decodeMajor w = decode25 w := by
  rw [decodeMajor, h]
  rfl
theorem decodeMajor_30 {w : InstWord} (h : fMajor w = 0x30#8) : decodeMajor w = decode30 w := by
  rw [decodeMajor, h]
  rfl
theorem decodeMajor_38 {w : InstWord} (h : fMajor w = 0x38#8) : decodeMajor w = decode38 w := by
  rw [decodeMajor, h]
  rfl
theorem decodeMajor_39 {w : InstWord} (h : fMajor w = 0x39#8) : decodeMajor w = decode39 w := by
  rw [decodeMajor, h]
  rfl
theorem decodeMajor_3A {w : InstWord} (h : fMajor w = 0x3A#8) : decodeMajor w = decode3A w := by
  rw [decodeMajor, h]
  rfl
theorem decodeMajor_3B {w : InstWord} (h : fMajor w = 0x3B#8) : decodeMajor w = decode3B w := by
  rw [decodeMajor, h]
  rfl
theorem decodeMajor_3C {w : InstWord} (h : fMajor w = 0x3C#8) : decodeMajor w = decode3C w := by
  rw [decodeMajor, h]
  rfl
theorem decodeMajor_40 {w : InstWord} (h : fMajor w = 0x40#8) : decodeMajor w = decode40 w := by
  rw [decodeMajor, h]
  rfl
theorem decodeMajor_41 {w : InstWord} (h : fMajor w = 0x41#8) : decodeMajor w = decode41 w := by
  rw [decodeMajor, h]
  rfl
theorem decodeMajor_42 {w : InstWord} (h : fMajor w = 0x42#8) : decodeMajor w = decode42 w := by
  rw [decodeMajor, h]
  rfl
theorem decodeMajor_43 {w : InstWord} (h : fMajor w = 0x43#8) : decodeMajor w = decode43 w := by
  rw [decodeMajor, h]
  rfl
theorem decodeMajor_44 {w : InstWord} (h : fMajor w = 0x44#8) : decodeMajor w = decode44 w := by
  rw [decodeMajor, h]
  rfl
theorem decodeMajor_45 {w : InstWord} (h : fMajor w = 0x45#8) : decodeMajor w = decode45 w := by
  rw [decodeMajor, h]
  rfl
theorem decodeMajor_58 {w : InstWord} (h : fMajor w = 0x58#8) : decodeMajor w = decode58 w := by
  rw [decodeMajor, h]
  rfl
theorem decodeMajor_59 {w : InstWord} (h : fMajor w = 0x59#8) : decodeMajor w = decode59 w := by
  rw [decodeMajor, h]
  rfl
theorem decodeMajor_5A {w : InstWord} (h : fMajor w = 0x5A#8) : decodeMajor w = decode5A w := by
  rw [decodeMajor, h]
  rfl
theorem decodeMajor_5B {w : InstWord} (h : fMajor w = 0x5B#8) : decodeMajor w = decode5B w := by
  rw [decodeMajor, h]
  rfl
theorem decodeMajor_5C {w : InstWord} (h : fMajor w = 0x5C#8) : decodeMajor w = decode5C w := by
  rw [decodeMajor, h]
  rfl
theorem decodeMajor_60 {w : InstWord} (h : fMajor w = 0x60#8) : decodeMajor w = decode60 w := by
  rw [decodeMajor, h]
  rfl
theorem decodeMajor_61 {w : InstWord} (h : fMajor w = 0x61#8) : decodeMajor w = decode61 w := by
  rw [decodeMajor, h]
  rfl
theorem decodeMajor_62 {w : InstWord} (h : fMajor w = 0x62#8) : decodeMajor w = decode62 w := by
  rw [decodeMajor, h]
  rfl
theorem decodeMajor_70 {w : InstWord} (h : fMajor w = 0x70#8) : decodeMajor w = decode70 w := by
  rw [decodeMajor, h]
  rfl
theorem decodeMajor_71 {w : InstWord} (h : fMajor w = 0x71#8) : decodeMajor w = decode71 w := by
  rw [decodeMajor, h]
  rfl
theorem decodeMajor_72 {w : InstWord} (h : fMajor w = 0x72#8) : decodeMajor w = decode72 w := by
  rw [decodeMajor, h]
  rfl
theorem decodeMajor_73 {w : InstWord} (h : fMajor w = 0x73#8) : decodeMajor w = decode73 w := by
  rw [decodeMajor, h]
  rfl
theorem decodeMajor_74 {w : InstWord} (h : fMajor w = 0x74#8) : decodeMajor w = decode74 w := by
  rw [decodeMajor, h]
  rfl
theorem decodeMajor_75 {w : InstWord} (h : fMajor w = 0x75#8) : decodeMajor w = decode75 w := by
  rw [decodeMajor, h]
  rfl
theorem decodeMajor_76 {w : InstWord} (h : fMajor w = 0x76#8) : decodeMajor w = decode76 w := by
  rw [decodeMajor, h]
  rfl
theorem decodeMajor_77 {w : InstWord} (h : fMajor w = 0x77#8) : decodeMajor w = decode77 w := by
  rw [decodeMajor, h]
  rfl
theorem decodeMajor_78 {w : InstWord} (h : fMajor w = 0x78#8) : decodeMajor w = decode78 w := by
  rw [decodeMajor, h]
  rfl
theorem decodeMajor_79 {w : InstWord} (h : fMajor w = 0x79#8) : decodeMajor w = decode79 w := by
  rw [decodeMajor, h]
  rfl
theorem decodeMajor_80 {w : InstWord} (h : fMajor w = 0x80#8) : decodeMajor w = decode80 w := by
  rw [decodeMajor, h]
  rfl
theorem decodeMajor_81 {w : InstWord} (h : fMajor w = 0x81#8) : decodeMajor w = decode81 w := by
  rw [decodeMajor, h]
  rfl
theorem decodeMajor_A0 {w : InstWord} (h : fMajor w = 0xA0#8) : decodeMajor w = decodeA0 w := by
  rw [decodeMajor, h]
  rfl
theorem decodeMajor_A1 {w : InstWord} (h : fMajor w = 0xA1#8) : decodeMajor w = decodeA1 w := by
  rw [decodeMajor, h]
  rfl
theorem decodeMajor_A2 {w : InstWord} (h : fMajor w = 0xA2#8) : decodeMajor w = decodeA2 w := by
  rw [decodeMajor, h]
  rfl
theorem decodeMajor_A3 {w : InstWord} (h : fMajor w = 0xA3#8) : decodeMajor w = decodeA3 w := by
  rw [decodeMajor, h]
  rfl
theorem decodeMajor_A4 {w : InstWord} (h : fMajor w = 0xA4#8) : decodeMajor w = decodeA4 w := by
  rw [decodeMajor, h]
  rfl
theorem decodeMajor_B0 {w : InstWord} (h : fMajor w = 0xB0#8) : decodeMajor w = decodeB0 w := by
  rw [decodeMajor, h]
  rfl
theorem decodeMajor_B1 {w : InstWord} (h : fMajor w = 0xB1#8) : decodeMajor w = decodeB1 w := by
  rw [decodeMajor, h]
  rfl
theorem decodeMajor_B2 {w : InstWord} (h : fMajor w = 0xB2#8) : decodeMajor w = decodeB2 w := by
  rw [decodeMajor, h]
  rfl
theorem decodeMajor_B3 {w : InstWord} (h : fMajor w = 0xB3#8) : decodeMajor w = decodeB3 w := by
  rw [decodeMajor, h]
  rfl
theorem decodeMajor_C0 {w : InstWord} (h : fMajor w = 0xC0#8) : decodeMajor w = decodeC0 w := by
  rw [decodeMajor, h]
  rfl
theorem decodeMajor_C1 {w : InstWord} (h : fMajor w = 0xC1#8) : decodeMajor w = decodeC1 w := by
  rw [decodeMajor, h]
  rfl
theorem decodeMajor_D0 {w : InstWord} (h : fMajor w = 0xD0#8) : decodeMajor w = decodeD0 w := by
  rw [decodeMajor, h]
  rfl
theorem decodeMajor_D1 {w : InstWord} (h : fMajor w = 0xD1#8) : decodeMajor w = decodeD1 w := by
  rw [decodeMajor, h]
  rfl
theorem decodeMajor_D2 {w : InstWord} (h : fMajor w = 0xD2#8) : decodeMajor w = decodeD2 w := by
  rw [decodeMajor, h]
  rfl
theorem decodeMajor_D8 {w : InstWord} (h : fMajor w = 0xD8#8) : decodeMajor w = decodeD8 w := by
  rw [decodeMajor, h]
  rfl
theorem decodeMajor_D9 {w : InstWord} (h : fMajor w = 0xD9#8) : decodeMajor w = decodeD9 w := by
  rw [decodeMajor, h]
  rfl
theorem decodeMajor_DA {w : InstWord} (h : fMajor w = 0xDA#8) : decodeMajor w = decodeDA w := by
  rw [decodeMajor, h]
  rfl
theorem decodeMajor_E0 {w : InstWord} (h : fMajor w = 0xE0#8) : decodeMajor w = decodeE0 w := by
  rw [decodeMajor, h]
  rfl
theorem decodeMajor_F0 {w : InstWord} (h : fMajor w = 0xF0#8) : decodeMajor w = decodeF0 w := by
  rw [decodeMajor, h]
  rfl
theorem decodeMajor_F1 {w : InstWord} (h : fMajor w = 0xF1#8) : decodeMajor w = decodeF1 w := by
  rw [decodeMajor, h]
  rfl
theorem decodeMajor_F2 {w : InstWord} (h : fMajor w = 0xF2#8) : decodeMajor w = decodeF2 w := by
  rw [decodeMajor, h]
  rfl
theorem decodeMajor_F3 {w : InstWord} (h : fMajor w = 0xF3#8) : decodeMajor w = decodeF3 w := by
  rw [decodeMajor, h]
  rfl
theorem decodeMajor_F4 {w : InstWord} (h : fMajor w = 0xF4#8) : decodeMajor w = decodeF4 w := by
  rw [decodeMajor, h]
  rfl
theorem decodeMajor_F5 {w : InstWord} (h : fMajor w = 0xF5#8) : decodeMajor w = decodeF5 w := by
  rw [decodeMajor, h]
  rfl
theorem decodeMajor_F6 {w : InstWord} (h : fMajor w = 0xF6#8) : decodeMajor w = decodeF6 w := by
  rw [decodeMajor, h]
  rfl

/-- A word whose fields name a well-formed instruction of which it is the word decodes to it. -/
theorem decode_encode_of {i : Instr} (h : decodeMajor (encode i) = some i) (hw : i.wf = true) : decode (encode i) = .ok i := by
  have hz : encode i ≠ 0 := by
    intro h0
    rw [h0] at h
    have : decodeMajor 0 = none := rfl
    rw [this] at h
    cases h
  rw [decode, if_neg hz, h]
  simp [hw]

namespace Laws

/-- Decode gives back the instruction that encode was given. -/
def RoundTrip.Statement (i : Instr) : Prop := i.coded = true → i.wf = true → decode (encode i) = .ok i

theorem RoundTrip.eventDelivery (c : Nat) : RoundTrip.Statement (.eventDelivery c) := fun h => nomatch h
theorem RoundTrip.lineFill (core : Nat) (loc : Nat) (e1 : BitVec 512) (e2 : BitVec 512) : RoundTrip.Statement (.lineFill core loc e1 e2) := fun h => nomatch h
theorem RoundTrip.memoryReply (c : Nat) : RoundTrip.Statement (.memoryReply c) := fun h => nomatch h
theorem RoundTrip.postedWriteAccept (c : Nat) : RoundTrip.Statement (.postedWriteAccept c) := fun h => nomatch h
theorem RoundTrip.writePerformed (id : Nat) : RoundTrip.Statement (.writePerformed id) := fun h => nomatch h
theorem RoundTrip.flagIncrement (c : Nat) : RoundTrip.Statement (.flagIncrement c) := fun h => nomatch h
theorem RoundTrip.vectorResult (c : Nat) : RoundTrip.Statement (.vectorResult c) := fun h => nomatch h
theorem RoundTrip.vectorPipeGrant (barn : Nat) : RoundTrip.Statement (.vectorPipeGrant barn) := fun h => nomatch h
theorem RoundTrip.tileOpComplete (c : Nat) : RoundTrip.Statement (.tileOpComplete c) := fun h => nomatch h
theorem RoundTrip.matrixKBlock (c : Nat) : RoundTrip.Statement (.matrixKBlock c) := fun h => nomatch h
theorem RoundTrip.matrixComplete (c : Nat) : RoundTrip.Statement (.matrixComplete c) := fun h => nomatch h
theorem RoundTrip.lockGrant (c : Nat) : RoundTrip.Statement (.lockGrant c) := fun h => nomatch h
theorem RoundTrip.handoffEntryGiven (core : Nat) (q : QReg) (idx : Nat) : RoundTrip.Statement (.handoffEntryGiven core q idx) := fun h => nomatch h
theorem RoundTrip.gateArrivalCounts (c : Nat) (g : GReg) : RoundTrip.Statement (.gateArrivalCounts c g) := fun h => nomatch h
theorem RoundTrip.gateSweep (core : Nat) (g : GReg) (p : SweepPacket) : RoundTrip.Statement (.gateSweep core g p) := fun h => nomatch h
theorem RoundTrip.gateRelease (core : Nat) (g : GReg) : RoundTrip.Statement (.gateRelease core g) := fun h => nomatch h
theorem RoundTrip.ringSlotWrite (m : MsgRef) : RoundTrip.Statement (.ringSlotWrite m) := fun h => nomatch h
theorem RoundTrip.moveByteCopy (id : Nat) : RoundTrip.Statement (.moveByteCopy id) := fun h => nomatch h
theorem RoundTrip.timedMessageArrival (m : MsgRef) : RoundTrip.Statement (.timedMessageArrival m) := fun h => nomatch h
theorem RoundTrip.recallArrival (m : MsgRef) : RoundTrip.Statement (.recallArrival m) := fun h => nomatch h
theorem RoundTrip.acknowledgement (m : MsgRef) : RoundTrip.Statement (.acknowledgement m) := fun h => nomatch h
theorem RoundTrip.backPressureResend (id : Nat) : RoundTrip.Statement (.backPressureResend id) := fun h => nomatch h
theorem RoundTrip.flipSweep (launch : Nat) : RoundTrip.Statement (.flipSweep launch) := fun h => nomatch h
theorem RoundTrip.countSweep (launch : Nat) : RoundTrip.Statement (.countSweep launch) := fun h => nomatch h
theorem RoundTrip.deferredRelease (launch : Nat) : RoundTrip.Statement (.deferredRelease launch) := fun h => nomatch h
theorem RoundTrip.faultRecordPost (c : Nat) : RoundTrip.Statement (.faultRecordPost c) := fun h => nomatch h
theorem RoundTrip.timer (c : Nat) : RoundTrip.Statement (.timer c) := fun h => nomatch h
theorem RoundTrip.sleepExpiry (c : Nat) : RoundTrip.Statement (.sleepExpiry c) := fun h => nomatch h
theorem RoundTrip.sleepDepthEntry (core : Nat) : RoundTrip.Statement (.sleepDepthEntry core) := fun h => nomatch h
theorem RoundTrip.coreWake (core : Nat) : RoundTrip.Statement (.coreWake core) := fun h => nomatch h
theorem RoundTrip.exitTest (barn : Nat) (pass : Bool) : RoundTrip.Statement (.exitTest barn pass) := fun h => nomatch h
theorem RoundTrip.timingReplay (barn : Nat) : RoundTrip.Statement (.timingReplay barn) := fun h => nomatch h
theorem RoundTrip.scrubMaintenanceSlot (core : Nat) (bank : Nat) : RoundTrip.Statement (.scrubMaintenanceSlot core bank) := fun h => nomatch h
theorem RoundTrip.scrubBlock (loc : Nat) (uncorrectable : Bool) : RoundTrip.Statement (.scrubBlock loc uncorrectable) := fun h => nomatch h
theorem RoundTrip.slotTableTakesEffect (core : Nat) : RoundTrip.Statement (.slotTableTakesEffect core) := fun h => nomatch h
theorem RoundTrip.slotCommit (core : Nat) : RoundTrip.Statement (.slotCommit core) := fun h => nomatch h
theorem RoundTrip.ctxLoad (core : Nat) (n : BitVec 6) (adr : Nat) : RoundTrip.Statement (.ctxLoad core n adr) := fun h => nomatch h
theorem RoundTrip.ctxSave (core : Nat) (n : BitVec 6) (adr : Nat) : RoundTrip.Statement (.ctxSave core n adr) := fun h => nomatch h
theorem RoundTrip.ctxRelease (core : Nat) (n : BitVec 6) : RoundTrip.Statement (.ctxRelease core n) := fun h => nomatch h
theorem RoundTrip.ctxCmdComplete (core : Nat) : RoundTrip.Statement (.ctxCmdComplete core) := fun h => nomatch h
theorem RoundTrip.translationMiss (c : Nat) : RoundTrip.Statement (.translationMiss c) := fun h => nomatch h
theorem RoundTrip.tableWalkDone (stn : Nat) (asid : Nat) (granule : Nat) : RoundTrip.Statement (.tableWalkDone stn asid granule) := fun h => nomatch h
theorem RoundTrip.niRetry (c : Nat) : RoundTrip.Statement (.niRetry c) := fun h => nomatch h
theorem RoundTrip.stationAck (c : Nat) (stn : Nat) : RoundTrip.Statement (.stationAck c stn) := fun h => nomatch h
theorem RoundTrip.fbPop (stn : Nat) : RoundTrip.Statement (.fbPop stn) := fun h => nomatch h
theorem RoundTrip.fbFail (stn : Nat) (v : BitVec 64) : RoundTrip.Statement (.fbFail stn v) := fun h => nomatch h
theorem RoundTrip.stnReplayAll (stn : Nat) : RoundTrip.Statement (.stnReplayAll stn) := fun h => nomatch h
theorem RoundTrip.stnInvalidateAll (stn : Nat) : RoundTrip.Statement (.stnInvalidateAll stn) := fun h => nomatch h
theorem RoundTrip.registerWrite (adr : RegAddr) (v : BitVec 64) : RoundTrip.Statement (.registerWrite adr v) := fun h => nomatch h
theorem RoundTrip.bteRequest (eng : Nat) (id : Nat) : RoundTrip.Statement (.bteRequest eng id) := fun h => nomatch h
theorem RoundTrip.bteRetry (eng : Nat) (id : Nat) : RoundTrip.Statement (.bteRetry eng id) := fun h => nomatch h
theorem RoundTrip.channelBlockWrite (core : Nat) (ch : ChReg) (blk : Nat) : RoundTrip.Statement (.channelBlockWrite core ch blk) := fun h => nomatch h
theorem RoundTrip.channelComplete (core : Nat) (ch : ChReg) : RoundTrip.Statement (.channelComplete core ch) := fun h => nomatch h
theorem RoundTrip.mcastAck (core : Nat) (ch : ChReg) (dst : Nat) : RoundTrip.Statement (.mcastAck core ch dst) := fun h => nomatch h
theorem RoundTrip.windowRead (p : Packet) : RoundTrip.Statement (.windowRead p) := fun h => nomatch h
theorem RoundTrip.windowWrite (p : Packet) : RoundTrip.Statement (.windowWrite p) := fun h => nomatch h
theorem RoundTrip.windowWrite64 (p : Packet) : RoundTrip.Statement (.windowWrite64 p) := fun h => nomatch h
theorem RoundTrip.windowAtomic (p : Packet) : RoundTrip.Statement (.windowAtomic p) := fun h => nomatch h
theorem RoundTrip.replyWithData (p : Packet) : RoundTrip.Statement (.replyWithData p) := fun h => nomatch h
theorem RoundTrip.replyStatus (p : Packet) : RoundTrip.Statement (.replyStatus p) := fun h => nomatch h
theorem RoundTrip.refusal (p : Packet) : RoundTrip.Statement (.refusal p) := fun h => nomatch h
theorem RoundTrip.blockCopied (p : Packet) : RoundTrip.Statement (.blockCopied p) := fun h => nomatch h
theorem RoundTrip.hitchPrepared (p : Packet) : RoundTrip.Statement (.hitchPrepared p) := fun h => nomatch h
theorem RoundTrip.hitchCommit (p : Packet) : RoundTrip.Statement (.hitchCommit p) := fun h => nomatch h
theorem RoundTrip.hitchAbort (p : Packet) : RoundTrip.Statement (.hitchAbort p) := fun h => nomatch h
theorem RoundTrip.hitchJoinRequest (p : Packet) : RoundTrip.Statement (.hitchJoinRequest p) := fun h => nomatch h
theorem RoundTrip.hitchDetachRequest (p : Packet) : RoundTrip.Statement (.hitchDetachRequest p) := fun h => nomatch h
theorem RoundTrip.hitchAcknowledge (p : Packet) : RoundTrip.Statement (.hitchAcknowledge p) := fun h => nomatch h
theorem RoundTrip.exitNotice (p : Packet) : RoundTrip.Statement (.exitNotice p) := fun h => nomatch h
theorem RoundTrip.withdraw (p : Packet) : RoundTrip.Statement (.withdraw p) := fun h => nomatch h
theorem RoundTrip.hitchPrepare (launch : Nat) (x : Nat) (y : Nat) (codeVa : BitVec 48) : RoundTrip.Statement (.hitchPrepare launch x y codeVa) := fun h => nomatch h
theorem RoundTrip.linkReplay (port : Nat) : RoundTrip.Statement (.linkReplay port) := fun h => nomatch h
theorem RoundTrip.portRetrain (port : Nat) (ok : Bool) : RoundTrip.Statement (.portRetrain port ok) := fun h => nomatch h
theorem RoundTrip.portDown (port : Nat) : RoundTrip.Statement (.portDown port) := fun h => nomatch h
theorem RoundTrip.launch (queue : Nat) (e : QueueEntry) : RoundTrip.Statement (.launch queue e) := fun h => nomatch h
theorem RoundTrip.feed (queue : Nat) (e : QueueEntry) : RoundTrip.Statement (.feed queue e) := fun h => nomatch h
theorem RoundTrip.cancel (queue : Nat) (e : QueueEntry) : RoundTrip.Statement (.cancel queue e) := fun h => nomatch h
theorem RoundTrip.doorbell (fn : Nat) (queue : Nat) (v : BitVec 64) : RoundTrip.Statement (.doorbell fn queue v) := fun h => nomatch h
theorem RoundTrip.launchPlacement (launch : Nat) (x : Nat) (y : Nat) (codeVa : BitVec 48) : RoundTrip.Statement (.launchPlacement launch x y codeVa) := fun h => nomatch h
theorem RoundTrip.launchCompletion (launch : Nat) : RoundTrip.Statement (.launchCompletion launch) := fun h => nomatch h
theorem RoundTrip.completionRecord (queue : Nat) : RoundTrip.Statement (.completionRecord queue) := fun h => nomatch h
theorem RoundTrip.paddockPreempt (launch : Nat) : RoundTrip.Statement (.paddockPreempt launch) := fun h => nomatch h
theorem RoundTrip.graceExpiry (launch : Nat) : RoundTrip.Statement (.graceExpiry launch) := fun h => nomatch h
theorem RoundTrip.quantumExpiry (launch : Nat) : RoundTrip.Statement (.quantumExpiry launch) := fun h => nomatch h
theorem RoundTrip.openLatest (region : Nat) : RoundTrip.Statement (.openLatest region) := fun h => nomatch h
theorem RoundTrip.openPrivate (region : Nat) : RoundTrip.Statement (.openPrivate region) := fun h => nomatch h
theorem RoundTrip.publish (region : Nat) : RoundTrip.Statement (.publish region) := fun h => nomatch h
theorem RoundTrip.close (region : Nat) : RoundTrip.Statement (.close region) := fun h => nomatch h
theorem RoundTrip.hostLoss (region : HostLoss) : RoundTrip.Statement (.hostLoss region) := fun h => nomatch h
theorem RoundTrip.extentWithdraw (first : Nat) (len : Nat) : RoundTrip.Statement (.extentWithdraw first len) := fun h => nomatch h
theorem RoundTrip.withdrawComplete (first : Nat) (len : Nat) : RoundTrip.Statement (.withdrawComplete first len) := fun h => nomatch h
theorem RoundTrip.getVersion (fn : Nat) : RoundTrip.Statement (.getVersion fn) := fun h => nomatch h
theorem RoundTrip.getCapabilities (fn : Nat) : RoundTrip.Statement (.getCapabilities fn) := fun h => nomatch h
theorem RoundTrip.negotiateAlgorithms (fn : Nat) : RoundTrip.Statement (.negotiateAlgorithms fn) := fun h => nomatch h
theorem RoundTrip.getDigests (fn : Nat) : RoundTrip.Statement (.getDigests fn) := fun h => nomatch h
theorem RoundTrip.getCertificate (fn : Nat) : RoundTrip.Statement (.getCertificate fn) := fun h => nomatch h
theorem RoundTrip.challenge (fn : Nat) : RoundTrip.Statement (.challenge fn) := fun h => nomatch h
theorem RoundTrip.getMeasurements (fn : Nat) (index : Nat) : RoundTrip.Statement (.getMeasurements fn index) := fun h => nomatch h
theorem RoundTrip.keyExchange (fn : Nat) : RoundTrip.Statement (.keyExchange fn) := fun h => nomatch h
theorem RoundTrip.finish (session : Nat) : RoundTrip.Statement (.finish session) := fun h => nomatch h
theorem RoundTrip.keyUpdate (session : Nat) : RoundTrip.Statement (.keyUpdate session) := fun h => nomatch h
theorem RoundTrip.heartbeat (session : Nat) : RoundTrip.Statement (.heartbeat session) := fun h => nomatch h
theorem RoundTrip.endSession (session : Nat) : RoundTrip.Statement (.endSession session) := fun h => nomatch h
theorem RoundTrip.vendorDefinedRequest (session : Nat) (r : VendorRequest) : RoundTrip.Statement (.vendorDefinedRequest session r) := fun h => nomatch h
theorem RoundTrip.unsupportedRequest (fn : Nat) (code : Nat) : RoundTrip.Statement (.unsupportedRequest fn code) := fun h => nomatch h
theorem RoundTrip.heartbeatTimeout (session : Nat) : RoundTrip.Statement (.heartbeatTimeout session) := fun h => nomatch h
theorem RoundTrip.lockInterfaceRequest (session : Nat) (w : Nat) : RoundTrip.Statement (.lockInterfaceRequest session w) := fun h => nomatch h
theorem RoundTrip.getDeviceInterfaceReport (session : Nat) (w : Nat) : RoundTrip.Statement (.getDeviceInterfaceReport session w) := fun h => nomatch h
theorem RoundTrip.startInterfaceRequest (session : Nat) (w : Nat) : RoundTrip.Statement (.startInterfaceRequest session w) := fun h => nomatch h
theorem RoundTrip.stopInterfaceRequest (session : Nat) (w : Nat) : RoundTrip.Statement (.stopInterfaceRequest session w) := fun h => nomatch h
theorem RoundTrip.ideIntegrityFailure (w : Nat) : RoundTrip.Statement (.ideIntegrityFailure w) := fun h => nomatch h
theorem RoundTrip.securityAlarm (k : Alarm) : RoundTrip.Statement (.securityAlarm k) := fun h => nomatch h
theorem RoundTrip.testModeEntry : RoundTrip.Statement (.testModeEntry) := fun h => nomatch h
theorem RoundTrip.thermalThrottle (on : Bool) : RoundTrip.Statement (.thermalThrottle on) := fun h => nomatch h
theorem RoundTrip.powerGood (o : StartOutcome) : RoundTrip.Statement (.powerGood o) := fun h => nomatch h
theorem RoundTrip.startWatchdog : RoundTrip.Statement (.startWatchdog) := fun h => nomatch h
theorem RoundTrip.firstQueueEnable (queue : Nat) : RoundTrip.Statement (.firstQueueEnable queue) := fun h => nomatch h
theorem RoundTrip.packageSleep : RoundTrip.Statement (.packageSleep) := fun h => nomatch h
theorem RoundTrip.packageResume : RoundTrip.Statement (.packageResume) := fun h => nomatch h
theorem RoundTrip.powerLoss : RoundTrip.Statement (.powerLoss) := fun h => nomatch h
theorem RoundTrip.unusedTurn (core : Nat) : RoundTrip.Statement (.unusedTurn core) := fun h => nomatch h
theorem RoundTrip.paddockRebind (launch : Nat) (x : Nat) (y : Nat) : RoundTrip.Statement (.paddockRebind launch x y) := fun h => nomatch h
theorem RoundTrip.cxlMemAccess (region : Nat) (off : Nat) (wr : Bool) (line : BitVec 512) : RoundTrip.Statement (.cxlMemAccess region off wr line) := fun h => nomatch h
theorem RoundTrip.unknownOp (queue : Nat) (e : QueueEntry) : RoundTrip.Statement (.unknownOp queue e) := fun h => nomatch h
theorem RoundTrip.unknownPacketType (p : Packet) : RoundTrip.Statement (.unknownPacketType p) := fun h => nomatch h
theorem RoundTrip.wipePassEnd (c : Nat) : RoundTrip.Statement (.wipePassEnd c) := fun h => nomatch h
theorem RoundTrip.stopCompletion (w : Nat) : RoundTrip.Statement (.stopCompletion w) := fun h => nomatch h
theorem RoundTrip.nop : RoundTrip.Statement (.nop) := by
  intro _ hw
  refine decode_encode_of ?_ hw
  change decodeMajor (packG 0x01 0x00 0 0 0 0 0 0) = _
  rw [decodeMajor_01 (by simp)]
  simp [decode01]
theorem RoundTrip.add (d : WReg) (a : WReg) (b : WReg) : RoundTrip.Statement (.add d a b) := by
  intro _ hw
  refine decode_encode_of ?_ hw
  change decodeMajor (packG 0x02 0x00 d a b 0 0 0) = _
  rw [decodeMajor_02 (by simp)]
  simp [decode02]
theorem RoundTrip.sub (d : WReg) (a : WReg) (b : WReg) : RoundTrip.Statement (.sub d a b) := by
  intro _ hw
  refine decode_encode_of ?_ hw
  change decodeMajor (packG 0x02 0x01 d a b 0 0 0) = _
  rw [decodeMajor_02 (by simp)]
  simp [decode02]
theorem RoundTrip.mul (d : WReg) (a : WReg) (b : WReg) : RoundTrip.Statement (.mul d a b) := by
  intro _ hw
  refine decode_encode_of ?_ hw
  change decodeMajor (packG 0x02 0x02 d a b 0 0 0) = _
  rw [decodeMajor_02 (by simp)]
  simp [decode02]
theorem RoundTrip.mulh (d : WReg) (a : WReg) (b : WReg) : RoundTrip.Statement (.mulh d a b) := by
  intro _ hw
  refine decode_encode_of ?_ hw
  change decodeMajor (packG 0x02 0x03 d a b 0 0 0) = _
  rw [decodeMajor_02 (by simp)]
  simp [decode02]
theorem RoundTrip.mulhn (d : WReg) (a : WReg) (b : WReg) : RoundTrip.Statement (.mulhn d a b) := by
  intro _ hw
  refine decode_encode_of ?_ hw
  change decodeMajor (packG 0x02 0x04 d a b 0 0 0) = _
  rw [decodeMajor_02 (by simp)]
  simp [decode02]
theorem RoundTrip.div (d : WReg) (a : WReg) (b : WReg) : RoundTrip.Statement (.div d a b) := by
  intro _ hw
  refine decode_encode_of ?_ hw
  change decodeMajor (packG 0x02 0x05 d a b 0 0 0) = _
  rw [decodeMajor_02 (by simp)]
  simp [decode02]
theorem RoundTrip.divn (d : WReg) (a : WReg) (b : WReg) : RoundTrip.Statement (.divn d a b) := by
  intro _ hw
  refine decode_encode_of ?_ hw
  change decodeMajor (packG 0x02 0x06 d a b 0 0 0) = _
  rw [decodeMajor_02 (by simp)]
  simp [decode02]
theorem RoundTrip.rem (d : WReg) (a : WReg) (b : WReg) : RoundTrip.Statement (.rem d a b) := by
  intro _ hw
  refine decode_encode_of ?_ hw
  change decodeMajor (packG 0x02 0x07 d a b 0 0 0) = _
  rw [decodeMajor_02 (by simp)]
  simp [decode02]
theorem RoundTrip.remn (d : WReg) (a : WReg) (b : WReg) : RoundTrip.Statement (.remn d a b) := by
  intro _ hw
  refine decode_encode_of ?_ hw
  change decodeMajor (packG 0x02 0x08 d a b 0 0 0) = _
  rw [decodeMajor_02 (by simp)]
  simp [decode02]
theorem RoundTrip.adds (d : WReg) (a : WReg) (b : WReg) : RoundTrip.Statement (.adds d a b) := by
  intro _ hw
  refine decode_encode_of ?_ hw
  change decodeMajor (packG 0x03 0x00 d a b 0 0 0) = _
  rw [decodeMajor_03 (by simp)]
  simp [decode03]
theorem RoundTrip.subs (d : WReg) (a : WReg) (b : WReg) : RoundTrip.Statement (.subs d a b) := by
  intro _ hw
  refine decode_encode_of ?_ hw
  change decodeMajor (packG 0x03 0x01 d a b 0 0 0) = _
  rw [decodeMajor_03 (by simp)]
  simp [decode03]
theorem RoundTrip.addsn (d : WReg) (a : WReg) (b : WReg) : RoundTrip.Statement (.addsn d a b) := by
  intro _ hw
  refine decode_encode_of ?_ hw
  change decodeMajor (packG 0x03 0x02 d a b 0 0 0) = _
  rw [decodeMajor_03 (by simp)]
  simp [decode03]
theorem RoundTrip.subsn (d : WReg) (a : WReg) (b : WReg) : RoundTrip.Statement (.subsn d a b) := by
  intro _ hw
  refine decode_encode_of ?_ hw
  change decodeMajor (packG 0x03 0x03 d a b 0 0 0) = _
  rw [decodeMajor_03 (by simp)]
  simp [decode03]
theorem RoundTrip.andB (d : WReg) (a : WReg) (b : WReg) : RoundTrip.Statement (.andB d a b) := by
  intro _ hw
  refine decode_encode_of ?_ hw
  change decodeMajor (packG 0x04 0x00 d a b 0 0 0) = _
  rw [decodeMajor_04 (by simp)]
  simp [decode04]
theorem RoundTrip.orB (d : WReg) (a : WReg) (b : WReg) : RoundTrip.Statement (.orB d a b) := by
  intro _ hw
  refine decode_encode_of ?_ hw
  change decodeMajor (packG 0x04 0x01 d a b 0 0 0) = _
  rw [decodeMajor_04 (by simp)]
  simp [decode04]
theorem RoundTrip.xorB (d : WReg) (a : WReg) (b : WReg) : RoundTrip.Statement (.xorB d a b) := by
  intro _ hw
  refine decode_encode_of ?_ hw
  change decodeMajor (packG 0x04 0x02 d a b 0 0 0) = _
  rw [decodeMajor_04 (by simp)]
  simp [decode04]
theorem RoundTrip.andn (d : WReg) (a : WReg) (b : WReg) : RoundTrip.Statement (.andn d a b) := by
  intro _ hw
  refine decode_encode_of ?_ hw
  change decodeMajor (packG 0x04 0x03 d a b 0 0 0) = _
  rw [decodeMajor_04 (by simp)]
  simp [decode04]
theorem RoundTrip.shl (d : WReg) (a : WReg) (b : WReg) : RoundTrip.Statement (.shl d a b) := by
  intro _ hw
  refine decode_encode_of ?_ hw
  change decodeMajor (packG 0x05 0x00 d a b 0 0 0) = _
  rw [decodeMajor_05 (by simp)]
  simp [decode05]
theorem RoundTrip.shr (d : WReg) (a : WReg) (b : WReg) : RoundTrip.Statement (.shr d a b) := by
  intro _ hw
  refine decode_encode_of ?_ hw
  change decodeMajor (packG 0x05 0x01 d a b 0 0 0) = _
  rw [decodeMajor_05 (by simp)]
  simp [decode05]
theorem RoundTrip.sar (d : WReg) (a : WReg) (b : WReg) : RoundTrip.Statement (.sar d a b) := by
  intro _ hw
  refine decode_encode_of ?_ hw
  change decodeMajor (packG 0x05 0x02 d a b 0 0 0) = _
  rw [decodeMajor_05 (by simp)]
  simp [decode05]
theorem RoundTrip.rol (d : WReg) (a : WReg) (b : WReg) : RoundTrip.Statement (.rol d a b) := by
  intro _ hw
  refine decode_encode_of ?_ hw
  change decodeMajor (packG 0x05 0x03 d a b 0 0 0) = _
  rw [decodeMajor_05 (by simp)]
  simp [decode05]
theorem RoundTrip.ror (d : WReg) (a : WReg) (b : WReg) : RoundTrip.Statement (.ror d a b) := by
  intro _ hw
  refine decode_encode_of ?_ hw
  change decodeMajor (packG 0x05 0x04 d a b 0 0 0) = _
  rw [decodeMajor_05 (by simp)]
  simp [decode05]
theorem RoundTrip.clz (d : WReg) (a : WReg) : RoundTrip.Statement (.clz d a) := by
  intro _ hw
  refine decode_encode_of ?_ hw
  change decodeMajor (packG 0x06 0x00 d a 0 0 0 0) = _
  rw [decodeMajor_06 (by simp)]
  simp [decode06]
theorem RoundTrip.ctz (d : WReg) (a : WReg) : RoundTrip.Statement (.ctz d a) := by
  intro _ hw
  refine decode_encode_of ?_ hw
  change decodeMajor (packG 0x06 0x01 d a 0 0 0 0) = _
  rw [decodeMajor_06 (by simp)]
  simp [decode06]
theorem RoundTrip.popc (d : WReg) (a : WReg) : RoundTrip.Statement (.popc d a) := by
  intro _ hw
  refine decode_encode_of ?_ hw
  change decodeMajor (packG 0x06 0x02 d a 0 0 0 0) = _
  rw [decodeMajor_06 (by simp)]
  simp [decode06]
theorem RoundTrip.brev (d : WReg) (a : WReg) : RoundTrip.Statement (.brev d a) := by
  intro _ hw
  refine decode_encode_of ?_ hw
  change decodeMajor (packG 0x06 0x03 d a 0 0 0 0) = _
  rw [decodeMajor_06 (by simp)]
  simp [decode06]
theorem RoundTrip.bswap (d : WReg) (a : WReg) : RoundTrip.Statement (.bswap d a) := by
  intro _ hw
  refine decode_encode_of ?_ hw
  change decodeMajor (packG 0x06 0x04 d a 0 0 0 0) = _
  rw [decodeMajor_06 (by simp)]
  simp [decode06]
theorem RoundTrip.min (d : WReg) (a : WReg) (b : WReg) : RoundTrip.Statement (.min d a b) := by
  intro _ hw
  refine decode_encode_of ?_ hw
  change decodeMajor (packG 0x07 0x00 d a b 0 0 0) = _
  rw [decodeMajor_07 (by simp)]
  simp [decode07]
theorem RoundTrip.max (d : WReg) (a : WReg) (b : WReg) : RoundTrip.Statement (.max d a b) := by
  intro _ hw
  refine decode_encode_of ?_ hw
  change decodeMajor (packG 0x07 0x01 d a b 0 0 0) = _
  rw [decodeMajor_07 (by simp)]
  simp [decode07]
theorem RoundTrip.minn (d : WReg) (a : WReg) (b : WReg) : RoundTrip.Statement (.minn d a b) := by
  intro _ hw
  refine decode_encode_of ?_ hw
  change decodeMajor (packG 0x07 0x02 d a b 0 0 0) = _
  rw [decodeMajor_07 (by simp)]
  simp [decode07]
theorem RoundTrip.maxn (d : WReg) (a : WReg) (b : WReg) : RoundTrip.Statement (.maxn d a b) := by
  intro _ hw
  refine decode_encode_of ?_ hw
  change decodeMajor (packG 0x07 0x03 d a b 0 0 0) = _
  rw [decodeMajor_07 (by simp)]
  simp [decode07]
theorem RoundTrip.addi (d : WReg) (a : WReg) (imm : BitVec 48) : RoundTrip.Statement (.addi d a imm) := by
  intro _ hw
  refine decode_encode_of ?_ hw
  change decodeMajor (packG 0x08 0x00 d a 0 0 0 imm) = _
  rw [decodeMajor_08 (by simp)]
  simp [decode08]
theorem RoundTrip.andi (d : WReg) (a : WReg) (imm : BitVec 48) : RoundTrip.Statement (.andi d a imm) := by
  intro _ hw
  refine decode_encode_of ?_ hw
  change decodeMajor (packG 0x08 0x01 d a 0 0 0 imm) = _
  rw [decodeMajor_08 (by simp)]
  simp [decode08]
theorem RoundTrip.ori (d : WReg) (a : WReg) (imm : BitVec 48) : RoundTrip.Statement (.ori d a imm) := by
  intro _ hw
  refine decode_encode_of ?_ hw
  change decodeMajor (packG 0x08 0x02 d a 0 0 0 imm) = _
  rw [decodeMajor_08 (by simp)]
  simp [decode08]
theorem RoundTrip.xori (d : WReg) (a : WReg) (imm : BitVec 48) : RoundTrip.Statement (.xori d a imm) := by
  intro _ hw
  refine decode_encode_of ?_ hw
  change decodeMajor (packG 0x08 0x03 d a 0 0 0 imm) = _
  rw [decodeMajor_08 (by simp)]
  simp [decode08]
theorem RoundTrip.shli (d : WReg) (a : WReg) (n : BitVec 6) : RoundTrip.Statement (.shli d a n) := by
  intro _ hw
  refine decode_encode_of ?_ hw
  change decodeMajor (packG 0x08 0x04 d a 0 0 0 (BitVec.setWidth 48 n)) = _
  rw [decodeMajor_08 (by simp)]
  simp [decode08]
theorem RoundTrip.shri (d : WReg) (a : WReg) (n : BitVec 6) : RoundTrip.Statement (.shri d a n) := by
  intro _ hw
  refine decode_encode_of ?_ hw
  change decodeMajor (packG 0x08 0x05 d a 0 0 0 (BitVec.setWidth 48 n)) = _
  rw [decodeMajor_08 (by simp)]
  simp [decode08]
theorem RoundTrip.sari (d : WReg) (a : WReg) (n : BitVec 6) : RoundTrip.Statement (.sari d a n) := by
  intro _ hw
  refine decode_encode_of ?_ hw
  change decodeMajor (packG 0x08 0x06 d a 0 0 0 (BitVec.setWidth 48 n)) = _
  rw [decodeMajor_08 (by simp)]
  simp [decode08]
theorem RoundTrip.mov (d : WReg) (a : WReg) : RoundTrip.Statement (.mov d a) := by
  intro _ hw
  refine decode_encode_of ?_ hw
  change decodeMajor (packG 0x09 0x00 d a 0 0 0 0) = _
  rw [decodeMajor_09 (by simp)]
  simp [decode09]
theorem RoundTrip.movi (d : WReg) (imm : BitVec 48) : RoundTrip.Statement (.movi d imm) := by
  intro _ hw
  refine decode_encode_of ?_ hw
  change decodeMajor (packG 0x09 0x01 d 0 0 0 0 imm) = _
  rw [decodeMajor_09 (by simp)]
  simp [decode09]
theorem RoundTrip.movhi (d : WReg) (a : WReg) (imm : BitVec 16) : RoundTrip.Statement (.movhi d a imm) := by
  intro _ hw
  refine decode_encode_of ?_ hw
  change decodeMajor (packG 0x09 0x02 d a 0 0 0 (BitVec.setWidth 48 imm)) = _
  rw [decodeMajor_09 (by simp)]
  simp [decode09]
theorem RoundTrip.sext (d : WReg) (a : WReg) (n : BitVec 7) : RoundTrip.Statement (.sext d a n) := by
  intro _ hw
  refine decode_encode_of ?_ hw
  change decodeMajor (packG 0x0A 0x00 d a 0 0 0 (BitVec.setWidth 48 n)) = _
  rw [decodeMajor_0A (by simp)]
  simp [decode0A]
theorem RoundTrip.zext (d : WReg) (a : WReg) (n : BitVec 7) : RoundTrip.Statement (.zext d a n) := by
  intro _ hw
  refine decode_encode_of ?_ hw
  change decodeMajor (packG 0x0A 0x01 d a 0 0 0 (BitVec.setWidth 48 n)) = _
  rw [decodeMajor_0A (by simp)]
  simp [decode0A]
theorem RoundTrip.sel (d : WReg) (a : WReg) (b : WReg) (c : WReg) : RoundTrip.Statement (.sel d a b c) := by
  intro _ hw
  refine decode_encode_of ?_ hw
  change decodeMajor (packG 0x0A 0x02 d a b c 0 0) = _
  rw [decodeMajor_0A (by simp)]
  simp [decode0A]
theorem RoundTrip.seq (d : WReg) (a : WReg) (b : WReg) : RoundTrip.Statement (.seq d a b) := by
  intro _ hw
  refine decode_encode_of ?_ hw
  change decodeMajor (packG 0x0A 0x03 d a b 0 0 0) = _
  rw [decodeMajor_0A (by simp)]
  simp [decode0A]
theorem RoundTrip.slt (d : WReg) (a : WReg) (b : WReg) : RoundTrip.Statement (.slt d a b) := by
  intro _ hw
  refine decode_encode_of ?_ hw
  change decodeMajor (packG 0x0A 0x04 d a b 0 0 0) = _
  rw [decodeMajor_0A (by simp)]
  simp [decode0A]
theorem RoundTrip.sltn (d : WReg) (a : WReg) (b : WReg) : RoundTrip.Statement (.sltn d a b) := by
  intro _ hw
  refine decode_encode_of ?_ hw
  change decodeMajor (packG 0x0A 0x05 d a b 0 0 0) = _
  rw [decodeMajor_0A (by simp)]
  simp [decode0A]
theorem RoundTrip.addx (d : WReg) (a : WReg) (b : WReg) (sh : BitVec 3) : RoundTrip.Statement (.addx d a b sh) := by
  intro _ hw
  refine decode_encode_of ?_ hw
  change decodeMajor (packG 0x0B 0x00 d a b 0 0 (BitVec.setWidth 48 sh)) = _
  rw [decodeMajor_0B (by simp)]
  simp [decode0B]
theorem RoundTrip.fadd (t : FTy) (d : WReg) (a : WReg) (b : WReg) (rm : Rm) : RoundTrip.Statement (.fadd t d a b rm) := by
  intro _ hw
  refine decode_encode_of ?_ hw
  change decodeMajor (packG 0x20 (0x0#4 ++ t.ty.code) d a b 0 rm.code 0) = _
  rw [decodeMajor_20 (by simp)]
  simp [decode20, fOp_func, fTy_func]
theorem RoundTrip.fsub (t : FTy) (d : WReg) (a : WReg) (b : WReg) (rm : Rm) : RoundTrip.Statement (.fsub t d a b rm) := by
  intro _ hw
  refine decode_encode_of ?_ hw
  change decodeMajor (packG 0x20 (0x1#4 ++ t.ty.code) d a b 0 rm.code 0) = _
  rw [decodeMajor_20 (by simp)]
  simp [decode20, fOp_func, fTy_func]
theorem RoundTrip.fmul (t : FTy) (d : WReg) (a : WReg) (b : WReg) (rm : Rm) : RoundTrip.Statement (.fmul t d a b rm) := by
  intro _ hw
  refine decode_encode_of ?_ hw
  change decodeMajor (packG 0x20 (0x2#4 ++ t.ty.code) d a b 0 rm.code 0) = _
  rw [decodeMajor_20 (by simp)]
  simp [decode20, fOp_func, fTy_func]
theorem RoundTrip.fdiv (t : FTy) (d : WReg) (a : WReg) (b : WReg) (rm : Rm) : RoundTrip.Statement (.fdiv t d a b rm) := by
  intro _ hw
  refine decode_encode_of ?_ hw
  change decodeMajor (packG 0x20 (0x3#4 ++ t.ty.code) d a b 0 rm.code 0) = _
  rw [decodeMajor_20 (by simp)]
  simp [decode20, fOp_func, fTy_func]
theorem RoundTrip.fsqrt (t : FTy) (d : WReg) (a : WReg) (rm : Rm) : RoundTrip.Statement (.fsqrt t d a rm) := by
  intro _ hw
  refine decode_encode_of ?_ hw
  change decodeMajor (packG 0x20 (0x4#4 ++ t.ty.code) d a 0 0 rm.code 0) = _
  rw [decodeMajor_20 (by simp)]
  simp [decode20, fOp_func, fTy_func]
theorem RoundTrip.fmin (t : FTy) (d : WReg) (a : WReg) (b : WReg) : RoundTrip.Statement (.fmin t d a b) := by
  intro _ hw
  refine decode_encode_of ?_ hw
  change decodeMajor (packG 0x20 (0x5#4 ++ t.ty.code) d a b 0 0 0) = _
  rw [decodeMajor_20 (by simp)]
  simp [decode20, fOp_func, fTy_func]
theorem RoundTrip.fmax (t : FTy) (d : WReg) (a : WReg) (b : WReg) : RoundTrip.Statement (.fmax t d a b) := by
  intro _ hw
  refine decode_encode_of ?_ hw
  change decodeMajor (packG 0x20 (0x6#4 ++ t.ty.code) d a b 0 0 0) = _
  rw [decodeMajor_20 (by simp)]
  simp [decode20, fOp_func, fTy_func]
theorem RoundTrip.fabs (t : FTy) (d : WReg) (a : WReg) : RoundTrip.Statement (.fabs t d a) := by
  intro _ hw
  refine decode_encode_of ?_ hw
  change decodeMajor (packG 0x20 (0x7#4 ++ t.ty.code) d a 0 0 0 0) = _
  rw [decodeMajor_20 (by simp)]
  simp [decode20, fOp_func, fTy_func]
theorem RoundTrip.fneg (t : FTy) (d : WReg) (a : WReg) : RoundTrip.Statement (.fneg t d a) := by
  intro _ hw
  refine decode_encode_of ?_ hw
  change decodeMajor (packG 0x20 (0x8#4 ++ t.ty.code) d a 0 0 0 0) = _
  rw [decodeMajor_20 (by simp)]
  simp [decode20, fOp_func, fTy_func]
theorem RoundTrip.fma (t : FTy) (d : WReg) (a : WReg) (b : WReg) (c : WReg) (rm : Rm) : RoundTrip.Statement (.fma t d a b c rm) := by
  intro _ hw
  refine decode_encode_of ?_ hw
  change decodeMajor (packG 0x21 (0x0#4 ++ t.ty.code) d a b c rm.code 0) = _
  rw [decodeMajor_21 (by simp)]
  simp [decode21, fOp_func, fTy_func]
theorem RoundTrip.fms (t : FTy) (d : WReg) (a : WReg) (b : WReg) (c : WReg) (rm : Rm) : RoundTrip.Statement (.fms t d a b c rm) := by
  intro _ hw
  refine decode_encode_of ?_ hw
  change decodeMajor (packG 0x21 (0x1#4 ++ t.ty.code) d a b c rm.code 0) = _
  rw [decodeMajor_21 (by simp)]
  simp [decode21, fOp_func, fTy_func]
theorem RoundTrip.fnma (t : FTy) (d : WReg) (a : WReg) (b : WReg) (c : WReg) (rm : Rm) : RoundTrip.Statement (.fnma t d a b c rm) := by
  intro _ hw
  refine decode_encode_of ?_ hw
  change decodeMajor (packG 0x21 (0x2#4 ++ t.ty.code) d a b c rm.code 0) = _
  rw [decodeMajor_21 (by simp)]
  simp [decode21, fOp_func, fTy_func]
theorem RoundTrip.fnms (t : FTy) (d : WReg) (a : WReg) (b : WReg) (c : WReg) (rm : Rm) : RoundTrip.Statement (.fnms t d a b c rm) := by
  intro _ hw
  refine decode_encode_of ?_ hw
  change decodeMajor (packG 0x21 (0x3#4 ++ t.ty.code) d a b c rm.code 0) = _
  rw [decodeMajor_21 (by simp)]
  simp [decode21, fOp_func, fTy_func]
theorem RoundTrip.cvt (dst : Ty) (src : Ty) (d : WReg) (a : WReg) (rm : Rm) : RoundTrip.Statement (.cvt dst src d a rm) := by
  intro _ hw
  refine decode_encode_of ?_ hw
  change decodeMajor (packG 0x22 (dst.code ++ src.code) d a 0 0 rm.code 0) = _
  rw [decodeMajor_22 (by simp)]
  simp [decode22, fOp_func, fTy_func]
theorem RoundTrip.cvts (dst : Ty) (src : Ty) (d : WReg) (a : WReg) (rm : Rm) : RoundTrip.Statement (.cvts dst src d a rm) := by
  intro _ hw
  refine decode_encode_of ?_ hw
  change decodeMajor (packG 0x23 (dst.code ++ src.code) d a 0 0 rm.code 0) = _
  rw [decodeMajor_23 (by simp)]
  simp [decode23, fOp_func, fTy_func]
theorem RoundTrip.fint (t : FTy) (d : WReg) (a : WReg) (rm : Rm) : RoundTrip.Statement (.fint t d a rm) := by
  intro _ hw
  refine decode_encode_of ?_ hw
  change decodeMajor (packG 0x24 (0x0#4 ++ t.ty.code) d a 0 0 rm.code 0) = _
  rw [decodeMajor_24 (by simp)]
  simp [decode24, fOp_func, fTy_func]
theorem RoundTrip.fclass (t : FTy) (d : WReg) (a : WReg) : RoundTrip.Statement (.fclass t d a) := by
  intro _ hw
  refine decode_encode_of ?_ hw
  change decodeMajor (packG 0x24 (0x1#4 ++ t.ty.code) d a 0 0 0 0) = _
  rw [decodeMajor_24 (by simp)]
  simp [decode24, fOp_func, fTy_func]
theorem RoundTrip.fseq (t : FTy) (d : WReg) (a : WReg) (b : WReg) : RoundTrip.Statement (.fseq t d a b) := by
  intro _ hw
  refine decode_encode_of ?_ hw
  change decodeMajor (packG 0x25 (0x0#4 ++ t.ty.code) d a b 0 0 0) = _
  rw [decodeMajor_25 (by simp)]
  simp [decode25, fOp_func, fTy_func]
theorem RoundTrip.fslt (t : FTy) (d : WReg) (a : WReg) (b : WReg) : RoundTrip.Statement (.fslt t d a b) := by
  intro _ hw
  refine decode_encode_of ?_ hw
  change decodeMajor (packG 0x25 (0x1#4 ++ t.ty.code) d a b 0 0 0) = _
  rw [decodeMajor_25 (by simp)]
  simp [decode25, fOp_func, fTy_func]
theorem RoundTrip.fsle (t : FTy) (d : WReg) (a : WReg) (b : WReg) : RoundTrip.Statement (.fsle t d a b) := by
  intro _ hw
  refine decode_encode_of ?_ hw
  change decodeMajor (packG 0x25 (0x2#4 ++ t.ty.code) d a b 0 0 0) = _
  rw [decodeMajor_25 (by simp)]
  simp [decode25, fOp_func, fTy_func]
theorem RoundTrip.fsun (t : FTy) (d : WReg) (a : WReg) (b : WReg) : RoundTrip.Statement (.fsun t d a b) := by
  intro _ hw
  refine decode_encode_of ?_ hw
  change decodeMajor (packG 0x25 (0x3#4 ++ t.ty.code) d a b 0 0 0) = _
  rw [decodeMajor_25 (by simp)]
  simp [decode25, fOp_func, fTy_func]
theorem RoundTrip.skeq (t : Ty) (a : WReg) (q : SkipOp) (n : BitVec 2) : RoundTrip.Statement (.skeq t a q n) := by
  intro _ hw
  refine decode_encode_of ?_ hw
  change decodeMajor (packS (0x00#4 ++ t.code) a q n) = _
  rw [decodeMajor_30 (by simp)]
  simp [decode30, fOp_func, fTy_func]
theorem RoundTrip.skne (t : Ty) (a : WReg) (q : SkipOp) (n : BitVec 2) : RoundTrip.Statement (.skne t a q n) := by
  intro _ hw
  refine decode_encode_of ?_ hw
  change decodeMajor (packS (0x01#4 ++ t.code) a q n) = _
  rw [decodeMajor_30 (by simp)]
  simp [decode30, fOp_func, fTy_func]
theorem RoundTrip.sklt (t : Ty) (a : WReg) (q : SkipOp) (n : BitVec 2) : RoundTrip.Statement (.sklt t a q n) := by
  intro _ hw
  refine decode_encode_of ?_ hw
  change decodeMajor (packS (0x02#4 ++ t.code) a q n) = _
  rw [decodeMajor_30 (by simp)]
  simp [decode30, fOp_func, fTy_func]
theorem RoundTrip.skge (t : Ty) (a : WReg) (q : SkipOp) (n : BitVec 2) : RoundTrip.Statement (.skge t a q n) := by
  intro _ hw
  refine decode_encode_of ?_ hw
  change decodeMajor (packS (0x03#4 ++ t.code) a q n) = _
  rw [decodeMajor_30 (by simp)]
  simp [decode30, fOp_func, fTy_func]
theorem RoundTrip.skgt (t : Ty) (a : WReg) (q : SkipOp) (n : BitVec 2) : RoundTrip.Statement (.skgt t a q n) := by
  intro _ hw
  refine decode_encode_of ?_ hw
  change decodeMajor (packS (0x04#4 ++ t.code) a q n) = _
  rw [decodeMajor_30 (by simp)]
  simp [decode30, fOp_func, fTy_func]
theorem RoundTrip.skle (t : Ty) (a : WReg) (q : SkipOp) (n : BitVec 2) : RoundTrip.Statement (.skle t a q n) := by
  intro _ hw
  refine decode_encode_of ?_ hw
  change decodeMajor (packS (0x05#4 ++ t.code) a q n) = _
  rw [decodeMajor_30 (by simp)]
  simp [decode30, fOp_func, fTy_func]
theorem RoundTrip.skun (t : Ty) (a : WReg) (q : SkipOp) (n : BitVec 2) : RoundTrip.Statement (.skun t a q n) := by
  intro _ hw
  refine decode_encode_of ?_ hw
  change decodeMajor (packS (0x06#4 ++ t.code) a q n) = _
  rw [decodeMajor_30 (by simp)]
  simp [decode30, fOp_func, fTy_func]
theorem RoundTrip.skor (t : Ty) (a : WReg) (q : SkipOp) (n : BitVec 2) : RoundTrip.Statement (.skor t a q n) := by
  intro _ hw
  refine decode_encode_of ?_ hw
  change decodeMajor (packS (0x07#4 ++ t.code) a q n) = _
  rw [decodeMajor_30 (by simp)]
  simp [decode30, fOp_func, fTy_func]
theorem RoundTrip.br (tgt : Target) : RoundTrip.Statement (.br tgt) := by
  intro _ hw
  refine decode_encode_of ?_ hw
  change decodeMajor (packB 0x38 0x00 0 0 0 0 tgt) = _
  rw [decodeMajor_38 (by simp)]
  simp [decode38]
theorem RoundTrip.call (d : WReg) (tgt : Target) : RoundTrip.Statement (.call d tgt) := by
  intro _ hw
  refine decode_encode_of ?_ hw
  change decodeMajor (packB 0x38 0x01 d 0 0 0 tgt) = _
  rw [decodeMajor_38 (by simp)]
  simp [decode38]
theorem RoundTrip.jr (a : WReg) : RoundTrip.Statement (.jr a) := by
  intro _ hw
  refine decode_encode_of ?_ hw
  change decodeMajor (packB 0x38 0x02 0 a 0 0 { disp := 0, slot := 0 }) = _
  rw [decodeMajor_38 (by simp)]
  simp [decode38]
theorem RoundTrip.callr (d : WReg) (a : WReg) : RoundTrip.Statement (.callr d a) := by
  intro _ hw
  refine decode_encode_of ?_ hw
  change decodeMajor (packB 0x38 0x03 d a 0 0 { disp := 0, slot := 0 }) = _
  rw [decodeMajor_38 (by simp)]
  simp [decode38]
theorem RoundTrip.ret (a : WReg) : RoundTrip.Statement (.ret a) := by
  intro _ hw
  refine decode_encode_of ?_ hw
  change decodeMajor (packB 0x38 0x04 0 a 0 0 { disp := 0, slot := 0 }) = _
  rw [decodeMajor_38 (by simp)]
  simp [decode38]
theorem RoundTrip.beqz (a : WReg) (tgt : Target) : RoundTrip.Statement (.beqz a tgt) := by
  intro _ hw
  refine decode_encode_of ?_ hw
  change decodeMajor (packB 0x39 0x00 0 a 0 0 tgt) = _
  rw [decodeMajor_39 (by simp)]
  simp [decode39]
theorem RoundTrip.bnez (a : WReg) (tgt : Target) : RoundTrip.Statement (.bnez a tgt) := by
  intro _ hw
  refine decode_encode_of ?_ hw
  change decodeMajor (packB 0x39 0x01 0 a 0 0 tgt) = _
  rw [decodeMajor_39 (by simp)]
  simp [decode39]
theorem RoundTrip.bltz (a : WReg) (tgt : Target) : RoundTrip.Statement (.bltz a tgt) := by
  intro _ hw
  refine decode_encode_of ?_ hw
  change decodeMajor (packB 0x39 0x02 0 a 0 0 tgt) = _
  rw [decodeMajor_39 (by simp)]
  simp [decode39]
theorem RoundTrip.bgez (a : WReg) (tgt : Target) : RoundTrip.Statement (.bgez a tgt) := by
  intro _ hw
  refine decode_encode_of ?_ hw
  change decodeMajor (packB 0x39 0x03 0 a 0 0 tgt) = _
  rw [decodeMajor_39 (by simp)]
  simp [decode39]
theorem RoundTrip.loop (a : WReg) (tgt : Target) : RoundTrip.Statement (.loop a tgt) := by
  intro _ hw
  refine decode_encode_of ?_ hw
  change decodeMajor (packB 0x3A 0x00 0 a 0 0 tgt) = _
  rw [decodeMajor_3A (by simp)]
  simp [decode3A]
theorem RoundTrip.incblt (a : WReg) (b : WReg) (tgt : Target) : RoundTrip.Statement (.incblt a b tgt) := by
  intro _ hw
  refine decode_encode_of ?_ hw
  change decodeMajor (packB 0x3A 0x01 0 a b 0 tgt) = _
  rw [decodeMajor_3A (by simp)]
  simp [decode3A]
theorem RoundTrip.callk (d : WReg) (kc : KReg) (tgt : Target) : RoundTrip.Statement (.callk d kc tgt) := by
  intro _ hw
  refine decode_encode_of ?_ hw
  change decodeMajor (packB 0x3B 0x00 d 0 0 kc tgt) = _
  rw [decodeMajor_3B (by simp)]
  simp [decode3B]
theorem RoundTrip.retk (a : WReg) (kb : KReg) : RoundTrip.Statement (.retk a kb) := by
  intro _ hw
  refine decode_encode_of ?_ hw
  change decodeMajor (packB 0x3B 0x01 0 a (BitVec.setWidth 7 kb) 0 { disp := 0, slot := 0 }) = _
  rw [decodeMajor_3B (by simp)]
  simp [decode3B]
theorem RoundTrip.jk (kc : KReg) (tgt : Target) : RoundTrip.Statement (.jk kc tgt) := by
  intro _ hw
  refine decode_encode_of ?_ hw
  change decodeMajor (packB 0x3B 0x02 0 0 0 kc tgt) = _
  rw [decodeMajor_3B (by simp)]
  simp [decode3B]
theorem RoundTrip.halt : RoundTrip.Statement (.halt) := by
  intro _ hw
  refine decode_encode_of ?_ hw
  change decodeMajor (packG 0x3C 0x00 0 0 0 0 0 0) = _
  rw [decodeMajor_3C (by simp)]
  simp [decode3C]
theorem RoundTrip.sleep (n : BitVec 32) : RoundTrip.Statement (.sleep n) := by
  intro _ hw
  refine decode_encode_of ?_ hw
  change decodeMajor (packG 0x3C 0x01 0 0 0 0 0 (BitVec.setWidth 48 n)) = _
  rw [decodeMajor_3C (by simp)]
  simp [decode3C]
theorem RoundTrip.yield : RoundTrip.Statement (.yield) := by
  intro _ hw
  refine decode_encode_of ?_ hw
  change decodeMajor (packG 0x3C 0x02 0 0 0 0 0 0) = _
  rw [decodeMajor_3C (by simp)]
  simp [decode3C]
theorem RoundTrip.ldb (d : WReg) (m : MemOp) : RoundTrip.Statement (.ldb d m) := by
  intro _ hw
  refine decode_encode_of ?_ hw
  change decodeMajor (packM 0x40 0x00 d m 0 false false) = _
  rw [decodeMajor_40 (by simp)]
  simp [decode40]
theorem RoundTrip.ldh (d : WReg) (m : MemOp) : RoundTrip.Statement (.ldh d m) := by
  intro _ hw
  refine decode_encode_of ?_ hw
  change decodeMajor (packM 0x40 0x01 d m 0 false false) = _
  rw [decodeMajor_40 (by simp)]
  simp [decode40]
theorem RoundTrip.ldw (d : WReg) (m : MemOp) : RoundTrip.Statement (.ldw d m) := by
  intro _ hw
  refine decode_encode_of ?_ hw
  change decodeMajor (packM 0x40 0x02 d m 0 false false) = _
  rw [decodeMajor_40 (by simp)]
  simp [decode40]
theorem RoundTrip.ldd (d : WReg) (m : MemOp) : RoundTrip.Statement (.ldd d m) := by
  intro _ hw
  refine decode_encode_of ?_ hw
  change decodeMajor (packM 0x40 0x03 d m 0 false false) = _
  rw [decodeMajor_40 (by simp)]
  simp [decode40]
theorem RoundTrip.ldbs (d : WReg) (m : MemOp) : RoundTrip.Statement (.ldbs d m) := by
  intro _ hw
  refine decode_encode_of ?_ hw
  change decodeMajor (packM 0x40 0x04 d m 0 false false) = _
  rw [decodeMajor_40 (by simp)]
  simp [decode40]
theorem RoundTrip.ldhs (d : WReg) (m : MemOp) : RoundTrip.Statement (.ldhs d m) := by
  intro _ hw
  refine decode_encode_of ?_ hw
  change decodeMajor (packM 0x40 0x05 d m 0 false false) = _
  rw [decodeMajor_40 (by simp)]
  simp [decode40]
theorem RoundTrip.ldws (d : WReg) (m : MemOp) : RoundTrip.Statement (.ldws d m) := by
  intro _ hw
  refine decode_encode_of ?_ hw
  change decodeMajor (packM 0x40 0x06 d m 0 false false) = _
  rw [decodeMajor_40 (by simp)]
  simp [decode40]
theorem RoundTrip.stb (d : WReg) (m : MemOp) : RoundTrip.Statement (.stb d m) := by
  intro _ hw
  refine decode_encode_of ?_ hw
  change decodeMajor (packM 0x41 0x00 d m 0 false false) = _
  rw [decodeMajor_41 (by simp)]
  simp [decode41]
theorem RoundTrip.sth (d : WReg) (m : MemOp) : RoundTrip.Statement (.sth d m) := by
  intro _ hw
  refine decode_encode_of ?_ hw
  change decodeMajor (packM 0x41 0x01 d m 0 false false) = _
  rw [decodeMajor_41 (by simp)]
  simp [decode41]
theorem RoundTrip.stw (d : WReg) (m : MemOp) : RoundTrip.Statement (.stw d m) := by
  intro _ hw
  refine decode_encode_of ?_ hw
  change decodeMajor (packM 0x41 0x02 d m 0 false false) = _
  rw [decodeMajor_41 (by simp)]
  simp [decode41]
theorem RoundTrip.std (d : WReg) (m : MemOp) : RoundTrip.Statement (.std d m) := by
  intro _ hw
  refine decode_encode_of ?_ hw
  change decodeMajor (packM 0x41 0x03 d m 0 false false) = _
  rw [decodeMajor_41 (by simp)]
  simp [decode41]
theorem RoundTrip.ldv (vd : VReg) (m : MemOp) : RoundTrip.Statement (.ldv vd m) := by
  intro _ hw
  refine decode_encode_of ?_ hw
  change decodeMajor (packM 0x42 0x00 (BitVec.setWidth 7 vd) m 0 false false) = _
  rw [decodeMajor_42 (by simp)]
  simp [decode42]
theorem RoundTrip.stv (vd : VReg) (m : MemOp) : RoundTrip.Statement (.stv vd m) := by
  intro _ hw
  refine decode_encode_of ?_ hw
  change decodeMajor (packM 0x42 0x01 (BitVec.setWidth 7 vd) m 0 false false) = _
  rw [decodeMajor_42 (by simp)]
  simp [decode42]
theorem RoundTrip.stdf (d : WReg) (m : MemOp) (f : WReg) : RoundTrip.Statement (.stdf d m f) := by
  intro _ hw
  refine decode_encode_of ?_ hw
  change decodeMajor (packM 0x43 0x00 d m f false false) = _
  rw [decodeMajor_43 (by simp)]
  simp [decode43]
theorem RoundTrip.stvf (vd : VReg) (m : MemOp) (f : WReg) : RoundTrip.Statement (.stvf vd m f) := by
  intro _ hw
  refine decode_encode_of ?_ hw
  change decodeMajor (packM 0x43 0x01 (BitVec.setWidth 7 vd) m f false false) = _
  rw [decodeMajor_43 (by simp)]
  simp [decode43]
theorem RoundTrip.wrep (vd : VReg) (m : MemOp) (s : WReg) : RoundTrip.Statement (.wrep vd m s) := by
  intro _ hw
  refine decode_encode_of ?_ hw
  change decodeMajor (packM 0x43 0x02 (BitVec.setWidth 7 vd) m s false false) = _
  rw [decodeMajor_43 (by simp)]
  simp [decode43]
theorem RoundTrip.ldtag (d : WReg) (m : MemOp) : RoundTrip.Statement (.ldtag d m) := by
  intro _ hw
  refine decode_encode_of ?_ hw
  change decodeMajor (packM 0x44 0x00 d m 0 false false) = _
  rw [decodeMajor_44 (by simp)]
  simp [decode44]
theorem RoundTrip.sttag (d : WReg) (m : MemOp) : RoundTrip.Statement (.sttag d m) := by
  intro _ hw
  refine decode_encode_of ?_ hw
  change decodeMajor (packM 0x44 0x01 d m 0 false false) = _
  rw [decodeMajor_44 (by simp)]
  simp [decode44]
theorem RoundTrip.lock (m : MemOp) (l : WReg) : RoundTrip.Statement (.lock m l) := by
  intro _ hw
  refine decode_encode_of ?_ hw
  change decodeMajor (packM 0x45 0x00 0 m l false false) = _
  rw [decodeMajor_45 (by simp)]
  simp [decode45]
theorem RoundTrip.unlock : RoundTrip.Statement (.unlock) := by
  intro _ hw
  refine decode_encode_of ?_ hw
  change decodeMajor (packM 0x45 0x01 0 { k := 0, x := 0, xen := false, sh := 0, disp := 0 } 0 false false) = _
  rw [decodeMajor_45 (by simp)]
  simp [decode45]
theorem RoundTrip.cmov (d : KReg) (a : KReg) : RoundTrip.Statement (.cmov d a) := by
  intro _ hw
  refine decode_encode_of ?_ hw
  change decodeMajor (packG 0x58 0x00 (BitVec.setWidth 7 d) (BitVec.setWidth 7 a) 0 0 0 0) = _
  rw [decodeMajor_58 (by simp)]
  simp [decode58]
theorem RoundTrip.cswap (d : KReg) (a : KReg) : RoundTrip.Statement (.cswap d a) := by
  intro _ hw
  refine decode_encode_of ?_ hw
  change decodeMajor (packG 0x58 0x01 (BitVec.setWidth 7 d) (BitVec.setWidth 7 a) 0 0 0 0) = _
  rw [decodeMajor_58 (by simp)]
  simp [decode58]
theorem RoundTrip.cdrop (a : KReg) : RoundTrip.Statement (.cdrop a) := by
  intro _ hw
  refine decode_encode_of ?_ hw
  change decodeMajor (packG 0x58 0x02 0 (BitVec.setWidth 7 a) 0 0 0 0) = _
  rw [decodeMajor_58 (by simp)]
  simp [decode58]
theorem RoundTrip.csplit (d : KReg) (a : KReg) (b : WReg) (mode : Bool) : RoundTrip.Statement (.csplit d a b mode) := by
  intro _ hw
  refine decode_encode_of ?_ hw
  change decodeMajor (packG 0x59 0x00 (BitVec.setWidth 7 d) (BitVec.setWidth 7 a) b 0 0 (BitVec.setWidth 48 (BitVec.ofBool mode))) = _
  rw [decodeMajor_59 (by simp)]
  simp [decode59]
theorem RoundTrip.cjoin (d : KReg) (a : KReg) : RoundTrip.Statement (.cjoin d a) := by
  intro _ hw
  refine decode_encode_of ?_ hw
  change decodeMajor (packG 0x59 0x01 (BitVec.setWidth 7 d) (BitVec.setWidth 7 a) 0 0 0 0) = _
  rw [decodeMajor_59 (by simp)]
  simp [decode59]
theorem RoundTrip.cnarrow (d : KReg) (a : KReg) (b : WReg) : RoundTrip.Statement (.cnarrow d a b) := by
  intro _ hw
  refine decode_encode_of ?_ hw
  change decodeMajor (packG 0x5A 0x00 (BitVec.setWidth 7 d) (BitVec.setWidth 7 a) b 0 0 0) = _
  rw [decodeMajor_5A (by simp)]
  simp [decode5A]
theorem RoundTrip.crights (a : KReg) (mask : BitVec 8) (conv : Bool) : RoundTrip.Statement (.crights a mask conv) := by
  intro _ hw
  refine decode_encode_of ?_ hw
  change decodeMajor (packG 0x5A 0x01 0 (BitVec.setWidth 7 a) 0 0 0 (BitVec.setWidth 48 (BitVec.ofBool conv ++ mask))) = _
  rw [decodeMajor_5A (by simp)]
  simp [decode5A]
  exact ⟨low_part _ _, top_bit _ _ _⟩
theorem RoundTrip.cstash (kd : KReg) (m : MemOp) : RoundTrip.Statement (.cstash kd m) := by
  intro _ hw
  refine decode_encode_of ?_ hw
  change decodeMajor (packM 0x5B 0x00 (BitVec.setWidth 7 kd) m 0 false false) = _
  rw [decodeMajor_5B (by simp)]
  simp [decode5B]
theorem RoundTrip.cfetch (kd : KReg) (m : MemOp) : RoundTrip.Statement (.cfetch kd m) := by
  intro _ hw
  refine decode_encode_of ?_ hw
  change decodeMajor (packM 0x5B 0x01 (BitVec.setWidth 7 kd) m 0 false false) = _
  rw [decodeMajor_5B (by simp)]
  simp [decode5B]
theorem RoundTrip.cinsp (d : WReg) (a : KReg) (field : BitVec 3) : RoundTrip.Statement (.cinsp d a field) := by
  intro _ hw
  refine decode_encode_of ?_ hw
  change decodeMajor (packG 0x5C 0x00 d (BitVec.setWidth 7 a) 0 0 0 (BitVec.setWidth 48 field)) = _
  rw [decodeMajor_5C (by simp)]
  simp [decode5C]
theorem RoundTrip.aswap (t : ATy) (d : WReg) (m : MemOp) (s : WReg) (acq : Bool) (rel : Bool) : RoundTrip.Statement (.aswap t d m s acq rel) := by
  intro _ hw
  refine decode_encode_of ?_ hw
  change decodeMajor (packM 0x60 (0x0#4 ++ t.ty.code) d m s acq rel) = _
  rw [decodeMajor_60 (by simp)]
  simp [decode60, fOp_func, fTy_func]
theorem RoundTrip.aadd (t : ATy) (d : WReg) (m : MemOp) (s : WReg) (acq : Bool) (rel : Bool) : RoundTrip.Statement (.aadd t d m s acq rel) := by
  intro _ hw
  refine decode_encode_of ?_ hw
  change decodeMajor (packM 0x60 (0x1#4 ++ t.ty.code) d m s acq rel) = _
  rw [decodeMajor_60 (by simp)]
  simp [decode60, fOp_func, fTy_func]
theorem RoundTrip.aand (t : ATy) (d : WReg) (m : MemOp) (s : WReg) (acq : Bool) (rel : Bool) : RoundTrip.Statement (.aand t d m s acq rel) := by
  intro _ hw
  refine decode_encode_of ?_ hw
  change decodeMajor (packM 0x60 (0x2#4 ++ t.ty.code) d m s acq rel) = _
  rw [decodeMajor_60 (by simp)]
  simp [decode60, fOp_func, fTy_func]
theorem RoundTrip.aor (t : ATy) (d : WReg) (m : MemOp) (s : WReg) (acq : Bool) (rel : Bool) : RoundTrip.Statement (.aor t d m s acq rel) := by
  intro _ hw
  refine decode_encode_of ?_ hw
  change decodeMajor (packM 0x60 (0x3#4 ++ t.ty.code) d m s acq rel) = _
  rw [decodeMajor_60 (by simp)]
  simp [decode60, fOp_func, fTy_func]
theorem RoundTrip.axor (t : ATy) (d : WReg) (m : MemOp) (s : WReg) (acq : Bool) (rel : Bool) : RoundTrip.Statement (.axor t d m s acq rel) := by
  intro _ hw
  refine decode_encode_of ?_ hw
  change decodeMajor (packM 0x60 (0x4#4 ++ t.ty.code) d m s acq rel) = _
  rw [decodeMajor_60 (by simp)]
  simp [decode60, fOp_func, fTy_func]
theorem RoundTrip.amax (t : ATy) (d : WReg) (m : MemOp) (s : WReg) (acq : Bool) (rel : Bool) : RoundTrip.Statement (.amax t d m s acq rel) := by
  intro _ hw
  refine decode_encode_of ?_ hw
  change decodeMajor (packM 0x60 (0x5#4 ++ t.ty.code) d m s acq rel) = _
  rw [decodeMajor_60 (by simp)]
  simp [decode60, fOp_func, fTy_func]
theorem RoundTrip.amin (t : ATy) (d : WReg) (m : MemOp) (s : WReg) (acq : Bool) (rel : Bool) : RoundTrip.Statement (.amin t d m s acq rel) := by
  intro _ hw
  refine decode_encode_of ?_ hw
  change decodeMajor (packM 0x60 (0x6#4 ++ t.ty.code) d m s acq rel) = _
  rw [decodeMajor_60 (by simp)]
  simp [decode60, fOp_func, fTy_func]
theorem RoundTrip.acas (t : ATy) (d : WReg) (m : MemOp) (s : WReg) (acq : Bool) (rel : Bool) : RoundTrip.Statement (.acas t d m s acq rel) := by
  intro _ hw
  refine decode_encode_of ?_ hw
  change decodeMajor (packM 0x60 (0x7#4 ++ t.ty.code) d m s acq rel) = _
  rw [decodeMajor_60 (by simp)]
  simp [decode60, fOp_func, fTy_func]
theorem RoundTrip.redadd (t : ATy) (m : MemOp) (s : WReg) (acq : Bool) (rel : Bool) : RoundTrip.Statement (.redadd t m s acq rel) := by
  intro _ hw
  refine decode_encode_of ?_ hw
  change decodeMajor (packM 0x61 (0x1#4 ++ t.ty.code) 0 m s acq rel) = _
  rw [decodeMajor_61 (by simp)]
  simp [decode61, fOp_func, fTy_func]
theorem RoundTrip.redand (t : ATy) (m : MemOp) (s : WReg) (acq : Bool) (rel : Bool) : RoundTrip.Statement (.redand t m s acq rel) := by
  intro _ hw
  refine decode_encode_of ?_ hw
  change decodeMajor (packM 0x61 (0x2#4 ++ t.ty.code) 0 m s acq rel) = _
  rw [decodeMajor_61 (by simp)]
  simp [decode61, fOp_func, fTy_func]
theorem RoundTrip.redor (t : ATy) (m : MemOp) (s : WReg) (acq : Bool) (rel : Bool) : RoundTrip.Statement (.redor t m s acq rel) := by
  intro _ hw
  refine decode_encode_of ?_ hw
  change decodeMajor (packM 0x61 (0x3#4 ++ t.ty.code) 0 m s acq rel) = _
  rw [decodeMajor_61 (by simp)]
  simp [decode61, fOp_func, fTy_func]
theorem RoundTrip.redxor (t : ATy) (m : MemOp) (s : WReg) (acq : Bool) (rel : Bool) : RoundTrip.Statement (.redxor t m s acq rel) := by
  intro _ hw
  refine decode_encode_of ?_ hw
  change decodeMajor (packM 0x61 (0x4#4 ++ t.ty.code) 0 m s acq rel) = _
  rw [decodeMajor_61 (by simp)]
  simp [decode61, fOp_func, fTy_func]
theorem RoundTrip.redmax (t : ATy) (m : MemOp) (s : WReg) (acq : Bool) (rel : Bool) : RoundTrip.Statement (.redmax t m s acq rel) := by
  intro _ hw
  refine decode_encode_of ?_ hw
  change decodeMajor (packM 0x61 (0x5#4 ++ t.ty.code) 0 m s acq rel) = _
  rw [decodeMajor_61 (by simp)]
  simp [decode61, fOp_func, fTy_func]
theorem RoundTrip.redmin (t : ATy) (m : MemOp) (s : WReg) (acq : Bool) (rel : Bool) : RoundTrip.Statement (.redmin t m s acq rel) := by
  intro _ hw
  refine decode_encode_of ?_ hw
  change decodeMajor (packM 0x61 (0x6#4 ++ t.ty.code) 0 m s acq rel) = _
  rw [decodeMajor_61 (by simp)]
  simp [decode61, fOp_func, fTy_func]
theorem RoundTrip.veropenRead (kd : KReg) (k : KReg) : RoundTrip.Statement (.veropenRead kd k) := by
  intro _ hw
  refine decode_encode_of ?_ hw
  change decodeMajor (packM 0x62 0x00 (BitVec.setWidth 7 kd) { k := k, x := 0, xen := false, sh := 0, disp := 0x00#48 } 0 false false) = _
  rw [decodeMajor_62 (by simp)]
  simp [decode62]
theorem RoundTrip.veropenPrivate (kd : KReg) (k : KReg) : RoundTrip.Statement (.veropenPrivate kd k) := by
  intro _ hw
  refine decode_encode_of ?_ hw
  change decodeMajor (packM 0x62 0x00 (BitVec.setWidth 7 kd) { k := k, x := 0, xen := false, sh := 0, disp := 0x01#48 } 0 false false) = _
  rw [decodeMajor_62 (by simp)]
  simp [decode62]
theorem RoundTrip.verclose (k : KReg) : RoundTrip.Statement (.verclose k) := by
  intro _ hw
  refine decode_encode_of ?_ hw
  change decodeMajor (packM 0x62 0x02 0 { k := k, x := 0, xen := false, sh := 0, disp := 0 } 0 false false) = _
  rw [decodeMajor_62 (by simp)]
  simp [decode62]
theorem RoundTrip.verpub (d : WReg) (k : KReg) : RoundTrip.Statement (.verpub d k) := by
  intro _ hw
  refine decode_encode_of ?_ hw
  change decodeMajor (packM 0x62 0x01 d { k := k, x := 0, xen := false, sh := 0, disp := 0 } 0 false false) = _
  rw [decodeMajor_62 (by simp)]
  simp [decode62]
theorem RoundTrip.vadd (o : VBin) : RoundTrip.Statement (.vadd o) := by
  intro _ hw
  refine decode_encode_of ?_ hw
  change decodeMajor (packV 0x70 0x00 o.vd o.va 0 o.mask o.ty.code o.rm.code o.z o.b) = _
  rw [decodeMajor_70 (by simp)]
  simp [decode70, vBin]
theorem RoundTrip.vsub (o : VBin) : RoundTrip.Statement (.vsub o) := by
  intro _ hw
  refine decode_encode_of ?_ hw
  change decodeMajor (packV 0x70 0x01 o.vd o.va 0 o.mask o.ty.code o.rm.code o.z o.b) = _
  rw [decodeMajor_70 (by simp)]
  simp [decode70, vBin]
theorem RoundTrip.vmul (o : VBin) : RoundTrip.Statement (.vmul o) := by
  intro _ hw
  refine decode_encode_of ?_ hw
  change decodeMajor (packV 0x70 0x02 o.vd o.va 0 o.mask o.ty.code o.rm.code o.z o.b) = _
  rw [decodeMajor_70 (by simp)]
  simp [decode70, vBin]
theorem RoundTrip.vdiv (o : VBin) : RoundTrip.Statement (.vdiv o) := by
  intro _ hw
  refine decode_encode_of ?_ hw
  change decodeMajor (packV 0x70 0x03 o.vd o.va 0 o.mask o.ty.code o.rm.code o.z o.b) = _
  rw [decodeMajor_70 (by simp)]
  simp [decode70, vBin]
theorem RoundTrip.vmin (o : VBin) : RoundTrip.Statement (.vmin o) := by
  intro _ hw
  refine decode_encode_of ?_ hw
  change decodeMajor (packV 0x70 0x04 o.vd o.va 0 o.mask o.ty.code o.rm.code o.z o.b) = _
  rw [decodeMajor_70 (by simp)]
  simp [decode70, vBin]
theorem RoundTrip.vmax (o : VBin) : RoundTrip.Statement (.vmax o) := by
  intro _ hw
  refine decode_encode_of ?_ hw
  change decodeMajor (packV 0x70 0x05 o.vd o.va 0 o.mask o.ty.code o.rm.code o.z o.b) = _
  rw [decodeMajor_70 (by simp)]
  simp [decode70, vBin]
theorem RoundTrip.vabs (o : VUn) : RoundTrip.Statement (.vabs o) := by
  intro _ hw
  refine decode_encode_of ?_ hw
  change decodeMajor (packVi 0x70 0x06 o.vd o.va 0 0 o.mask o.ty.code o.rm.code o.z 0) = _
  rw [decodeMajor_70 (by simp)]
  simp [decode70, vUn]
theorem RoundTrip.vneg (o : VUn) : RoundTrip.Statement (.vneg o) := by
  intro _ hw
  refine decode_encode_of ?_ hw
  change decodeMajor (packVi 0x70 0x07 o.vd o.va 0 0 o.mask o.ty.code o.rm.code o.z 0) = _
  rw [decodeMajor_70 (by simp)]
  simp [decode70, vUn]
theorem RoundTrip.vsqrt (o : VUn) : RoundTrip.Statement (.vsqrt o) := by
  intro _ hw
  refine decode_encode_of ?_ hw
  change decodeMajor (packVi 0x70 0x08 o.vd o.va 0 0 o.mask o.ty.code o.rm.code o.z 0) = _
  rw [decodeMajor_70 (by simp)]
  simp [decode70, vUn]
theorem RoundTrip.vfma (o : VTer) : RoundTrip.Statement (.vfma o) := by
  intro _ hw
  refine decode_encode_of ?_ hw
  change decodeMajor (packV 0x71 0x00 o.vd o.va o.vc o.mask o.ty.code o.rm.code o.z o.b) = _
  rw [decodeMajor_71 (by simp)]
  simp [decode71, vTer]
theorem RoundTrip.vfms (o : VTer) : RoundTrip.Statement (.vfms o) := by
  intro _ hw
  refine decode_encode_of ?_ hw
  change decodeMajor (packV 0x71 0x01 o.vd o.va o.vc o.mask o.ty.code o.rm.code o.z o.b) = _
  rw [decodeMajor_71 (by simp)]
  simp [decode71, vTer]
theorem RoundTrip.vfnma (o : VTer) : RoundTrip.Statement (.vfnma o) := by
  intro _ hw
  refine decode_encode_of ?_ hw
  change decodeMajor (packV 0x71 0x02 o.vd o.va o.vc o.mask o.ty.code o.rm.code o.z o.b) = _
  rw [decodeMajor_71 (by simp)]
  simp [decode71, vTer]
theorem RoundTrip.vadds (o : VBin) : RoundTrip.Statement (.vadds o) := by
  intro _ hw
  refine decode_encode_of ?_ hw
  change decodeMajor (packV 0x72 0x00 o.vd o.va 0 o.mask o.ty.code o.rm.code o.z o.b) = _
  rw [decodeMajor_72 (by simp)]
  simp [decode72, vBin]
theorem RoundTrip.vsubs (o : VBin) : RoundTrip.Statement (.vsubs o) := by
  intro _ hw
  refine decode_encode_of ?_ hw
  change decodeMajor (packV 0x72 0x01 o.vd o.va 0 o.mask o.ty.code o.rm.code o.z o.b) = _
  rw [decodeMajor_72 (by simp)]
  simp [decode72, vBin]
theorem RoundTrip.vand (o : VBin) : RoundTrip.Statement (.vand o) := by
  intro _ hw
  refine decode_encode_of ?_ hw
  change decodeMajor (packV 0x73 0x00 o.vd o.va 0 o.mask o.ty.code o.rm.code o.z o.b) = _
  rw [decodeMajor_73 (by simp)]
  simp [decode73, vBin]
theorem RoundTrip.vor (o : VBin) : RoundTrip.Statement (.vor o) := by
  intro _ hw
  refine decode_encode_of ?_ hw
  change decodeMajor (packV 0x73 0x01 o.vd o.va 0 o.mask o.ty.code o.rm.code o.z o.b) = _
  rw [decodeMajor_73 (by simp)]
  simp [decode73, vBin]
theorem RoundTrip.vxor (o : VBin) : RoundTrip.Statement (.vxor o) := by
  intro _ hw
  refine decode_encode_of ?_ hw
  change decodeMajor (packV 0x73 0x02 o.vd o.va 0 o.mask o.ty.code o.rm.code o.z o.b) = _
  rw [decodeMajor_73 (by simp)]
  simp [decode73, vBin]
theorem RoundTrip.vandn (o : VBin) : RoundTrip.Statement (.vandn o) := by
  intro _ hw
  refine decode_encode_of ?_ hw
  change decodeMajor (packV 0x73 0x03 o.vd o.va 0 o.mask o.ty.code o.rm.code o.z o.b) = _
  rw [decodeMajor_73 (by simp)]
  simp [decode73, vBin]
theorem RoundTrip.vshl (o : VBin) : RoundTrip.Statement (.vshl o) := by
  intro _ hw
  refine decode_encode_of ?_ hw
  change decodeMajor (packV 0x73 0x04 o.vd o.va 0 o.mask o.ty.code o.rm.code o.z o.b) = _
  rw [decodeMajor_73 (by simp)]
  simp [decode73, vBin]
theorem RoundTrip.vshr (o : VBin) : RoundTrip.Statement (.vshr o) := by
  intro _ hw
  refine decode_encode_of ?_ hw
  change decodeMajor (packV 0x73 0x05 o.vd o.va 0 o.mask o.ty.code o.rm.code o.z o.b) = _
  rw [decodeMajor_73 (by simp)]
  simp [decode73, vBin]
theorem RoundTrip.vsar (o : VBin) : RoundTrip.Statement (.vsar o) := by
  intro _ hw
  refine decode_encode_of ?_ hw
  change decodeMajor (packV 0x73 0x06 o.vd o.va 0 o.mask o.ty.code o.rm.code o.z o.b) = _
  rw [decodeMajor_73 (by simp)]
  simp [decode73, vBin]
theorem RoundTrip.vcmpeq (o : VCmp) : RoundTrip.Statement (.vcmpeq o) := by
  intro _ hw
  refine decode_encode_of ?_ hw
  change decodeMajor (packV 0x74 0x00 (BitVec.setWidth 4 o.md) o.va 0 o.mask o.ty.code 0 o.z o.b) = _
  rw [decodeMajor_74 (by simp)]
  simp [decode74, vCmp]
theorem RoundTrip.vcmpne (o : VCmp) : RoundTrip.Statement (.vcmpne o) := by
  intro _ hw
  refine decode_encode_of ?_ hw
  change decodeMajor (packV 0x74 0x01 (BitVec.setWidth 4 o.md) o.va 0 o.mask o.ty.code 0 o.z o.b) = _
  rw [decodeMajor_74 (by simp)]
  simp [decode74, vCmp]
theorem RoundTrip.vcmplt (o : VCmp) : RoundTrip.Statement (.vcmplt o) := by
  intro _ hw
  refine decode_encode_of ?_ hw
  change decodeMajor (packV 0x74 0x02 (BitVec.setWidth 4 o.md) o.va 0 o.mask o.ty.code 0 o.z o.b) = _
  rw [decodeMajor_74 (by simp)]
  simp [decode74, vCmp]
theorem RoundTrip.vcmpge (o : VCmp) : RoundTrip.Statement (.vcmpge o) := by
  intro _ hw
  refine decode_encode_of ?_ hw
  change decodeMajor (packV 0x74 0x03 (BitVec.setWidth 4 o.md) o.va 0 o.mask o.ty.code 0 o.z o.b) = _
  rw [decodeMajor_74 (by simp)]
  simp [decode74, vCmp]
theorem RoundTrip.vcmpgt (o : VCmp) : RoundTrip.Statement (.vcmpgt o) := by
  intro _ hw
  refine decode_encode_of ?_ hw
  change decodeMajor (packV 0x74 0x04 (BitVec.setWidth 4 o.md) o.va 0 o.mask o.ty.code 0 o.z o.b) = _
  rw [decodeMajor_74 (by simp)]
  simp [decode74, vCmp]
theorem RoundTrip.vcmple (o : VCmp) : RoundTrip.Statement (.vcmple o) := by
  intro _ hw
  refine decode_encode_of ?_ hw
  change decodeMajor (packV 0x74 0x05 (BitVec.setWidth 4 o.md) o.va 0 o.mask o.ty.code 0 o.z o.b) = _
  rw [decodeMajor_74 (by simp)]
  simp [decode74, vCmp]
theorem RoundTrip.vcmpun (o : VCmp) : RoundTrip.Statement (.vcmpun o) := by
  intro _ hw
  refine decode_encode_of ?_ hw
  change decodeMajor (packV 0x74 0x06 (BitVec.setWidth 4 o.md) o.va 0 o.mask o.ty.code 0 o.z o.b) = _
  rw [decodeMajor_74 (by simp)]
  simp [decode74, vCmp]
theorem RoundTrip.vcmpor (o : VCmp) : RoundTrip.Statement (.vcmpor o) := by
  intro _ hw
  refine decode_encode_of ?_ hw
  change decodeMajor (packV 0x74 0x07 (BitVec.setWidth 4 o.md) o.va 0 o.mask o.ty.code 0 o.z o.b) = _
  rw [decodeMajor_74 (by simp)]
  simp [decode74, vCmp]
theorem RoundTrip.vcvt (dst : Ty) (o : VUn) (p : BitVec 4) (sat : Bool) : RoundTrip.Statement (.vcvt dst o p sat) := by
  intro _ hw
  refine decode_encode_of ?_ hw
  change decodeMajor (packVi 0x75 (BitVec.setWidth 8 dst.code) o.vd o.va 0 0 o.mask o.ty.code o.rm.code o.z (BitVec.setWidth 48 (BitVec.ofBool sat ++ p))) = _
  rw [decodeMajor_75 (by simp)]
  simp [decode75, fTy_func, vUn]
  exact ⟨low_part _ _, top_bit _ _ _⟩
theorem RoundTrip.vrsum (t : Ty) (vd : VReg) (va : VReg) (mask : MReg) : RoundTrip.Statement (.vrsum t vd va mask) := by
  intro _ hw
  refine decode_encode_of ?_ hw
  change decodeMajor (packVi 0x76 0x00 vd va 0 0 mask t.code 0 false 0) = _
  rw [decodeMajor_76 (by simp)]
  simp [decode76]
theorem RoundTrip.vrmax (t : Ty) (vd : VReg) (va : VReg) (mask : MReg) : RoundTrip.Statement (.vrmax t vd va mask) := by
  intro _ hw
  refine decode_encode_of ?_ hw
  change decodeMajor (packVi 0x76 0x01 vd va 0 0 mask t.code 0 false 0) = _
  rw [decodeMajor_76 (by simp)]
  simp [decode76]
theorem RoundTrip.vrmin (t : Ty) (vd : VReg) (va : VReg) (mask : MReg) : RoundTrip.Statement (.vrmin t vd va mask) := by
  intro _ hw
  refine decode_encode_of ?_ hw
  change decodeMajor (packVi 0x76 0x02 vd va 0 0 mask t.code 0 false 0) = _
  rw [decodeMajor_76 (by simp)]
  simp [decode76]
theorem RoundTrip.vperm (t : Ty) (vd : VReg) (va : VReg) (vb : VReg) (mask : MReg) (z : Bool) : RoundTrip.Statement (.vperm t vd va vb mask z) := by
  intro _ hw
  refine decode_encode_of ?_ hw
  change decodeMajor (packVi 0x77 0x00 vd va vb 0 mask t.code 0 z 0) = _
  rw [decodeMajor_77 (by simp)]
  simp [decode77]
theorem RoundTrip.vbcast (t : Ty) (vd : VReg) (va : VReg) (j : BitVec 6) (mask : MReg) (z : Bool) : RoundTrip.Statement (.vbcast t vd va j mask z) := by
  intro _ hw
  refine decode_encode_of ?_ hw
  change decodeMajor (packVi 0x77 0x01 vd va 0 0 mask t.code 0 z (BitVec.setWidth 48 j)) = _
  rw [decodeMajor_77 (by simp)]
  simp [decode77]
theorem RoundTrip.vrot (t : Ty) (vd : VReg) (va : VReg) (j : BitVec 6) (mask : MReg) (z : Bool) : RoundTrip.Statement (.vrot t vd va j mask z) := by
  intro _ hw
  refine decode_encode_of ?_ hw
  change decodeMajor (packVi 0x77 0x02 vd va 0 0 mask t.code 0 z (BitVec.setWidth 48 j)) = _
  rw [decodeMajor_77 (by simp)]
  simp [decode77]
theorem RoundTrip.vzip (t : Ty) (vd : VReg) (va : VReg) (vb : VReg) (h : Bool) (mask : MReg) (z : Bool) : RoundTrip.Statement (.vzip t vd va vb h mask z) := by
  intro _ hw
  refine decode_encode_of ?_ hw
  change decodeMajor (packVi 0x77 0x03 vd va vb 0 mask t.code 0 z (BitVec.setWidth 48 (BitVec.ofBool h))) = _
  rw [decodeMajor_77 (by simp)]
  simp [decode77]
theorem RoundTrip.vunzip (t : Ty) (vd : VReg) (va : VReg) (vb : VReg) (h : Bool) (mask : MReg) (z : Bool) : RoundTrip.Statement (.vunzip t vd va vb h mask z) := by
  intro _ hw
  refine decode_encode_of ?_ hw
  change decodeMajor (packVi 0x77 0x04 vd va vb 0 mask t.code 0 z (BitVec.setWidth 48 (BitVec.ofBool h))) = _
  rw [decodeMajor_77 (by simp)]
  simp [decode77]
theorem RoundTrip.vsel (t : Ty) (vd : VReg) (va : VReg) (b : BOp) (mask : MReg) : RoundTrip.Statement (.vsel t vd va b mask) := by
  intro _ hw
  refine decode_encode_of ?_ hw
  change decodeMajor (packV 0x77 0x05 vd va 0 mask t.code 0 false b) = _
  rw [decodeMajor_77 (by simp)]
  simp [decode77]
theorem RoundTrip.mand (t : Ty) (d : MReg) (a : MReg) (b : MReg) : RoundTrip.Statement (.mand t d a b) := by
  intro _ hw
  refine decode_encode_of ?_ hw
  change decodeMajor (packVi 0x78 0x00 (BitVec.setWidth 4 d) (BitVec.setWidth 4 a) (BitVec.setWidth 4 b) 0 0 t.code 0 false 0) = _
  rw [decodeMajor_78 (by simp)]
  simp [decode78]
theorem RoundTrip.mor (t : Ty) (d : MReg) (a : MReg) (b : MReg) : RoundTrip.Statement (.mor t d a b) := by
  intro _ hw
  refine decode_encode_of ?_ hw
  change decodeMajor (packVi 0x78 0x01 (BitVec.setWidth 4 d) (BitVec.setWidth 4 a) (BitVec.setWidth 4 b) 0 0 t.code 0 false 0) = _
  rw [decodeMajor_78 (by simp)]
  simp [decode78]
theorem RoundTrip.mxor (t : Ty) (d : MReg) (a : MReg) (b : MReg) : RoundTrip.Statement (.mxor t d a b) := by
  intro _ hw
  refine decode_encode_of ?_ hw
  change decodeMajor (packVi 0x78 0x02 (BitVec.setWidth 4 d) (BitVec.setWidth 4 a) (BitVec.setWidth 4 b) 0 0 t.code 0 false 0) = _
  rw [decodeMajor_78 (by simp)]
  simp [decode78]
theorem RoundTrip.mnot (t : Ty) (d : MReg) (a : MReg) : RoundTrip.Statement (.mnot t d a) := by
  intro _ hw
  refine decode_encode_of ?_ hw
  change decodeMajor (packVi 0x78 0x03 (BitVec.setWidth 4 d) (BitVec.setWidth 4 a) 0 0 0 t.code 0 false 0) = _
  rw [decodeMajor_78 (by simp)]
  simp [decode78]
theorem RoundTrip.mpop (t : Ty) (n : WReg) (a : MReg) : RoundTrip.Statement (.mpop t n a) := by
  intro _ hw
  refine decode_encode_of ?_ hw
  change decodeMajor (packVi 0x78 0x04 0 (BitVec.setWidth 4 a) 0 0 0 t.code 0 false (BitVec.setWidth 48 n)) = _
  rw [decodeMajor_78 (by simp)]
  simp [decode78]
theorem RoundTrip.mfirst (t : Ty) (n : WReg) (a : MReg) : RoundTrip.Statement (.mfirst t n a) := by
  intro _ hw
  refine decode_encode_of ?_ hw
  change decodeMajor (packVi 0x78 0x05 0 (BitVec.setWidth 4 a) 0 0 0 t.code 0 false (BitVec.setWidth 48 n)) = _
  rw [decodeMajor_78 (by simp)]
  simp [decode78]
theorem RoundTrip.vins (t : Ty) (vd : VReg) (n : WReg) (j : BitVec 6) : RoundTrip.Statement (.vins t vd n j) := by
  intro _ hw
  refine decode_encode_of ?_ hw
  change decodeMajor (packVi 0x79 0x00 vd 0 0 0 0 t.code 0 false (BitVec.setWidth 48 (j ++ 0#1 ++ n))) = _
  rw [decodeMajor_79 (by simp)]
  simp [decode79]
  exact low_part (j ++ 0#1) n
theorem RoundTrip.vext (t : Ty) (n : WReg) (va : VReg) (j : BitVec 6) : RoundTrip.Statement (.vext t n va j) := by
  intro _ hw
  refine decode_encode_of ?_ hw
  change decodeMajor (packVi 0x79 0x01 0 va 0 0 0 t.code 0 false (BitVec.setWidth 48 (j ++ 0#1 ++ n))) = _
  rw [decodeMajor_79 (by simp)]
  simp [decode79]
  exact low_part (j ++ 0#1) n
theorem RoundTrip.vgath (vd : VReg) (m : MemOp) (vs : VReg) (mask : MReg) : RoundTrip.Statement (.vgath vd m vs mask) := by
  intro _ hw
  refine decode_encode_of ?_ hw
  change decodeMajor (packM 0x80 0x00 (BitVec.setWidth 7 vd) m (mask ++ vs) false false) = _
  rw [decodeMajor_80 (by simp)]
  simp [decode80]
  exact ⟨low_part _ _, high_part _ _⟩
theorem RoundTrip.vscat (vd : VReg) (m : MemOp) (vs : VReg) (mask : MReg) : RoundTrip.Statement (.vscat vd m vs mask) := by
  intro _ hw
  refine decode_encode_of ?_ hw
  change decodeMajor (packM 0x80 0x01 (BitVec.setWidth 7 vd) m (mask ++ vs) false false) = _
  rw [decodeMajor_80 (by simp)]
  simp [decode80]
  exact ⟨low_part _ _, high_part _ _⟩
theorem RoundTrip.lsum (t : Ty) (d : WReg) (m : MemOp) (mask : MReg) : RoundTrip.Statement (.lsum t d m mask) := by
  intro _ hw
  refine decode_encode_of ?_ hw
  change decodeMajor (packM 0x81 0x00 d m (mask ++ t.code) false false) = _
  rw [decodeMajor_81 (by simp)]
  simp [decode81]
  exact ⟨(congrArg Ty.ofCode (low_part mask t.code)).trans (Ty.ofCode_code t), high_part _ _⟩
theorem RoundTrip.lmax (t : Ty) (d : WReg) (m : MemOp) (mask : MReg) : RoundTrip.Statement (.lmax t d m mask) := by
  intro _ hw
  refine decode_encode_of ?_ hw
  change decodeMajor (packM 0x81 0x01 d m (mask ++ t.code) false false) = _
  rw [decodeMajor_81 (by simp)]
  simp [decode81]
  exact ⟨(congrArg Ty.ofCode (low_part mask t.code)).trans (Ty.ofCode_code t), high_part _ _⟩
theorem RoundTrip.lmin (t : Ty) (d : WReg) (m : MemOp) (mask : MReg) : RoundTrip.Statement (.lmin t d m mask) := by
  intro _ hw
  refine decode_encode_of ?_ hw
  change decodeMajor (packM 0x81 0x02 d m (mask ++ t.code) false false) = _
  rw [decodeMajor_81 (by simp)]
  simp [decode81]
  exact ⟨(congrArg Ty.ofCode (low_part mask t.code)).trans (Ty.ofCode_code t), high_part _ _⟩
theorem RoundTrip.lscale (t : Ty) (d : WReg) (m : MemOp) (mask : MReg) : RoundTrip.Statement (.lscale t d m mask) := by
  intro _ hw
  refine decode_encode_of ?_ hw
  change decodeMajor (packM 0x81 0x03 d m (mask ++ t.code) false false) = _
  rw [decodeMajor_81 (by simp)]
  simp [decode81]
  exact ⟨(congrArg Ty.ofCode (low_part mask t.code)).trans (Ty.ofCode_code t), high_part _ _⟩
theorem RoundTrip.qnt (fmt : BitVec 8) (t : Ty) (vd : VReg) (va : VReg) (vc : VReg) (n : WReg) : RoundTrip.Statement (.qnt fmt t vd va vc n) := by
  intro _ hw
  refine decode_encode_of ?_ hw
  change decodeMajor (packVi 0xA0 fmt vd va 0 vc 0 t.code 0 false (BitVec.setWidth 48 n)) = _
  rw [decodeMajor_A0 (by simp)]
  simp [decodeA0]
theorem RoundTrip.qntg (fmt : BitVec 8) (t : Ty) (vd : VReg) (va : VReg) (vc : VReg) (n : WReg) : RoundTrip.Statement (.qntg fmt t vd va vc n) := by
  intro _ hw
  refine decode_encode_of ?_ hw
  change decodeMajor (packVi 0xA1 fmt vd va 0 vc 0 t.code 0 false (BitVec.setWidth 48 n)) = _
  rw [decodeMajor_A1 (by simp)]
  simp [decodeA1]
theorem RoundTrip.dqnt (fmt : BitVec 8) (t : Ty) (vd : VReg) (va : VReg) (n : WReg) (rm : Rm) : RoundTrip.Statement (.dqnt fmt t vd va n rm) := by
  intro _ hw
  refine decode_encode_of ?_ hw
  change decodeMajor (packVi 0xA2 fmt vd va 0 0 0 t.code rm.code false (BitVec.setWidth 48 n)) = _
  rw [decodeMajor_A2 (by simp)]
  simp [decodeA2]
theorem RoundTrip.ldvt (vd : VReg) (m : MemOp) (s : WReg) : RoundTrip.Statement (.ldvt vd m s) := by
  intro _ hw
  refine decode_encode_of ?_ hw
  change decodeMajor (packM 0xA3 0x00 (BitVec.setWidth 7 vd) m s false false) = _
  rw [decodeMajor_A3 (by simp)]
  simp [decodeA3]
theorem RoundTrip.stvt (vd : VReg) (m : MemOp) (s : WReg) : RoundTrip.Statement (.stvt vd m s) := by
  intro _ hw
  refine decode_encode_of ?_ hw
  change decodeMajor (packM 0xA3 0x01 (BitVec.setWidth 7 vd) m s false false) = _
  rw [decodeMajor_A3 (by simp)]
  simp [decodeA3]
theorem RoundTrip.bdot (vd : VReg) (va : VReg) (vb : VReg) (n : WReg) : RoundTrip.Statement (.bdot vd va vb n) := by
  intro _ hw
  refine decode_encode_of ?_ hw
  change decodeMajor (packVi 0xA4 0x00 vd va vb 0 0 0x0A#4 0 false (BitVec.setWidth 48 n)) = _
  rw [decodeMajor_A4 (by simp)]
  simp [decodeA4]
theorem RoundTrip.bscale (vd : VReg) (va : VReg) (n : WReg) (delta : BitVec 8) : RoundTrip.Statement (.bscale vd va n delta) := by
  intro _ hw
  refine decode_encode_of ?_ hw
  change decodeMajor (packVi 0xA4 0x01 vd va 0 0 0 0 0 false (BitVec.setWidth 48 (delta ++ 0#1 ++ n))) = _
  rw [decodeMajor_A4 (by simp)]
  simp [decodeA4]
  exact low_part (delta ++ 0#1) n
theorem RoundTrip.accld (t : TileReg) (m : MemOp) (s : WReg) : RoundTrip.Statement (.accld t m s) := by
  intro _ hw
  refine decode_encode_of ?_ hw
  change decodeMajor (packM 0xB0 0x00 (BitVec.setWidth 7 t) m s false false) = _
  rw [decodeMajor_B0 (by simp)]
  simp [decodeB0]
theorem RoundTrip.accst (t : TileReg) (m : MemOp) (s : WReg) : RoundTrip.Statement (.accst t m s) := by
  intro _ hw
  refine decode_encode_of ?_ hw
  change decodeMajor (packM 0xB0 0x01 (BitVec.setWidth 7 t) m s false false) = _
  rw [decodeMajor_B0 (by simp)]
  simp [decodeB0]
theorem RoundTrip.acczero (t : TileReg) : RoundTrip.Statement (.acczero t) := by
  intro _ hw
  refine decode_encode_of ?_ hw
  change decodeMajor (packG 0xB1 0x00 (BitVec.setWidth 7 t) 0 0 0 0 0) = _
  rw [decodeMajor_B1 (by simp)]
  simp [decodeB1]
theorem RoundTrip.mmd (t : TileReg) (ka : KReg) (kb : KReg) (c : WReg) : RoundTrip.Statement (.mmd t ka kb c) := by
  intro _ hw
  refine decode_encode_of ?_ hw
  change decodeMajor (packG 0xB2 0x00 (BitVec.setWidth 7 t) (BitVec.setWidth 7 ka) (BitVec.setWidth 7 kb) c 0 0) = _
  rw [decodeMajor_B2 (by simp)]
  simp [decodeB2]
theorem RoundTrip.mms (t : TileReg) (ka : KReg) (kb : KReg) (c : WReg) : RoundTrip.Statement (.mms t ka kb c) := by
  intro _ hw
  refine decode_encode_of ?_ hw
  change decodeMajor (packG 0xB2 0x01 (BitVec.setWidth 7 t) (BitVec.setWidth 7 ka) (BitVec.setWidth 7 kb) c 0 0) = _
  rw [decodeMajor_B2 (by simp)]
  simp [decodeB2]
theorem RoundTrip.mmu (t : TileReg) (ka : KReg) (kb : KReg) (c : WReg) : RoundTrip.Statement (.mmu t ka kb c) := by
  intro _ hw
  refine decode_encode_of ?_ hw
  change decodeMajor (packG 0xB2 0x02 (BitVec.setWidth 7 t) (BitVec.setWidth 7 ka) (BitVec.setWidth 7 kb) c 0 0) = _
  rw [decodeMajor_B2 (by simp)]
  simp [decodeB2]
theorem RoundTrip.mmus (t : TileReg) (ka : KReg) (kb : KReg) (c : WReg) : RoundTrip.Statement (.mmus t ka kb c) := by
  intro _ hw
  refine decode_encode_of ?_ hw
  change decodeMajor (packG 0xB2 0x03 (BitVec.setWidth 7 t) (BitVec.setWidth 7 ka) (BitVec.setWidth 7 kb) c 0 0) = _
  rw [decodeMajor_B2 (by simp)]
  simp [decodeB2]
theorem RoundTrip.ufcfg (a : WReg) : RoundTrip.Statement (.ufcfg a) := by
  intro _ hw
  refine decode_encode_of ?_ hw
  change decodeMajor (packG 0xB3 0x00 0 a 0 0 0 0) = _
  rw [decodeMajor_B3 (by simp)]
  simp [decodeB3]
theorem RoundTrip.send (ka : KReg) (b : WReg) (len : BitVec 6) : RoundTrip.Statement (.send ka b len) := by
  intro _ hw
  refine decode_encode_of ?_ hw
  change decodeMajor (packG 0xC0 0x00 0 (BitVec.setWidth 7 ka) b 0 0 (BitVec.setWidth 48 len)) = _
  rw [decodeMajor_C0 (by simp)]
  simp [decodeC0]
theorem RoundTrip.sendk (ka : KReg) (b : WReg) (kc : KReg) (len : BitVec 6) : RoundTrip.Statement (.sendk ka b kc len) := by
  intro _ hw
  refine decode_encode_of ?_ hw
  change decodeMajor (packG 0xC0 0x01 0 (BitVec.setWidth 7 ka) b (BitVec.setWidth 7 kc) 0 (BitVec.setWidth 48 len)) = _
  rw [decodeMajor_C0 (by simp)]
  simp [decodeC0]
theorem RoundTrip.recv (d : WReg) (ka : KReg) (kc : KReg) : RoundTrip.Statement (.recv d ka kc) := by
  intro _ hw
  refine decode_encode_of ?_ hw
  change decodeMajor (packG 0xC0 0x02 d (BitVec.setWidth 7 ka) 0 (BitVec.setWidth 7 kc) 0 0) = _
  rw [decodeMajor_C0 (by simp)]
  simp [decodeC0]
theorem RoundTrip.tryrecv (d : WReg) (ka : KReg) (kc : KReg) : RoundTrip.Statement (.tryrecv d ka kc) := by
  intro _ hw
  refine decode_encode_of ?_ hw
  change decodeMajor (packG 0xC0 0x03 d (BitVec.setWidth 7 ka) 0 (BitVec.setWidth 7 kc) 0 0) = _
  rw [decodeMajor_C0 (by simp)]
  simp [decodeC0]
theorem RoundTrip.ringmk (ka : KReg) (b : WReg) : RoundTrip.Statement (.ringmk ka b) := by
  intro _ hw
  refine decode_encode_of ?_ hw
  change decodeMajor (packG 0xC1 0x00 0 (BitVec.setWidth 7 ka) b 0 0 0) = _
  rw [decodeMajor_C1 (by simp)]
  simp [decodeC1]
theorem RoundTrip.ringsend (kd : KReg) (ka : KReg) (b : WReg) (tag : BitVec 16) : RoundTrip.Statement (.ringsend kd ka b tag) := by
  intro _ hw
  refine decode_encode_of ?_ hw
  change decodeMajor (packG 0xC1 0x01 (BitVec.setWidth 7 kd) (BitVec.setWidth 7 ka) b 0 0 (BitVec.setWidth 48 tag)) = _
  rw [decodeMajor_C1 (by simp)]
  simp [decodeC1]
theorem RoundTrip.ringfree (ka : KReg) : RoundTrip.Statement (.ringfree ka) := by
  intro _ hw
  refine decode_encode_of ?_ hw
  change decodeMajor (packG 0xC1 0x02 0 (BitVec.setWidth 7 ka) 0 0 0 0) = _
  rw [decodeMajor_C1 (by simp)]
  simp [decodeC1]
theorem RoundTrip.tsend (ka : KReg) (b : WReg) (c : WReg) (len : BitVec 6) : RoundTrip.Statement (.tsend ka b c len) := by
  intro _ hw
  refine decode_encode_of ?_ hw
  change decodeMajor (packG 0xD0 0x00 0 (BitVec.setWidth 7 ka) b c 0 (BitVec.setWidth 48 len)) = _
  rw [decodeMajor_D0 (by simp)]
  simp [decodeD0]
theorem RoundTrip.tsendk (kd : KReg) (ka : KReg) (b : WReg) (c : WReg) (len : BitVec 6) : RoundTrip.Statement (.tsendk kd ka b c len) := by
  intro _ hw
  refine decode_encode_of ?_ hw
  change decodeMajor (packG 0xD0 0x01 (BitVec.setWidth 7 kd) (BitVec.setWidth 7 ka) b c 0 (BitVec.setWidth 48 len)) = _
  rw [decodeMajor_D0 (by simp)]
  simp [decodeD0]
theorem RoundTrip.trecv (d : WReg) (ka : KReg) (kc : KReg) : RoundTrip.Statement (.trecv d ka kc) := by
  intro _ hw
  refine decode_encode_of ?_ hw
  change decodeMajor (packG 0xD0 0x02 d (BitVec.setWidth 7 ka) 0 (BitVec.setWidth 7 kc) 0 0) = _
  rw [decodeMajor_D0 (by simp)]
  simp [decodeD0]
theorem RoundTrip.ckpt (a : WReg) : RoundTrip.Statement (.ckpt a) := by
  intro _ hw
  refine decode_encode_of ?_ hw
  change decodeMajor (packG 0xD1 0x00 0 a 0 0 0 0) = _
  rw [decodeMajor_D1 (by simp)]
  simp [decodeD1]
theorem RoundTrip.rollb : RoundTrip.Statement (.rollb) := by
  intro _ hw
  refine decode_encode_of ?_ hw
  change decodeMajor (packG 0xD1 0x01 0 0 0 0 0 0) = _
  rw [decodeMajor_D1 (by simp)]
  simp [decodeD1]
theorem RoundTrip.recall (kd : KReg) (a : WReg) : RoundTrip.Statement (.recall kd a) := by
  intro _ hw
  refine decode_encode_of ?_ hw
  change decodeMajor (packG 0xD1 0x02 (BitVec.setWidth 7 kd) a 0 0 0 0) = _
  rw [decodeMajor_D1 (by simp)]
  simp [decodeD1]
theorem RoundTrip.deferStore (a : WReg) (kb : KReg) (c : WReg) (len : BitVec 6) : RoundTrip.Statement (.deferStore a kb c len) := by
  intro _ hw
  refine decode_encode_of ?_ hw
  change decodeMajor (packG 0xD1 0x03 0 a (BitVec.setWidth 7 kb) c 0 (BitVec.setWidth 48 (len ++ 0#8))) = _
  rw [decodeMajor_D1 (by simp)]
  simp [decodeD1]
  exact wide_high len 0#8 (by decide)
theorem RoundTrip.deferSend (a : WReg) (kb : KReg) (c : WReg) (len : BitVec 6) : RoundTrip.Statement (.deferSend a kb c len) := by
  intro _ hw
  refine decode_encode_of ?_ hw
  change decodeMajor (packG 0xD1 0x03 0 a (BitVec.setWidth 7 kb) c 0 (BitVec.setWidth 48 (len ++ 1#8))) = _
  rw [decodeMajor_D1 (by simp)]
  simp [decodeD1]
  exact wide_high len 1#8 (by decide)
theorem RoundTrip.deferNotify (a : WReg) (c : WReg) (len : BitVec 6) : RoundTrip.Statement (.deferNotify a c len) := by
  intro _ hw
  refine decode_encode_of ?_ hw
  change decodeMajor (packG 0xD1 0x03 0 a 0 c 0 (BitVec.setWidth 48 (len ++ 2#8))) = _
  rw [decodeMajor_D1 (by simp)]
  simp [decodeD1]
  exact wide_high len 2#8 (by decide)
theorem RoundTrip.gvtrd (d : WReg) : RoundTrip.Statement (.gvtrd d) := by
  intro _ hw
  refine decode_encode_of ?_ hw
  change decodeMajor (packG 0xD2 0x00 d 0 0 0 0 0) = _
  rw [decodeMajor_D2 (by simp)]
  simp [decodeD2]
theorem RoundTrip.gvtwait (a : WReg) : RoundTrip.Statement (.gvtwait a) := by
  intro _ hw
  refine decode_encode_of ?_ hw
  change decodeMajor (packG 0xD2 0x01 0 a 0 0 0 0) = _
  rw [decodeMajor_D2 (by simp)]
  simp [decodeD2]
theorem RoundTrip.garm (g : GReg) (a : WReg) : RoundTrip.Statement (.garm g a) := by
  intro _ hw
  refine decode_encode_of ?_ hw
  change decodeMajor (packG 0xD8 0x00 (BitVec.setWidth 7 g) a 0 0 0 0) = _
  rw [decodeMajor_D8 (by simp)]
  simp [decodeD8]
theorem RoundTrip.garr (g : GReg) : RoundTrip.Statement (.garr g) := by
  intro _ hw
  refine decode_encode_of ?_ hw
  change decodeMajor (packG 0xD8 0x01 (BitVec.setWidth 7 g) 0 0 0 0 0) = _
  rw [decodeMajor_D8 (by simp)]
  simp [decodeD8]
theorem RoundTrip.gwait (d : WReg) (g : GReg) : RoundTrip.Statement (.gwait d g) := by
  intro _ hw
  refine decode_encode_of ?_ hw
  change decodeMajor (packG 0xD8 0x02 d (BitVec.setWidth 7 g) 0 0 0 0) = _
  rw [decodeMajor_D8 (by simp)]
  simp [decodeD8]
theorem RoundTrip.garred (g : GReg) (a : WReg) : RoundTrip.Statement (.garred g a) := by
  intro _ hw
  refine decode_encode_of ?_ hw
  change decodeMajor (packG 0xD8 0x03 (BitVec.setWidth 7 g) a 0 0 0 0) = _
  rw [decodeMajor_D8 (by simp)]
  simp [decodeD8]
theorem RoundTrip.gtest (d : WReg) (g : GReg) : RoundTrip.Statement (.gtest d g) := by
  intro _ hw
  refine decode_encode_of ?_ hw
  change decodeMajor (packG 0xD8 0x04 d (BitVec.setWidth 7 g) 0 0 0 0) = _
  rw [decodeMajor_D8 (by simp)]
  simp [decodeD8]
theorem RoundTrip.hjoin (ka : KReg) (b : WReg) : RoundTrip.Statement (.hjoin ka b) := by
  intro _ hw
  refine decode_encode_of ?_ hw
  change decodeMajor (packG 0xD9 0x00 0 (BitVec.setWidth 7 ka) b 0 0 0) = _
  rw [decodeMajor_D9 (by simp)]
  simp [decodeD9]
theorem RoundTrip.hdetach (ka : KReg) (b : WReg) : RoundTrip.Statement (.hdetach ka b) := by
  intro _ hw
  refine decode_encode_of ?_ hw
  change decodeMajor (packG 0xD9 0x01 0 (BitVec.setWidth 7 ka) b 0 0 0) = _
  rw [decodeMajor_D9 (by simp)]
  simp [decodeD9]
theorem RoundTrip.hleave (ka : KReg) : RoundTrip.Statement (.hleave ka) := by
  intro _ hw
  refine decode_encode_of ?_ hw
  change decodeMajor (packG 0xD9 0x02 0 (BitVec.setWidth 7 ka) 0 0 0 0) = _
  rw [decodeMajor_D9 (by simp)]
  simp [decodeD9]
theorem RoundTrip.hpush (q : QReg) (a : WReg) : RoundTrip.Statement (.hpush q a) := by
  intro _ hw
  refine decode_encode_of ?_ hw
  change decodeMajor (packG 0xDA 0x00 (BitVec.setWidth 7 q) a 0 0 0 0) = _
  rw [decodeMajor_DA (by simp)]
  simp [decodeDA]
theorem RoundTrip.hpop (d : WReg) (q : QReg) : RoundTrip.Statement (.hpop d q) := by
  intro _ hw
  refine decode_encode_of ?_ hw
  change decodeMajor (packG 0xDA 0x01 d (BitVec.setWidth 7 q) 0 0 0 0) = _
  rw [decodeMajor_DA (by simp)]
  simp [decodeDA]
theorem RoundTrip.hpoll (d : WReg) (q : QReg) : RoundTrip.Statement (.hpoll d q) := by
  intro _ hw
  refine decode_encode_of ?_ hw
  change decodeMajor (packG 0xDA 0x02 d (BitVec.setWidth 7 q) 0 0 0 0) = _
  rw [decodeMajor_DA (by simp)]
  simp [decodeDA]
theorem RoundTrip.mbput (mb : MbReg) (a : WReg) (kb : KReg) (kc : KReg) : RoundTrip.Statement (.mbput mb a kb kc) := by
  intro _ hw
  refine decode_encode_of ?_ hw
  change decodeMajor (packG 0xDA 0x03 (BitVec.setWidth 7 mb) a (BitVec.setWidth 7 kb) (BitVec.setWidth 7 kc) 0 0) = _
  rw [decodeMajor_DA (by simp)]
  simp [decodeDA]
theorem RoundTrip.mbget (d : WReg) (mb : MbReg) : RoundTrip.Statement (.mbget d mb) := by
  intro _ hw
  refine decode_encode_of ?_ hw
  change decodeMajor (packG 0xDA 0x04 d (BitVec.setWidth 7 mb) 0 0 0 0) = _
  rw [decodeMajor_DA (by simp)]
  simp [decodeDA]
theorem RoundTrip.cpstartCap (ch : ChReg) (ka : KReg) (kb : KReg) (c : WReg) : RoundTrip.Statement (.cpstartCap ch ka kb c) := by
  intro _ hw
  refine decode_encode_of ?_ hw
  change decodeMajor (packG 0xE0 0x00 (BitVec.setWidth 7 ch) (BitVec.setWidth 7 ka) (BitVec.setWidth 7 kb) c 0 0x00#48) = _
  rw [decodeMajor_E0 (by simp)]
  simp [decodeE0]
theorem RoundTrip.cpstartAddr (ch : ChReg) (c : WReg) : RoundTrip.Statement (.cpstartAddr ch c) := by
  intro _ hw
  refine decode_encode_of ?_ hw
  change decodeMajor (packG 0xE0 0x00 (BitVec.setWidth 7 ch) 0 0 c 0 0x01#48) = _
  rw [decodeMajor_E0 (by simp)]
  simp [decodeE0]
theorem RoundTrip.cpmcast (ch : ChReg) (ka : KReg) (kb : KReg) (c : WReg) : RoundTrip.Statement (.cpmcast ch ka kb c) := by
  intro _ hw
  refine decode_encode_of ?_ hw
  change decodeMajor (packG 0xE0 0x01 (BitVec.setWidth 7 ch) (BitVec.setWidth 7 ka) (BitVec.setWidth 7 kb) c 0 0) = _
  rw [decodeMajor_E0 (by simp)]
  simp [decodeE0]
theorem RoundTrip.cpwait (ch : ChReg) : RoundTrip.Statement (.cpwait ch) := by
  intro _ hw
  refine decode_encode_of ?_ hw
  change decodeMajor (packG 0xE0 0x02 (BitVec.setWidth 7 ch) 0 0 0 0 0) = _
  rw [decodeMajor_E0 (by simp)]
  simp [decodeE0]
theorem RoundTrip.cpstat (d : WReg) (ch : ChReg) : RoundTrip.Statement (.cpstat d ch) := by
  intro _ hw
  refine decode_encode_of ?_ hw
  change decodeMajor (packG 0xE0 0x03 d (BitVec.setWidth 7 ch) 0 0 0 0) = _
  rw [decodeMajor_E0 (by simp)]
  simp [decodeE0]
theorem RoundTrip.cpwm (d : WReg) (ch : ChReg) : RoundTrip.Statement (.cpwm d ch) := by
  intro _ hw
  refine decode_encode_of ?_ hw
  change decodeMajor (packG 0xE0 0x04 d (BitVec.setWidth 7 ch) 0 0 0 0) = _
  rw [decodeMajor_E0 (by simp)]
  simp [decodeE0]
theorem RoundTrip.cpcancel (ch : ChReg) : RoundTrip.Statement (.cpcancel ch) := by
  intro _ hw
  refine decode_encode_of ?_ hw
  change decodeMajor (packG 0xE0 0x05 (BitVec.setWidth 7 ch) 0 0 0 0 0) = _
  rw [decodeMajor_E0 (by simp)]
  simp [decodeE0]
theorem RoundTrip.spr (d : WReg) (sr : BitVec 8) : RoundTrip.Statement (.spr d sr) := by
  intro _ hw
  refine decode_encode_of ?_ hw
  change decodeMajor (packG 0xF0 0x00 d 0 0 0 0 (BitVec.setWidth 48 sr)) = _
  rw [decodeMajor_F0 (by simp)]
  simp [decodeF0]
theorem RoundTrip.spw (sr : BitVec 8) (a : WReg) : RoundTrip.Statement (.spw sr a) := by
  intro _ hw
  refine decode_encode_of ?_ hw
  change decodeMajor (packG 0xF0 0x01 0 a 0 0 0 (BitVec.setWidth 48 sr)) = _
  rw [decodeMajor_F0 (by simp)]
  simp [decodeF0]
theorem RoundTrip.evret : RoundTrip.Statement (.evret) := by
  intro _ hw
  refine decode_encode_of ?_ hw
  change decodeMajor (packG 0xF1 0x00 0 0 0 0 0 0) = _
  rw [decodeMajor_F1 (by simp)]
  simp [decodeF1]
theorem RoundTrip.fackReplay (d : WReg) (a : WReg) : RoundTrip.Statement (.fackReplay d a) := by
  intro _ hw
  refine decode_encode_of ?_ hw
  change decodeMajor (packG 0xF2 0x00 d a 0 0 0 0x00#48) = _
  rw [decodeMajor_F2 (by simp)]
  simp [decodeF2]
theorem RoundTrip.fackSkip (d : WReg) (a : WReg) : RoundTrip.Statement (.fackSkip d a) := by
  intro _ hw
  refine decode_encode_of ?_ hw
  change decodeMajor (packG 0xF2 0x00 d a 0 0 0 0x01#48) = _
  rw [decodeMajor_F2 (by simp)]
  simp [decodeF2]
theorem RoundTrip.fackTerminate (d : WReg) (a : WReg) : RoundTrip.Statement (.fackTerminate d a) := by
  intro _ hw
  refine decode_encode_of ?_ hw
  change decodeMajor (packG 0xF2 0x00 d a 0 0 0 0x02#48) = _
  rw [decodeMajor_F2 (by simp)]
  simp [decodeF2]
theorem RoundTrip.ctxstop (d : WReg) (a : WReg) : RoundTrip.Statement (.ctxstop d a) := by
  intro _ hw
  refine decode_encode_of ?_ hw
  change decodeMajor (packG 0xF3 0x00 d a 0 0 0 0) = _
  rw [decodeMajor_F3 (by simp)]
  simp [decodeF3]
theorem RoundTrip.ctxgo (d : WReg) (a : WReg) : RoundTrip.Statement (.ctxgo d a) := by
  intro _ hw
  refine decode_encode_of ?_ hw
  change decodeMajor (packG 0xF3 0x01 d a 0 0 0 0) = _
  rw [decodeMajor_F3 (by simp)]
  simp [decodeF3]
theorem RoundTrip.xinvEntry (a : WReg) (b : WReg) : RoundTrip.Statement (.xinvEntry a b) := by
  intro _ hw
  refine decode_encode_of ?_ hw
  change decodeMajor (packG 0xF4 0x00 0 a b 0 0 0x00#48) = _
  rw [decodeMajor_F4 (by simp)]
  simp [decodeF4]
theorem RoundTrip.xinvAsid (a : WReg) (b : WReg) : RoundTrip.Statement (.xinvAsid a b) := by
  intro _ hw
  refine decode_encode_of ?_ hw
  change decodeMajor (packG 0xF4 0x00 0 a b 0 0 0x01#48) = _
  rw [decodeMajor_F4 (by simp)]
  simp [decodeF4]
theorem RoundTrip.xinvAll (a : WReg) (b : WReg) : RoundTrip.Statement (.xinvAll a b) := by
  intro _ hw
  refine decode_encode_of ?_ hw
  change decodeMajor (packG 0xF4 0x00 0 a b 0 0 0x02#48) = _
  rw [decodeMajor_F4 (by simp)]
  simp [decodeF4]
theorem RoundTrip.xreplay (a : WReg) : RoundTrip.Statement (.xreplay a) := by
  intro _ hw
  refine decode_encode_of ?_ hw
  change decodeMajor (packG 0xF4 0x01 0 a 0 0 0 0) = _
  rw [decodeMajor_F4 (by simp)]
  simp [decodeF4]
theorem RoundTrip.slotr (d : WReg) (a : WReg) : RoundTrip.Statement (.slotr d a) := by
  intro _ hw
  refine decode_encode_of ?_ hw
  change decodeMajor (packG 0xF5 0x00 d a 0 0 0 0) = _
  rw [decodeMajor_F5 (by simp)]
  simp [decodeF5]
theorem RoundTrip.wipe (d : WReg) (ka : KReg) : RoundTrip.Statement (.wipe d ka) := by
  intro _ hw
  refine decode_encode_of ?_ hw
  change decodeMajor (packG 0xF6 0x00 d (BitVec.setWidth 7 ka) 0 0 0 0) = _
  rw [decodeMajor_F6 (by simp)]
  simp [decodeF6]

end Laws

end Sys2Proof
end

