-- ==== Sys2Proof/Tests/Slice0.lean ====
section
/-! SUPPORT. The author's tests: words of the spec's encodings, well-formedness, single instructions against results calculated from the spec's rules, and for every statement
with hypotheses a witness that meets them. -/

open Sys2Proof Sys2Proof.Machine

namespace Sys2Proof.Tests

set_option Elab.async false

/-! Small states. -/

/-- A resident context of world 1 with a window of 128 registers. -/
def tenant : Ctx := { Ctx.reset with state := .ready, world := 1, wsize := 16, levels := 1, launch := 1 }

/-- A state in which context 0 of core 0 is at issue, at slot 3 of line 1 of its code. -/
def at0 (x : Ctx) : State := { State.reset with ctxs := [(0, x)], barns := [(0, { Barn.reset with world := 1, launch := 1 })], cur := { Issue.none with codept := 67 } }

/-- Registers of the context at issue set to values. -/
def withRegs (l : List (Nat × Word)) (s : State) : State := l.foldl (fun s p => s.setWn p.1 p.2) s

/-- Capability registers of a context set. -/
def caps (l : List (KReg × Cap)) (x : Ctx) : Ctx := { x with k := l.foldl (fun k p => vset k p.1.toNat p.2) x.k }

/-- A whole owned buffer of world 1: 4,096 bytes of the core's memory from offset 0x4000 (R26, R40). -/
def buf : Cap := { Cap.null with world := 1, count := 0x8000, kind := 1, rights := 0x2B, length := 0x1000, base := 0x4000 }

/-- A code capability of world 1 (R91): 16 lines from offset 0x8000. -/
def code : Cap := { Cap.null with world := 1, count := 0x8000, kind := 5, rights := 0x05, length := 0x400, base := 0x8000 }

/-- A state with registers, capability registers and masks. -/
def mk (r : List (Nat × Word)) (k : List (KReg × Cap)) : State := withRegs r (at0 (caps k tenant))

/-- A line whose slots are all targets and hold one word (R88). -/
def targetLine (w : InstWord) : Block := BitVec.ofNat 512 (0x1F * 2 ^ 480 + (List.range 5).foldl (fun n i => n + w.toNat * 2 ^ (96 * i)) 0)

/-- The core of a state holds a line. -/
def withLine (loc : Nat) (l : Block) (s : State) : State := s.modCore 0 fun c => { c with lines := c.lines ++ [(loc, { line := l, bad := false })] }

/-! Witnesses: the machine as a whole. -/

/-- Power-good with a word at the next fetch of core 0, whose turn is next without a choice of the agenda. -/
def placed (n : Nat) : State := { State.reset.withFetchWord 96 n with agenda := [] }

theorem witness_StepKeepsInv : Inv (placed 1) ∧ Inv State.reset := by decide +kernel
theorem witness_DecodeAndEncodeAgree :
    (Instr.coded (.ldd 127 { k := 14, x := 127, xen := true, sh := 3, disp := -1 })) = true ∧ (Instr.wf (.ldd 127 { k := 14, x := 127, xen := true, sh := 3, disp := -1 })) = true
    ∧ decode (BitVec.ofNat 96 (0x02 * 2 ^ 88 + 1 * 2 ^ 73 + 2 * 2 ^ 66 + 3 * 2 ^ 59)) = .ok (.add 1 2 3) := by decide +kernel
theorem witness_StepRunsTheInstruction :
    issuing (placed 1) = true ∧ vectorDue (placed 1) = none ∧ fillDue (placed 1) = none ∧ (placed 1).todo = [] ∧ (placed 1).work = [] ∧ (State.reset.withFetchWord 96 1).agenda = [.turn] := by decide +kernel
theorem witness_StepRunsTheInstruction_fill :
    let s := ((placed 1).modCore 0 fun x => { x with want := some (coreLoc 0 0x4040) }).push (.lineFill 0 (coreLoc 0 0x4040) 0 0)
    s.agenda = [] ∧ issuing s = true ∧ vectorDue s = none ∧ fillDue s = some (.lineFill 0 (coreLoc 0 0x4040) 0 0) := by decide +kernel
theorem witness_StepRunsTheInstruction_turn :
    let s := placed (0x02 * 2 ^ 88 + 1 * 2 ^ 73 + 2 * 2 ^ 66 + 3 * 2 ^ 59)
    let a := issueState s 1
    MayTurn s ∧ chosen (turnState s) s.focus = some 1 ∧ eventFor (a.ctx 1) = none ∧ (a.ctx 1).latch = none ∧ a.me.pc % 64 ≤ 4 ∧ codeSteps a (a.k 15) = .ok ()
    ∧ lookLine a (a.k 15) ((a.me.pc / 64 : Nat) : Int) 0 = .ok (.held (coreLoc 0 0x4000) { line := lineOf (BitVec.ofNat 96 (0x02 * 2 ^ 88 + 1 * 2 ^ 73 + 2 * 2 ^ 66 + 3 * 2 ^ 59)), bad := false })
    ∧ illLine (lineOf (BitVec.ofNat 96 (0x02 * 2 ^ 88 + 1 * 2 ^ 73 + 2 * 2 ^ 66 + 3 * 2 ^ 59))) = false
    ∧ pairBit (lineOf (BitVec.ofNat 96 (0x02 * 2 ^ 88 + 1 * 2 ^ 73 + 2 * 2 ^ 66 + 3 * 2 ^ 59))) 0 = false
    ∧ decode (slotWord (lineOf (BitVec.ofNat 96 (0x02 * 2 ^ 88 + 1 * 2 ^ 73 + 2 * 2 ^ 66 + 3 * 2 ^ 59))) 0) = .ok (.add 1 2 3) := by decide +kernel
theorem witness_StepRunsTheInstruction_zero :
    slotWord (lineOf 0) 0 = 0 ∧ illLine (lineOf 0) = false ∧ chosen (turnState (placed 0)) 0 = some 1 := by decide +kernel
theorem witness_StepRunsTheInstruction_latch :
    let s := (placed 1).modCtx 1 fun x => { x with latch := some { word := BitVec.ofNat 96 (0xF1 * 2 ^ 88), codept := 0, paired := false, replay := true, noWord := false, entry := none, ops := [] } }
    let a := issueState s 1
    MayTurn s ∧ chosen (turnState s) s.focus = some 1 ∧ eventFor (a.ctx 1) = none
    ∧ (a.ctx 1).latch = some { word := BitVec.ofNat 96 (0xF1 * 2 ^ 88), codept := 0, paired := false, replay := true, noWord := false, entry := none, ops := [] }
    ∧ decode (BitVec.ofNat 96 (0xF1 * 2 ^ 88)) = .ok .evret := by decide +kernel
theorem witness_FaultsParkTheirContext :
    AtIssue (mk [] []) ∧ 8 * (mk [] []).me.wsize < topOf [127, 2, 3] + 1 ∧ 8 * ((mk [] []).modMe fun x => { x with wsize := 1 }).me.wsize < topOf [8, 2, 3]
    ∧ 8 * ((mk [] []).modMe fun x => { x with wsize := 1 }).me.wsize < max (topOf [1]) (topM { k := 2, x := 8, xen := true, sh := 0, disp := 0 })
    ∧ (mk [] []).me.repro = false ∧ (mk [] []).me.sup = false ∧ (mk [] []).me.sys = false := by decide +kernel

/-! Witnesses: integer and floating-point arithmetic, control. -/

theorem witness_IntegerArithmetic : InWindow (mk [] []) (topOf [127, 2, 3]) := by decide +kernel
theorem witness_Division :
    InWindow (mk [] []) (topOf [127, 2, 3]) ∧ (mk [] []).w 3 = 0
    ∧ (mk [(2, 0x8000000000000000), (3, 0xFFFFFFFFFFFFFFFF)] []).w 2 = 0x8000000000000000
    ∧ ((mk [(2, 0x8000000000000000), (3, 0xFFFFFFFFFFFFFFFF)] []).w 2).toInt = -(2 ^ 63) ∧ ((mk [(2, 0x8000000000000000), (3, 0xFFFFFFFFFFFFFFFF)] []).w 3).toInt = -1
    ∧ (mk [(2, 7), (3, 1)] []).w 3 ≠ 0 := by decide +kernel
theorem witness_BitOperations : InWindow (mk [] []) (topOf [127, 2, 3, 4]) ∧ 1 ≤ (1 : BitVec 7).toNat ∧ (64 : BitVec 7).toNat ≤ 64 := by decide +kernel
theorem witness_FloatingPoint :
    InWindow (mk [] []) (topOf [127, 2, 3, 4])
    ∧ Val.decode Ty.f32 ((mk [(2, 0x7FC00000)] []).w 2).toNat = .nan
    ∧ Ty.isFp .s8 = false ∧ Ty.isFp .f64 = true
    ∧ Val.decode .f32 ((mk [(2, 0xFF800000)] []).w 2).toNat = .inf true
    ∧ (Val.decode .f32 ((mk [(2, 0x4F000000)] []).w 2).toNat).toInt .rne = some (2 ^ 31) := by decide +kernel
theorem witness_SkipsAndLoops :
    InWindow (mk [] []) (max ((127 : WReg).toNat + 1) (topQ (.reg 3))) ∧ Ty.isFp .s64 = false ∧ Ty.isFp .bf16 = true
    ∧ (mk [(2, 1)] []).w 2 = 1 ∧ (mk [(2, 0)] []).w 2 ≠ 1
    ∧ ¬((mk [(2, 4), (3, 5)] []).w 2 + 1).toInt < ((mk [(2, 4), (3, 5)] []).w 3).toInt
    ∧ ((mk [(2, 3), (3, 5)] []).w 2 + 1).toInt < ((mk [(2, 3), (3, 5)] []).w 3).toInt
    ∧ InWindow (mk [] []) (topOf [2, 127]) := by decide +kernel

/-- A context at line 1 of its code, with line 2 and line 0 in the fetch buffer, and a second code capability. -/
def coder (r : List (Nat × Word)) : State :=
  withLine (coreLoc 0 0x8080) (targetLine 0) (withLine (coreLoc 0 0x8000) (targetLine 0) (mk r [(15, code), (2, { code with base := 0x8000, length := 0x40 })]))

theorem witness_TargetReady : TargetReady (coder []) ((coder []).k 15) 2 4 0 := ⟨coreLoc 0 0x8080, _, rfl, by decide +kernel⟩
theorem witness_SkipsAndLoops_target :
    TargetReady (coder [(2, 9)]) ((coder [(2, 9)]).k 15) (((coder [(2, 9)]).cur.codept / 64 : Nat) + (1 : BitVec 45).toInt) (4 : BitVec 3).toNat 0 :=
  ⟨coreLoc 0 0x8080, _, rfl, by decide +kernel⟩
theorem witness_Transfers :
    let s := coder [(2, 132), (3, 0x8000000000000000)]
    let g : Target := { disp := 1, slot := 4 }
    InWindow s (topOf [127, 2]) ∧ s.w 2 ≠ 0 ∧ s.w 4 = 0 ∧ (s.w 3).toInt < 0 ∧ 0 ≤ (s.w 4).toInt ∧ pointOk (s.w 2) = true
    ∧ ((s.cur.codept / 64 : Nat) + g.disp.toInt : Int) = 2 ∧ g.slot.toNat = 4 ∧ (s.w 2).toNat / 64 = 2 ∧ (s.w 2).toNat % 64 = 4 := by decide +kernel
theorem witness_Transfers_register : TargetReady (coder [(2, 132)]) ((coder [(2, 132)]).k 15) (2 : Nat) 4 12 := ⟨coreLoc 0 0x8080, _, rfl, by decide +kernel⟩
theorem witness_Transfers_across :
    TargetReady (coder [(2, 4)]) ((coder [(2, 4)]).k 2) 0 4 12 ∧ TargetReady (coder [(2, 4)]) ((coder [(2, 4)]).k 2) 0 4 0
    ∧ codeSteps (coder [(2, 4)]) ((coder [(2, 4)]).k 2) = .ok () ∧ (2 : KReg) ≠ 15 :=
  ⟨⟨coreLoc 0 0x8000, _, rfl, by decide +kernel⟩, ⟨coreLoc 0 0x8000, _, rfl, by decide +kernel⟩, by decide +kernel, by decide⟩
theorem witness_Transfers_bad :
    let s := withLine (coreLoc 0 0x8080) 0 (mk [] [(15, code)])
    lookLine s (s.k 15) 2 0 = .ok (.held (coreLoc 0 0x8080) { line := 0, bad := false }) ∧ enterable 0 4 = false := by decide +kernel
theorem witness_Transfers_absent : lookLine (mk [] [(15, code)]) ((mk [] [(15, code)]).k 15) 2 0 = .ok (.absent (coreLoc 0 0x8080)) := by decide +kernel
theorem witness_NopHaltSleepYield : AtIssue (mk [] []) ∧ (mk [] []).me.state = .ready ∧ (1 : BitVec 32) ≠ 0 := by decide +kernel
/-! Witnesses: loads, stores, tags, locks, and the steps of the memory system. -/

/-- A memory operand with a displacement from k2. -/
def at2 (d : BitVec 48) : MemOp := { k := 2, x := 0, xen := false, sh := 0, disp := d }

/-- A context with a buffer in k2. -/
def holder (r : List (Nat × Word)) : State := mk r [(2, buf)]

theorem witness_OwnLoads :
    InWindow (holder []) (max (max (topOf [127, 1]) (topV 15)) (topM (at2 0xFC0))) ∧ ((holder []).k 2).kind ≠ 3 ∧ unreadable (holder []) (coreLoc 0 0x4FC0) = false
    ∧ unreadable (holder []) (coreLoc 0 0x4FFF) = false ∧ (127 : WReg).toNat / 8 ≠ (0 : VReg).toNat := by decide +kernel
theorem witness_OwnLoads_access :
    OwnAccess (holder []) (at2 0xFFF) .load 1 false (coreLoc 0 0x4FFF) ∧ OwnAccess (holder []) (at2 0xFFE) .load 2 false (coreLoc 0 0x4FFE)
    ∧ OwnAccess (holder []) (at2 0xFFC) .load 4 false (coreLoc 0 0x4FFC) ∧ OwnAccess (holder []) (at2 0xFF8) .load 8 false (coreLoc 0 0x4FF8)
    ∧ OwnAccess (holder []) (at2 0xFC0) .load 64 false (coreLoc 0 0x4FC0) :=
  ⟨⟨0x4FFF, by decide +kernel⟩, ⟨0x4FFE, by decide +kernel⟩, ⟨0x4FFC, by decide +kernel⟩, ⟨0x4FF8, by decide +kernel⟩, ⟨0x4FC0, by decide +kernel⟩⟩
theorem witness_OwnLoads_faults :
    let s := mk [] [(2, buf), (3, { buf with kind := 4 }), (4, { buf with world := 2 }), (5, { buf with rights := 0x02 })]
    (s.k 6).kind = 0 ∧ (s.k 3).kind = 4 ∧ (s.k 4).world ≠ s.me.world ∧ (s.k 5).read = false ∧ (s.k 2).versioned = false ∧ (s.k 2).base.toNat < 2 ^ 47
    ∧ boundsStep s s.myCore s.me.world (s.k 2) 0xFF9 8 = .error (fltAt .capBounds 0 0x5000)
    ∧ boundsStep s s.myCore s.me.world (s.k 2) 0xFF7 8 = .ok 0x4FF7 ∧ offsetOf s (at2 0xFF7) % 8 ≠ 0 := by decide +kernel

theorem witness_OwnStores :
    InWindow (holder []) (max (max (topOf [127]) (topV 15)) (topM (at2 0xFC0))) ∧ Untimed (holder []) ∧ Storable (holder []) (coreLoc 0 0x4FC0)
    ∧ InBlock (coreLoc 0 0x4FFF) 1 ∧ InBlock (coreLoc 0 0x4FF8) 8 ∧ InBlock (coreLoc 0 0x4FC0) 64
    ∧ (let s := (holder []).setPoison (coreLoc 0 0x4FC0) true; s.poisoned (coreLoc 0 0x4FF8) = true ∧ s.blockStashed (coreLoc 0 0x4FC0) = false ∧ Untimed s) := by decide +kernel
theorem witness_OwnStores_access :
    OwnAccess (holder []) (at2 0xFFF) .store 1 true (coreLoc 0 0x4FFF) ∧ OwnAccess (holder []) (at2 0xFFE) .store 2 true (coreLoc 0 0x4FFE)
    ∧ OwnAccess (holder []) (at2 0xFFC) .store 4 true (coreLoc 0 0x4FFC) ∧ OwnAccess (holder []) (at2 0xFF8) .store 8 true (coreLoc 0 0x4FF8)
    ∧ OwnAccess (holder []) (at2 0xFC0) .store 64 true (coreLoc 0 0x4FC0)
    ∧ OwnAccess ((holder []).setPoison (coreLoc 0 0x4FC0) true) (at2 0xFC0) .store 64 true (coreLoc 0 0x4FC0)
    ∧ OwnAccess ((holder []).setPoison (coreLoc 0 0x4FC0) true) (at2 0xFF8) .store 8 true (coreLoc 0 0x4FF8) :=
  ⟨⟨0x4FFF, by decide +kernel⟩, ⟨0x4FFE, by decide +kernel⟩, ⟨0x4FFC, by decide +kernel⟩, ⟨0x4FF8, by decide +kernel⟩, ⟨0x4FC0, by decide +kernel⟩,
    ⟨0x4FC0, by decide +kernel⟩, ⟨0x4FF8, by decide +kernel⟩⟩

theorem witness_FlagAndReplicatingStores :
    let s := holder [(3, 0xFC0)]
    InWindow s (max (max (topOf [127, 3]) (topV 15)) (topM (at2 0xF80))) ∧ Untimed s ∧ Storable s (coreLoc 0 0x4F80) ∧ Storable s (coreLoc 0 0x4FC0)
    ∧ unreadable s (coreLoc 0 0x4FC0) = false ∧ InBlock (coreLoc 0 0x4FC0) 8 ∧ InBlock (coreLoc 0 0x4F80) 64 ∧ hasPosted s s.cur.ctx = false
    ∧ ((s.k 2).base.toNat + (s.w 3).toNat : Nat) = 0x4FC0 ∧ heldByChannel s s.myCore (s.k 2) 0x4FC0 8 true = false
    ∧ routeOf s s.cur.ctx (s.k 2) 0x4FC0 = .here (coreLoc 0 0x4FC0) ∧ ownCore s.cur.ctx (coreLoc 0 0x4FC0) = true ∧ lockedOut s s.cur.ctx (coreLoc 0 0x4FC0) 8 = false
    ∧ (s.k 2).kind ≠ 6 ∧ flagSteps s (s.k 2) (offsetOf s (at2 0xF80)) (s.w 3).toNat 64 = .ok 0x4FC0
    ∧ flagSteps s (s.k 2) (offsetOf s (at2 0xF80)) (s.w 3).toNat 8 = .ok 0x4FC0 ∧ (coreLoc 0 0x4F80 + 64 ≤ coreLoc 0 0x4FC0) := by decide +kernel
theorem witness_FlagAndReplicatingStores_access :
    OwnAccess (holder [(3, 0xFC0)]) (at2 0xF80) .flagStore 64 true (coreLoc 0 0x4F80) ∧ OwnAccess (holder [(3, 0xFC0)]) (at2 0xF80) .flagStore 8 true (coreLoc 0 0x4F80) :=
  ⟨⟨0x4F80, by decide +kernel⟩, ⟨0x4F80, by decide +kernel⟩⟩

/-- A bound hitch of four members, of which the group on this package is member 1 and is attached to all. -/
def hitch4 : Hitch :=
  { id := 7, world := 1, gen := 5, repro := false, count := 4, me := 1, scope := 0, launch := 1, stage := .bound, place := [(0, (0, 0)), (1, (0, 1)), (2, (0, 2)), (3, (0, 3))],
    attach := [(0, .attached), (1, .attached), (2, .attached), (3, .attached)], member := [], modes := [], reported := [0, 1, 2, 3], holders := [0, 1, 2, 3], leaver := none }

/-- A window of four slices of 4,096 bytes (R249). -/
def window : Cap := { Cap.null with world := 1, gen := 5, count := 0x4000, kind := 6, rights := 0x0B, length := 0x1000, base := 0x800000000000 }

/-- A record of a launch of one level of one context. -/
def desc1 : LaunchRec :=
  { repro := false, actor := false, wsize := 16, prio := 0, pinned := 0, kregs := 4, code := 0x10000, codeLen := 64, entry := 0, supEntry := 0xFFFFFFFFFFFFFFFF, grace := 0,
    data := 0, dataLen := 0, loftLen := 0, hitch := 0, levels := [], init := [] }

/-- A running launch of world 1 on barn 0. -/
def launch1 : Launch :=
  { stage := .running, world := 1, asid := 3, desc := desc1, queue := 0, tag := 9, notify := [], region := 0, feed := false, feedPort := none, feeds := [], px := 0, py := 0, pw := 1, ph := 1,
    results := true, firstTerm := 0, cause := 0, gvt := 0, round := none, sums := [], releases := [], failures := 0, bound := 0, graceEnd := 0, savedMin := 0,
    saved := [], savedCores := [], savedRegs := [], savedTiles := [], savedBarns := [], savedMem := [], savedTags := [], savedSlots := [], savedPoison := [], savedRings := [], buffers := [] }

/-- A context of the launch of a hitch, with a window in k2. -/
def hitched (r : List (Nat × Word)) : State := { mk r [(2, window)] with hitches := [hitch4], launches := [(1, launch1)] }

theorem witness_FlagAndReplicatingStores_members :
    let s := hitched [(8, 0xD), (10, 0x40)]
    InWindow s (max (max (topV 0) ((8 : WReg).toNat + 3)) (topM (at2 0))) ∧ capSteps s (s.k 2) .replicate = .ok ()
    ∧ memberSet (s.wn 8) (s.wn 9) = [0, 2, 3] ∧ (∀ j ∈ memberSet (s.wn 8) (s.wn 9), replicaSteps s (s.k 2) (offsetOf s (at2 0)) (s.wn 10).toNat j true = .ok ())
    ∧ (memberSet (s.wn 8) (s.wn 9)).any (replicaHeld s (s.k 2) (offsetOf s (at2 0)) (s.wn 10).toNat) = false ∧ Untimed s
    ∧ hasPosted s s.cur.ctx = false ∧ s.me.state = .ready ∧ (hitchOf s s.me.launch).isSome = true
    ∧ routeOf s s.cur.ctx (s.k 2) 0x800000000000 = .member 0 0 ∧ routeOf s s.cur.ctx (s.k 2) 0x820000000000 = .member 2 0 := by decide +kernel
theorem witness_FlagAndReplicatingStores_routes :
    let s := hitched [(8, 0xD), (10, 0x40)]
    ∀ j ∈ memberSet (s.wn 8) (s.wn 9), ∃ o, routeOf s s.cur.ctx (s.k 2) (((s.k 2).base.toNat : Int) + offsetOf s (at2 0) + j * 2 ^ 40).toNat = .member j o := by
  intro s j hj
  have h : memberSet (s.wn 8) (s.wn 9) = [0, 2, 3] := by decide +kernel
  rw [h] at hj
  refine ⟨0, ?_⟩
  have : j = 0 ∨ j = 2 ∨ j = 3 := by simpa using hj
  rcases this with rfl | rfl | rfl <;> decide +kernel
theorem witness_FlagAndReplicatingStores_none :
    let s := hitched [(10, 0x40)]
    memberSet (s.wn 8) (s.wn 9) = [] ∧ replicaSteps s (s.k 2) (offsetOf s (at2 0)) (s.wn 10).toNat 0 false = .ok ()
    ∧ (let u : State := { hitched [(8, 0xD), (10, 0x40)] with posted := [{ id := 0, src := 0, loc := 0, op := .flagInc, cap := Cap.null, txid := none, prev := none }] }
       hasPosted u u.cur.ctx = true ∧ ∀ j ∈ memberSet (u.wn 8) (u.wn 9), replicaSteps u (u.k 2) (offsetOf u (at2 0)) (u.wn 10).toNat j true = .ok ()) := by decide +kernel

/-- A context with a buffer of another core's memory in k2. -/
def reacher (r : List (Nat × Word)) : State := mk r [(2, { buf with base := BitVec.ofNat 48 (coreLoc 1 0x4000) })]

theorem witness_AwayAndWindowAccesses :
    InWindow (reacher []) (max (max (topOf [127, 1]) (topV 15)) (topM (at2 0))) ∧ ((reacher []).k 2).kind ≠ 3 ∧ Free (reacher []) ∧ (reacher []).me.state = .ready := by decide +kernel
theorem witness_AwayAndWindowAccesses_access :
    AwayAccess (reacher []) (at2 0xFFF) .load 1 false ∧ AwayAccess (reacher []) (at2 0xFFE) .load 2 false ∧ AwayAccess (reacher []) (at2 0xFFC) .load 4 false
    ∧ AwayAccess (reacher []) (at2 0xFF8) .load 8 false ∧ AwayAccess (reacher []) (at2 0xFC0) .load 64 false ∧ AwayAccess (reacher []) (at2 0xFFF) .store 1 true
    ∧ AwayAccess (reacher []) (at2 0xFC0) .store 64 true :=
  ⟨⟨coreLoc 1 0x4FFF, by decide +kernel, by decide +kernel, .inl ⟨coreLoc 1 0x4FFF, by decide +kernel⟩⟩, ⟨coreLoc 1 0x4FFE, by decide +kernel, by decide +kernel, .inl ⟨coreLoc 1 0x4FFE, by decide +kernel⟩⟩,
    ⟨coreLoc 1 0x4FFC, by decide +kernel, by decide +kernel, .inl ⟨coreLoc 1 0x4FFC, by decide +kernel⟩⟩, ⟨coreLoc 1 0x4FF8, by decide +kernel, by decide +kernel, .inl ⟨coreLoc 1 0x4FF8, by decide +kernel⟩⟩,
    ⟨coreLoc 1 0x4FC0, by decide +kernel, by decide +kernel, .inl ⟨coreLoc 1 0x4FC0, by decide +kernel⟩⟩, ⟨coreLoc 1 0x4FFF, by decide +kernel, by decide +kernel, .inl ⟨coreLoc 1 0x4FFF, by decide +kernel⟩⟩,
    ⟨coreLoc 1 0x4FC0, by decide +kernel, by decide +kernel, .inl ⟨coreLoc 1 0x4FC0, by decide +kernel⟩⟩⟩
theorem witness_AwayAndWindowAccesses_window :
    let s := hitched []
    InWindow s (max (topOf [127]) (topM (at2 0xFF8))) ∧ (s.k 2).kind = 6 ∧ (hitchOf s s.me.launch).isSome = true ∧ hasPosted s s.cur.ctx = false ∧ s.me.state = .ready
    ∧ accessSteps s (s.k 2) .load (offsetOf s (at2 0xFF8)) 8 8 = .ok 0x800000000FF8 ∧ accessSteps s (s.k 2) .store (offsetOf s (at2 0xFF8)) 8 8 = .ok 0x800000000FF8
    ∧ heldByChannel s s.myCore (s.k 2) 0x800000000FF8 8 true = false ∧ heldByChannel s s.myCore (s.k 2) 0x800000000FF8 8 false = false
    ∧ routeOf s s.cur.ctx (s.k 2) 0x800000000FF8 = .member 0 0xFF8 := by decide +kernel

/-- An instruction in a latch. -/
def held0 : Latch := { word := 0, codept := 67, paired := false, replay := true, noWord := false, entry := none, ops := [] }

/-- A context that waits with an access. -/
def waits (a : Access) (w : Wait) (s : State) : State := s.modMe fun x => { x with state := .waiting, wait := w, acc := some a }

theorem witness_AwayAndWindowAccesses_accept :
    let a : Access := { op := .store 8 5, k := window, off := 0xFF8, ins := held0 }
    let s := waits a .accept (hitched [])
    (s.ctx 0).acc = some a ∧ (s.ctx 0).state = .waiting ∧ (s.ctx 0).wait = .accept ∧ heldUp s 0 = false ∧ (hitchOf s (s.ctx 0).launch).isSome = true ∧ 0 = s.cur.ctx
    ∧ reach s 0 a.k a.addr true = .far 0 0xFF8 ∧ memberStep s a.k a.addr = .ok () ∧ hasPosted s 0 = false := by decide +kernel

theorem witness_RegionLocks :
    let s := (holder [(3, 64)]).modMe fun x => { x with sup := true }
    let u := s.modCore 0 fun x => { x with locks := [{ holder := 5, start := coreLoc 0 0x4FC0, len := 64 }] }
    Passes { priv := 1, top := max (topOf [3]) (topM (at2 0xFC0)) } s ∧ lockSteps s (s.k 2) (offsetOf s (at2 0xFC0)) (s.w 3).toNat = .ok 0x4FC0
    ∧ regionPending s 0 = false ∧ lockFree (releaseLock s 0) 0 (coreLoc s.myCore 0x4FC0) 64 = true
    ∧ Passes { priv := 1, top := max (topOf [3]) (topM (at2 0xFC0)) } u ∧ lockSteps u (u.k 2) (offsetOf u (at2 0xFC0)) (u.w 3).toNat = .ok 0x4FC0
    ∧ regionPending u 0 = false ∧ lockFree (releaseLock u 0) 0 (coreLoc u.myCore 0x4FC0) 64 = false := by decide +kernel
theorem witness_RegionLocks_pending :
    let l := (holder [(3, 64)]).modMe fun x => { x with sup := true }
    let s := { l.modCore 0 fun x => { x with locks := [{ holder := 0, start := coreLoc 0 0x4F80, len := 64 }] } with
      posted := [{ id := 3, src := 0, loc := coreLoc 0 0x4FBF, op := .store 1 5, cap := Cap.null, txid := none, prev := none }] }
    Passes { priv := 1, top := max (topOf [3]) (topM (at2 0xFC0)) } s ∧ lockSteps s (s.k 2) (offsetOf s (at2 0xFC0)) (s.w 3).toNat = .ok 0x4FC0
    ∧ regionPending s 0 = true := by decide +kernel

/-- A context that reads translated space, with a station and a cached leaf. -/
def reader : State :=
  { (mk [] [(2, { buf with base := 0x400000000000 })]) with yards := [(0, [{ asid := 0, va := 0, size := 65536, pa := 0x100000, world := 1, w := true, shared := false }])] }

theorem witness_RepliesAndPostedWrites :
    let a : Access := { op := .load 127 8 false, k := { buf with base := 0x400000000000 }, off := 0xFF8, ins := held0 }
    let b : Access := { a with op := .store 8 5 }
    let s := waits a .reply reader
    let u := waits a .reply { reader with yards := [] }
    let v := waits b .accept reader
    ((s.ctx 0).acc = some a ∧ a.at_ = none ∧ (s.ctx 0).state = .waiting ∧ (s.ctx 0).wait = .reply ∧ heldUp s 0 = false
      ∧ reach s 0 a.k a.addr false = .here (physLoc 0x100FF8) false ∧ postedTo s 0 (physLoc 0x100FF8) 8 = false ∧ lockedOut s 0 (physLoc 0x100FF8) 8 = false
      ∧ routerOk s 0 (physLoc 0x100FF8) = true ∧ unreadable s (physLoc 0x100FF8) = false ∧ badSeal s (s.ctx 0).world (physLoc 0x100FF8) = false)
    ∧ (heldUp u 0 = false ∧ reach u 0 a.k a.addr false = .miss 0 0 0xFF8)
    ∧ (heldUp v 0 = false ∧ (v.ctx 0).actor = false ∧ reach v 0 b.k b.addr true = .here (physLoc 0x100FF8) false ∧ routerOk v 0 (physLoc 0x100FF8) = true
      ∧ withdrawn v (physLoc 0x100FF8) = false ∧ v.blockStashed (physLoc 0x100FF8) = false) := by decide +kernel
theorem witness_RepliesAndPostedWrites_performed :
    let p : Posted := { id := 3, src := 0, loc := physLoc 0x100FF8, op := .store 8 5, cap := Cap.null, txid := none, prev := none }
    let s : State := { State.reset with posted := [p] }
    s.posted.find? (·.id == p.id) = some p ∧ performable s p = true ∧ s.poisoned p.loc = false ∧ badSeal s (s.ctx p.src).world p.loc = false ∧ s.slots = [] := by decide +kernel

theorem witness_MemoryStepsAndWipes :
    let a : Access := { op := .flagInc, k := { buf with base := 0x400000000000 }, off := 0xFF8, ins := held0 }
    let s := waits a .flag reader
    (s.ctx 0).acc = some a ∧ a.at_ = none ∧ pinnedSource s [(physLoc 0x100FF8, 8)] = false ∧ (s.ctx 0).state = .waiting ∧ badSeal s (s.ctx 0).world (physLoc 0x100FF8) = false ∧ (s.ctx 0).wait = .flag ∧ heldUp s 0 = false ∧ hasPosted s 0 = false ∧ (s.ctx 0).actor = false ∧ s.slots = []
    ∧ reach s 0 a.k a.addr true = .here (physLoc 0x100FF8) false ∧ lockedOut s 0 (physLoc 0x100FF8) 8 = false ∧ routerOk s 0 (physLoc 0x100FF8) = true
    ∧ unreadable s (physLoc 0x100FF8) = false := by decide +kernel
theorem witness_MemoryStepsAndWipes_lock :
    let s := (holder []).modMe fun x => { x with state := .waiting, wait := .lock (coreLoc 0 0x4000) 64 }
    (s.ctx 0).state = .waiting ∧ (s.ctx 0).wait = .lock (coreLoc 0 0x4000) 64 ∧ lockFree s 0 (coreLoc 0 0x4000) 64 = true
    ∧ s.ctxs.map (·.1) = [0] := by decide +kernel
theorem witness_MemoryStepsAndWipes_line :
    let s := State.push State.reset (.lineFill 0 (coreLoc 0 0x4000) 0 0)
    Instr.lineFill 0 (coreLoc 0 0x4000) 0 0 ∈ s.work ∧ (fillFrom s 0 (coreLoc 0 0x4000)).isSome = true ∧ fillFrom s 0 (coreLoc 0 0x4000) = some (coreLoc 0 0x4000, false, 0) ∧ lineLocked s 0 (coreLoc 0 0x4000) = false
    ∧ badSeal s 0 (coreLoc 0 0x4000) = false ∧ unreadable s (coreLoc 0 0x4000) = false ∧ lineParity (BitVec.ofNat 512 (s.readLe (coreLoc 0 0x4000) 64)) = 0
    ∧ isSram (barnLoc 0 0) = true ∧ isCoreMem (barnLoc 0 0) = false := by decide +kernel
theorem witness_MemoryStepsAndWipes_wipe :
    let s : State := { (at0 { tenant with sys := true }).modMe (fun x => { x with state := .waiting, wait := .wipe 127 { buf with length := 128 } }) with keys := true }
    (s.ctx 0).state = .waiting ∧ (s.ctx 0).wait = .wipe 127 { buf with length := 128 } ∧ heldUp s 0 = false ∧ hasPosted s 0 = false
    ∧ (wipeRange s 0 { buf with length := 128 }).toOption = some [(coreLoc 0 0x4000, 64, false), (coreLoc 0 0x4040, 64, false)] ∧ lockedAny s (coreLoc 0 0x4000) 64 = false
    ∧ lockedAny s (coreLoc 0 0x4040) 64 = false ∧ pinnedSource s [(coreLoc 0 0x4000, 64), (coreLoc 0 0x4040, 64)] = false ∧ s.keys = true ∧ s.poisoned (coreLoc 0 0x4000) = false
    ∧ badSeal s (s.ctx 0).world (coreLoc 0 0x4000) = false := by decide +kernel

/-- The parked request of context 0 at station 0, and the marker of its granule. -/
def parked0 : Station :=
  { Station.reset with parked := [{ src := .ctx 0, asid := 0, granule := 0, world := 1, write := false }], markers := [{ asid := 0, granule := 0, walking := true, root := 0x80000 }] }

theorem witness_Translation :
    let s := (at0 tenant).modMe fun x => { x with miss := some (0xFF8, false) }
    let u : State := { s with stations := [(0, { Station.reset with parked := List.replicate Config.parkedStore { src := .ctx 9, asid := 7, granule := 7, world := 1, write := false } })] }
    needOf s (sourceOf 0) = some ⟨0, 0, 1, 0xFF8, false⟩ ∧ requestParked s (sourceOf 0) = false ∧ cachedLeaf s 0 0 0xFF8 false = none
    ∧ (s.station (stationOf 0 0xFF8)).parked.length < Config.parkedStore
    ∧ requestParked u (sourceOf 0) = false ∧ Config.parkedStore ≤ (u.station (stationOf 0 0xFF8)).parked.length
    ∧ (cachedLeaf { s with yards := reader.yards } 0 0 0xFF8 false).isSome = true := by decide +kernel
/-- Tables that map the first 1 GiB of ASID 0 of world 1, writable, to 0x40000000 (R339, R340): the root entry and one leaf of level 1. -/
def tables (s : State) : State :=
  (((s.writeLe (physLoc 0x80000) 8 0x100101).writeLe (physLoc 0x100000) 8 0x4000010B)).setStation 0 { parked0 with root := 0x80000 }

theorem witness_Translation_walk :
    let s := tables (at0 tenant)
    let r : ParkedReq := { src := .ctx 0, asid := 0, granule := 0, world := 1, write := false }
    (s.station 0).markers.find? (fun m => (m.asid == 0 && m.granule == 0) && m.walking) = some { asid := 0, granule := 0, walking := true, root := 0x80000 }
    ∧ (s.station 0).parked.find? (fun r => r.asid == 0 && r.granule == 0) = some r
    ∧ walk s 0x80000 0 0 r.world r.write = .ok { asid := 0, va := 0, size := 2 ^ 30, pa := 0x40000000, world := 1, w := true, shared := false }
    ∧ walk s 0x80000 1 0 r.world r.write = .error (5, 0)
    ∧ walk s 0x80000 0 0 2 true = .error (4, 0) := by decide +kernel
theorem witness_Translation_fault :
    let s := (at0 tenant).setStation 0 { parked0 with root := 0x80000 }
    let u := (at0 tenant).setStation 0 { parked0 with root := 0x80000, buffer := List.replicate Config.faultBuffer { asid := 0, granule := 5, world := 1, cause := 0, level := 1, write := false, src := .ctx 9 } }
    let r : ParkedReq := { src := .ctx 0, asid := 0, granule := 0, world := 1, write := false }
    (s.station 0).parked.find? (fun r => r.asid == 0 && r.granule == 0) = some r ∧ walk s 0x80000 0 0 r.world r.write = .error (5, 0)
    ∧ (s.station 0).buffer.length < Config.faultBuffer ∧ walk u 0x80000 0 0 r.world r.write = .error (5, 0)
    ∧ (u.station 0).markers.find? (fun m => (m.asid == 0 && m.granule == 0) && m.walking) = some { asid := 0, granule := 0, walking := true, root := 0x80000 }
    ∧ (s.station 0).markers.find? (fun m => (m.asid == 0 && m.granule == 0) && m.walking) = some { asid := 0, granule := 0, walking := true, root := 0x80000 } ∧ Config.faultBuffer ≤ (u.station 0).buffer.length := by decide +kernel
theorem witness_Translation_fail :
    let s := (at0 tenant).setStation 31 { parked0 with markers := [{ asid := 0, granule := 0, walking := false, root := 0x80000 }], refused := [{ src := .ctx 5, asid := 0, granule := 1, world := 1, write := false }] }
    (s.station 31).parked.map (·.src) = [.ctx 0] ∧ (s.station 31).refused.map (·.src) = [sourceOf 5] := by decide +kernel
theorem witness_Translation_acks :
    let l : Latch := { held0 with word := BitVec.ofNat 96 (0xF4 * 2 ^ 88) }
    let s (left : List Nat) := { (at0 tenant).modMe (fun x => { x with state := .waiting, wait := .acks left, latch := some l, since := 4 }) with
      posted := [{ id := 3, src := 0, loc := coreLoc 0 0x4000, op := .flagInc, cap := Cap.null, txid := none, prev := none }] }
    ((s [31]).ctx 0).state = .waiting ∧ ((s [31]).ctx 0).wait = .acks [31] ∧ ((s [31]).ctx 0).latch = some l ∧ fMajor l.word = 0xF4 ∧ 31 ∈ [31] ∧ 31 ∈ [30, 31]
    ∧ ((s [30, 31]).ctx 0).wait = .acks [30, 31]
    ∧ (∀ p ∈ (s [31]).posted, p.id < ((s [31]).ctx 0).since → p.loc < 2 ^ 64 ∨ p.txid.isSome = true)
    ∧ (s [31]).work = [] ∧ (s [31]).ctxs.map (fun q => q.2.acc.isSome) = [false] := by decide +kernel
/-! Witnesses: capabilities, atomics, versions, long forms. -/

/-- Capability registers: k2 a whole buffer, k3 its neighbour, k4 and k5 read fractions of one buffer, k6 a region, k7 a handle on its private version. -/
def owner (r : List (Nat × Word)) : State :=
  { (mk r [(2, buf), (3, { buf with base := 0x5000 }), (4, { buf with kind := 2, count := 1, rights := 0x21 }), (5, { buf with kind := 2, count := 0x7FFF, rights := 0x21 }),
      (6, { buf with rights := 0x93 }), (7, { buf with kind := 7, rights := 0x13, gen := 1 })]) with
    regions := [(regionKey buf, { Region.reset with live := true, base := 0x4000, length := 0x1000, world := 1, versions := [{ num := 0, handles := 0 }], priv := some 1 })] }

/-- The same with an access to the buffer outstanding. -/
def busyOwner (r : List (Nat × Word)) : State := { owner r with posted := [{ id := 0, src := 0, loc := 2 ^ 64, op := .flagInc, cap := buf, txid := none, prev := none }] }

theorem witness_CapabilityMovesAndSplits :
    let s := owner [(8, 1), (9, 0x7FFF), (10, 0x8000)]
    AtIssue s ∧ s.k 1 = Cap.null ∧ (s.k 2).kind.toNat < 8 ∧ (s.k 3).kind.toNat < 8 ∧ 8 ≤ ((mk [] [(2, { buf with kind := 15 })]).k 2).kind.toNat ∧ (s.k 2).isNull = false ∧ (s.k 1).isNull = true ∧ (s.k 2).kind = 1 ∧ (s.k 2).count = 32768 ∧ regionBusy s (s.k 2) = false
    ∧ pinned s 0 (s.k 2) = false ∧ pinned (busyOwner []) 0 ((busyOwner []).k 2) = true
    ∧ regionBusy (busyOwner []) ((busyOwner []).k 2) = false ∧ ((busyOwner []).k 2).count = 32768
    ∧ InWindow s (topOf [10]) ∧ splitKind (s.k 2) false = some 2 ∧ splitKind (s.k 2) true = some 3 ∧ (s.k 2).fractionable = true ∧ (s.k 2).atomic = true
    ∧ 0 < (s.w 8).toNat ∧ (s.w 9).toNat < (s.k 2).count.toNat ∧ s.w 11 = 0 ∧ (s.k 2).count.toNat ≤ (s.w 10).toNat := by decide +kernel
theorem witness_CapabilityJoinsAndRights :
    let s := owner [(8, 1), (9, 0xFFF)]
    AtIssue s ∧ countable (s.k 4) (s.k 5) = true ∧ (s.k 4).isNull = false ∧ (s.k 5).isNull = false
    ∧ countable (s.k 2) (s.k 3) = false ∧ adjacent (s.k 2) (s.k 3) = true ∧ adjacent (s.k 3) (s.k 2) = false
    ∧ (s.k 2).plainOwned = true ∧ s.k 1 = Cap.null ∧ 1 ≤ (s.w 8).toNat ∧ (s.w 9).toNat < (s.k 2).length.toNat ∧ pinned s 0 (s.k 2) = false ∧ Free s ∧ (s.k 2).kind.toNat < 8
    ∧ 8 ≤ ((mk [] [(2, { buf with kind := 8 })]).k 2).kind.toNat ∧ Free (mk [] [(2, { buf with kind := 8 })]) ∧ InWindow s (topOf [8, 9]) := by decide +kernel
theorem witness_CapabilityJoinsAndRights_restore :
    ∃ t u, ((owner [(8, 1)]).k 2).kind = 1 ∧ ((owner [(8, 1)]).k 2).count = 32768 ∧ ((owner [(8, 1)]).k 2).rights &&& 0x0E = 0x0A
      ∧ exec (.csplit 1 2 8 false) (owner [(8, 1)]) = .next t ∧ t.me.state = .ready ∧ exec (.cjoin 2 1) t = .next u ∧ u.me.state = .ready :=
  ⟨_, _, by decide +kernel, by decide +kernel, by decide +kernel, rfl, by decide +kernel, rfl, by decide +kernel⟩
theorem witness_StashesAndAtomics :
    let s := mk [(8, 5)] [(2, buf), (3, { buf with base := 0x6000 })]
    let u := s.setSlot (coreLoc 0 0x4FF0) { buf with base := BitVec.ofNat 48 (coreLoc 0 0x6000) }
    InWindow s (topM (at2 0xFF0)) ∧ Untimed s ∧ InBlock (coreLoc 0 0x4FF0) 16 ∧ (coreLoc 0 0x4FF0) % 16 = 0 ∧ slotSteps s (at2 0xFF0) = .ok 0x4FF0
    ∧ slotSteps u (at2 0xFF0) = .ok 0x4FF0 ∧ unreadable s (coreLoc 0 0x4FF0) = false ∧ unreadable u (coreLoc 0 0x4FF0) = false ∧ hasPosted s 0 = false
    ∧ (s.k 3).isNull = false ∧ (s.k 3).kind ≠ 5 ∧ (s.k 3).kind.toNat < 8 ∧ hasPosted u 0 = false ∧ Untimed u ∧ timedReceive s (s.k 3) = false ∧ regionBusy s (s.k 3) = false ∧ (s.k 3).world = (s.k 2).world
    ∧ pinned s 0 (s.k 3) = false ∧ s.slot (coreLoc 0 0x4FF0) = Cap.null
    ∧ u.k 4 = Cap.null ∧ (u.slot (coreLoc 0 0x4FF0)).isNull = false ∧ tableSlot u (u.k 2) 0x4FF0 = false
    ∧ InWindow s (max (topOf [127, 8]) (topM (at2 0xFF8))) ∧ Free s ∧ Storable s (coreLoc 0 0x4FF8) ∧ unreadable s (coreLoc 0 0x4FF8) = false
    ∧ InBlock (coreLoc 0 0x4FF8) (atomicBytes .s64) ∧ ATy.isFp .s64 = false := by decide +kernel
theorem witness_StashesAndAtomics_access :
    OwnAccess (mk [(8, 5)] [(2, buf), (3, { buf with base := 0x6000 })]) (at2 0xFF0) .slot 16 true (coreLoc 0 0x4FF0)
    ∧ OwnAccess ((mk [] [(2, buf)]).setSlot (coreLoc 0 0x4FF0) { buf with base := BitVec.ofNat 48 (coreLoc 0 0x6000) }) (at2 0xFF0) .slot 16 true (coreLoc 0 0x4FF0)
    ∧ OwnAccess (mk [(8, 5)] [(2, buf)]) (at2 0xFF8) .atomic (atomicBytes .s64) true (coreLoc 0 0x4FF8)
    ∧ AwayAccess (reacher []) (at2 0xFF8) .atomic (atomicBytes .s64) true ∧ ATy.isFp .s64 = false :=
  ⟨⟨0x4FF0, by decide +kernel⟩, ⟨0x4FF0, by decide +kernel⟩, ⟨0x4FF8, by decide +kernel⟩,
    ⟨coreLoc 1 0x4FF8, by decide +kernel, by decide +kernel, .inl ⟨coreLoc 1 0x4FF8, by decide +kernel⟩⟩, rfl⟩
theorem witness_StashesAndAtomics_away :
    InWindow (reacher []) (max (topOf [127, 8]) (topM (at2 0xFF8))) ∧ Free (reacher []) ∧ (reacher []).me.state = .ready
    ∧ (let s := (mk [] [(2, { buf with kind := 3 })]).modMe fun x => { x with repro := true }; s.me.repro = true ∧ (s.k 2).kind = 3) := by decide +kernel
theorem witness_Versions :
    let s := owner []
    let u : State := { s with regions := [] }
    AtIssue u ∧ openSteps u 1 6 0x81 = .ok () ∧ openSteps u 1 6 0x83 = .ok () ∧ (regionOf u (u.k 6)).mayOpen = true
    ∧ openSteps s 1 6 0x83 = .ok () ∧ (regionOf s (s.k 6)).mayOpen = false
    ∧ InWindow s (topOf [127]) ∧ (s.region (regionKey (s.k 7))).priv = some 1 ∧ 1 = (s.region (regionKey (s.k 7))).latest + 1 ∧ 1 % 4096 = (s.k 7).gen.toNat
    ∧ handleSteps s 7 0x02 = .ok () ∧ hasPosted s 0 = false ∧ handleSteps (busyOwner []) 7 0x02 = .ok () ∧ hasPosted (busyOwner []) 0 = true
    ∧ handleSteps s 7 0x00 = .ok () ∧ pinned s 0 (s.k 7) = false := by decide +kernel
/-- Lane 15 is on in m1; k2 holds a buffer. -/
def lanes15 (k : Cap) (r : List (Nat × Word)) : State := (mk r [(2, k)]).modMe fun x => { x with m := vset x.m 1 0x8000 }
theorem witness_LongFormsBegin :
    let s := lanes15 { buf with base := BitVec.ofNat 48 (coreLoc 1 0x4000) } [(1, 0x40), (2, 0x4000000), (3, 1), (11, 1), (13, 0x4000001), (15, 0x4000000)]
    let m : MemOp := { at2 0xFC0 with sh := 2 }
    InWindow s (max (max (max (topV 0) (topV 15)) ((12 : WReg).toNat + 2)) (topM m)) ∧ Free s ∧ s.me.state = .ready ∧ s.cur.latched = false
    ∧ nextLane (s.mask 2) 0 (gatherLanes 4) = none ∧ nextLane (s.mask 1) 0 (gatherLanes 4) = some 15
    ∧ accessSteps s (s.k 2) .load (offsetOf s m + (lane 32 (s.v 15) 15 * 4 : Nat)) 4 4 = .ok (coreLoc 1 0x4FC0)
    ∧ accessSteps s (s.k 2) .store (offsetOf s m + (lane 32 (s.v 15) 15 * 4 : Nat)) 4 4 = .ok (coreLoc 1 0x4FC0)
    ∧ s.wn ((8 : WReg).toNat + 1) = 0 ∧ 0 < (s.wn ((10 : WReg).toNat + 1)).toNat ∧ (s.wn ((14 : WReg).toNat + 1)).toNat ≤ 2 ^ 26
    ∧ accessSteps s (s.k 2) .load (offsetOf s (at2 0xFC0)) 64 64 = .ok (coreLoc 1 0x4FC0) ∧ accessSteps s (s.k 2) .rescale (offsetOf s (at2 0xFC0)) 64 64 = .ok (coreLoc 1 0x4FC0)
    ∧ 2 ^ 26 < (s.wn ((12 : WReg).toNat + 1)).toNat := by decide +kernel
theorem witness_LongFormsBegin_leaves :
    let s := lanes15 { buf with base := BitVec.ofNat 48 (coreLoc 1 0x4000) } [(1, 0x40), (2, 0x4000000), (3, 1), (11, 1), (13, 0x4000001), (15, 0x4000000)]
    ∀ loc, routeOf s s.cur.ctx (s.k 2) (coreLoc 1 0x4FC0) = .here loc → ownCore s.cur.ctx loc = false := by
  intro s loc h
  rw [show routeOf s s.cur.ctx (s.k 2) (coreLoc 1 0x4FC0) = .here (coreLoc 1 0x4FC0) by decide +kernel] at h
  cases h
  decide +kernel
theorem witness_LongFormsBegin_own :
    let s := lanes15 buf [(9, 1)]
    ∀ j, j < gatherLanes 4 → (s.mask 1).getLsbD j = true → ∃ x, accessSteps s (s.k 2) .load (offsetOf s { at2 0xFC0 with sh := 2 } + (lane 32 (s.v 15) j * 4 : Nat)) 4 4 = .ok x
      ∧ heldByChannel s s.myCore (s.k 2) x 4 false = false ∧ routeOf s s.cur.ctx (s.k 2) x = .here (coreLoc 0 0x4FC0) ∧ ownCore s.cur.ctx (coreLoc 0 0x4FC0) = true
      ∧ lockedOut s s.cur.ctx (coreLoc 0 0x4FC0) 4 = false ∧ unreadable s (coreLoc 0 0x4FC0) = false := by
  intro s j h e
  have : j = 15 := by revert j; decide +kernel
  exact ⟨0x4FC0, by subst this; decide +kernel⟩
theorem witness_LongFormsBegin_own_sum :
    (lanes15 buf [(9, 1)]).wn ((8 : WReg).toNat + 1) = 1 ∧ unreadable (lanes15 buf [(9, 1)]) (coreLoc 0 0x4FC0) = false
    ∧ OwnAccess (lanes15 buf [(9, 1)]) (at2 0xFC0) .load 64 false (coreLoc 0 0x4FC0) := ⟨by decide +kernel, by decide +kernel, 0x4FC0, by decide +kernel⟩
/-! Witnesses: register forms of the shared unit, tiles and matrix forms. -/

/-- A vector entry of a context. -/
def entry (c : Nat) (started : Bool) (f : Option FaultInfo) : VEntry :=
  { ctx := c, ins := held0, regs := [(127, 5), (8, 6)], masks := [(7, 9)], fault := f, started := started }

/-- A context whose core holds one vector entry of another context. -/
def viewer (r : List (Nat × Word)) : State := (mk r []).modCore 0 fun x => { x with vents := [entry 5 false none] }

theorem witness_VectorArithmetic :
    MayEnter (viewer []) (max (max (topV 15) (topV 14)) (topB (.group 13))) ∧ MayEnter (viewer []) (max (max (topV 15) (topV 14)) (topB (.reg 127)))
    ∧ InWindow (viewer []) (topV 15) ∧ Ty.isFp .s8 = false ∧ Ty.isFp .f64 = true := by decide +kernel
theorem witness_VectorMasksAndShuffles :
    MayEnter (viewer []) (max (max (max (topV 14) (topB (.group 13))) (max (topV 15) (topV 12))) (topOf [127])) := by decide +kernel
theorem witness_VectorFormats :
    let s := viewer [(0, 0x1301), (1, 0x0101), (2, 0x1401), (3, 0x13011301), (5, 0x12011301), (4, 0x13FE), (6, 0x1300), (126, 0x10000)]
    Ty.isFp .f32 = true ∧ MayEnter s (max (max (max (topV 8) (topV 8)) (max (topV 15) (topOf [127]))) (max (topRun 8 (blockGroups 0x13 .f32)) (topRun 8 (blockGroups 0x13 .f32))))
    ∧ fmtReserved (tagFormat ((s.w 1).setWidth 16)) = true
    ∧ fmtReserved (tagFormat ((s.w 2).setWidth 16)) = false ∧ ((tagFormat ((s.w 2).setWidth 16)) == (0x13 : BitVec 8)) = false
    ∧ fmtReserved (tagFormat ((s.w 0).setWidth 16)) = false ∧ illFormed ((s.w 0).setWidth 16) (s.v 15) = true
    ∧ blockFmt 0x13 = true ∧ sparseFmt 0x13 = false ∧ checkTag (· == 0x13) ((s.w 0).setWidth 16) (s.v 1) = none
    ∧ checkTag denseOrSparse ((s.w 3).setWidth 16) (s.v 1) = none ∧ checkTag denseOrSparse ((s.w 3).extractLsb' 16 16) (s.v 1) = none
    ∧ blockVals (tagFormat ((s.w 3).setWidth 16)) = blockVals (tagFormat ((s.w 3).extractLsb' 16 16))
    ∧ checkTag denseOrSparse ((s.w 5).setWidth 16) (s.v 1) = none ∧ checkTag denseOrSparse ((s.w 5).extractLsb' 16 16) (s.v 1) = none
    ∧ blockVals (tagFormat ((s.w 5).setWidth 16)) ≠ blockVals (tagFormat ((s.w 5).extractLsb' 16 16))
    ∧ checkTag blockFmt ((s.w 4).setWidth 16) (s.v 1) = none ∧ tagScale ((s.w 4).setWidth 16) = 254 ∧ tagScale ((s.w 0).setWidth 16) = 1 ∧ tagScale ((s.w 6).setWidth 16) = 0
    ∧ (254 : Int) < (254 : Nat) + (1 : BitVec 8).toInt ∧ ((1 : Nat) : Int) + (255 : BitVec 8).toInt < 1 := by decide +kernel
theorem witness_VectorFormats_sparse :
    let s := viewer [(8, 0xFFFFFFFFFFFFFFFF), (9, 0xFFFFFFFFFFFFFFFF)]
    blockFmt 0x28 = true ∧ sparseFmt 0x28 = true ∧ InWindow s (topV 1)
    ∧ 384 / fmtWidth 0x28 < popcount 128 ((s.wn (8 * (1 : VReg).toNat)).toNat + 2 ^ 64 * (s.wn (8 * (1 : VReg).toNat + 1)).toNat) := by decide +kernel
theorem witness_VectorResultsLand :
    let s := (mk [] []).modCore 0 fun x => { x with vents := [entry 0 true none, entry 5 false none] }
    let u := (mk [] []).modCore 0 fun x => { x with vents := [entry 0 true (some (flt .fmtIll).lateOf)] }
    let z := (mk [] []).modCore 0 fun x => { x with vents := [entry 7 true none, entry 5 false none, entry 6 false none] }
    InWindow z (max (max (topV 15) (topV 14)) (topB (.imm 0))) ∧ 2 ≤ Sys2Proof.queued z
    ∧ ((viewer []).core (4 * 0 + (((viewer []).barn 0).lastVector + 1) % 4)).vents = entry 5 false none :: [] ∧ (entry 5 false none).started = false
    ∧ (s.core (coreOf 0)).vents.find? (fun e => e.ctx == 0 && e.started) = some (entry 0 true none) ∧ ((entry 0 true none).regs.map (·.1)).Nodup
    ∧ (entry 0 true none).masks.length ≤ 1
    ∧ (u.core (coreOf 0)).vents.find? (fun e => e.ctx == 0 && e.started) = some (entry 0 true (some (flt .fmtIll).lateOf)) := by decide +kernel

theorem witness_TileFormsBegin :
    let s := (mk [(120, 0x201E), (121, 0x11F), (124, 0), (125, 0), (126, 0x1000120), (127, 0)] [(2, buf)]).modCore 0 fun x => { x with tents := [5, 6, 7] }
    let d := descOf (s.wn 124) (s.wn 125) (s.wn 126) (s.wn 127)
    let u := (s.modMe fun x => { x with ufc0 := 0x0000004000010001, ufc1 := 0x0000001100110101 })
    InWindow s (max ((124 : WReg).toNat + 4) (topM (at2 0))) ∧ s.me.actor = false ∧ Free s ∧ s.me.state = .ready ∧ s.cur.latched = false ∧ (s.core s.myCore).tents.length < 4
    ∧ vat none (s.barn s.myBarn).tileLock (7 : TileReg).toNat = none ∧ inTile (s.barn s.myBarn) (7 : TileReg).toNat s.cur.ctx = false
    ∧ (∀ c ∈ (s.core s.myCore).tents, (s.ctx c).tileAt ≤ s.stamp) ∧ (s.w 121).toNat = 31 + 256 * 1 ∧ accessSteps s (s.k 2) .load (offsetOf s (at2 0xFC0)) 64 64 = .ok 0x4FC0
    ∧ accessSteps s (s.k 2) .store (offsetOf s (at2 0xFC0)) 64 64 = .ok 0x4FC0
    ∧ descSteps .mmd d (s.wn 126) = .ok () ∧ descSteps .mms d (s.wn 126) = .ok () ∧ descSteps .mmu d (s.wn 126) = .ok () ∧ d.m = 32
    ∧ unfoldSteps u.me.ufc0 u.me.ufc1 (u.wn 126) d.kg = .ok () ∧ u.me.ufc0 = 0x0000004000010001 ∧ InWindow s ((120 : WReg).toNat + 4) := by decide +kernel
theorem witness_TileFormsBegin_own :
    let s := mk [(121, 0x11F)] [(2, buf)]
    let at_ (i : Nat) := coreLoc 0 (0x4000 + 64 * i)
    AtIssue s ∧ (s.core s.myCore).tents = [] ∧ (s.w 121).toNat = 31 + 256 * 1 ∧ ∀ i, i < 16 → at_ i = at_ 0 + 64 * i
      ∧ accessSteps s (s.k 2) .load (offsetOf s (at2 0) + (64 * i : Nat)) 64 64 = .ok (0x4000 + 64 * i) ∧ accessSteps s (s.k 2) .store (offsetOf s (at2 0) + (64 * i : Nat)) 64 64 = .ok (0x4000 + 64 * i)
      ∧ (∀ w, heldByChannel s s.myCore (s.k 2) (0x4000 + 64 * i) 64 w = false) ∧ routeOf s s.cur.ctx (s.k 2) (0x4000 + 64 * i) = .here (at_ i) ∧ ownCore s.cur.ctx (at_ i) = true
      ∧ lockedOut s s.cur.ctx (at_ i) 64 = false ∧ unreadable s (at_ i) = false ∧ Storable s (at_ i) ∧ InBlock (at_ i) 64 := by decide +kernel
theorem witness_TileFormsBegin_locked :
    let s := (mk [(126, 0x1000120)] [(2, buf)]).modBarn 0 fun b => { b with tileLock := vset b.tileLock 7 (some 5) }
    let u := (mk [] []).modMe fun x => { x with actor := true }
    AtIssue s ∧ Free s ∧ (s.core s.myCore).tents = [] ∧ inTile (s.barn s.myBarn) (7 : TileReg).toNat s.cur.ctx = false
    ∧ descSteps .mmd (descOf (s.wn 124) (s.wn 125) (s.wn 126) (s.wn 127)) (s.wn 126) = .ok ()
    ∧ vat none (s.barn s.myBarn).tileLock (7 : TileReg).toNat = some 5 ∧ 5 ≠ s.cur.ctx ∧ u.me.actor = true ∧ AtIssue u := by decide +kernel

/-- The context at issue waits with an access at the head of its core's tile entries. -/
def tiled (a : Access) (w : Wait) (s : State) : State := (waits a w s).modCore 0 fun x => { x with tents := [0, 5] }

theorem witness_TileFormsEnd :
    let a : Access := { op := .tileZero 7, k := Cap.null, off := 0, ins := held0 }
    let b : Access := { op := .tileCopy 7 true 31 1, k := buf, off := 0, ins := held0 }
    let s := tiled a .tile (mk [] [])
    let u := tiled b .tile (mk [] [])
    (s.ctx 0).state = .waiting ∧ (s.ctx 0).acc = some a ∧ (s.core (coreOf 0)).tents.head? = some 0 ∧ (s.ctx 0).wait = .tile ∧ (u.ctx 0).acc = some b ∧ (u.ctx 0).wait = .tile := by decide +kernel

/-- A one-by-one K-group of dense 8-bit blocks at offset 0 of the buffer, the references already read. -/
def kform (c2 : Word) : Access :=
  { op := .matrix .mmd 7 buf 0 0 c2 0 0 0 (some (0x18, 0x18)) [], k := buf, off := 0, ins := held0 }

theorem witness_TileFormsEnd_matrix :
    let locked (tag : BitVec 16) := ((tiled (kform 0x1000101) .matrix (mk [] [])).setTag (coreLoc 0 0x4000) tag).modBarn 0 fun b => { b with
      tileLock := vset b.tileLock 7 (some 0) }
    let s := locked 0x1880
    let d := descOf 0 0 0x1000101 0
    let u := actFor (s.did (.matrixKBlock 0)) 0 held0
    let v := actFor ((locked 0x1980).did (.matrixKBlock 0)) 0 held0
    let pack := ((List.range (packOf .mmd d.n)).map (0 + ·)).filter (2 * · < d.kg)
    let e := s.modMe fun x => { x with progress := 2 }
    (s.ctx 0).wait = .matrix ∧ 2 * pointOf (s.ctx 0) < d.kg ∧ descSteps .mmd d 0x1000101 = .ok () ∧ hasTx s 0 = false ∧ requestParked s (.ctx 0) = false
    ∧ ((s.barn (barnOf 0)).lastMatrix + 1) % 4 = coreOf 0 % 4 ∧ vat none (s.barn (barnOf 0)).tileLock (7 : TileReg).toNat = some 0 ∧ pointOf (s.ctx 0) = 0 ∧ pack = [0]
    ∧ (match checkPack u buf buf [] .mmd d (unfoldOf 0 0) 0x18 0x18 none pack [] [] with
        | .inr (done, got, bad) => done == [0] && got.length == 2 && bad.isNone
        | .inl _ => false) = true
    ∧ (match checkPack v buf buf [] .mmd d (unfoldOf 0 0) 0x18 0x18 none pack [] [] with
        | .inr (done, _, bad) => done == [] && bad.isSome
        | .inl _ => false) = true
    ∧ d.kg ≤ 2 * pointOf (e.ctx 0) ∧ (e.ctx 0).wait = .matrix := by decide +kernel
/-! Witnesses: rings, messages, timed actors. -/

/-- The port of a ring in the core's memory. -/
def port0 : Nat := coreLoc 0 0x4000

/-- A live ring of world 1 at that port, held by context 0. -/
def ring0 (timed : Bool) (cells : Nat) (xs : List Slot) : Ring :=
  { Ring.reset with live := true, timed := timed, cells := cells, origin := 0x4000, gen := 1, world := 1, saved := 0x33, length := 0x1000, reserve := 32768, issued := 1, owner := 0, launch := 1,
                    slots := xs }

/-- The receive end, and a send end, of that ring. -/
def recvEnd : Cap := { Cap.null with world := 1, gen := 1, count := 0x8000, kind := 4, rights := 0x11, length := 0xFC0, base := BitVec.ofNat 48 (port0 + 64) }
def sendEnd : Cap := { Cap.null with world := 1, gen := 1, count := 1, kind := 4, rights := 0x10, length := 64, base := BitVec.ofNat 48 port0, stag := 7 }

/-- A slot with a VRT. -/
def slot1 (st : SlotState) (v : Nat) : Slot :=
  { state := st, vrt := v, tag := 7, defer_ := false, cap := false, len := 8, payload := 5, side := Cap.null, took := Cap.null, sender := 0, remote := none }

/-- A state with the receive end in k2, the send end in k3, and a buffer with the send right in k4. -/
def ringed (r : Ring) (l : List (Nat × Word)) : State :=
  { (mk l [(2, recvEnd), (3, sendEnd), (4, { buf with base := 0x6000, rights := 0x33 })]) with rings := [(port0, r)], launches := [(1, launch1)] }

theorem witness_RingEnds :
    let s := mk [(8, 1), (9, 50)] [(2, { buf with rights := 0x33 })]
    InWindow s (topOf [127]) ∧ (s.me.actor && s.me.began) = false ∧ (s.k 2).plainOwned = true ∧ (s.k 2).world = s.me.world ∧ (s.k 2).read = true ∧ (s.k 2).write = true
    ∧ (s.k 2).send = true ∧ ringPlace s (s.k 2) = some port0 ∧ rangeStashed s port0 (s.k 2).length.toNat = false ∧ (s.w 8).toNat = 1 + (if false then 2 ^ 16 else 0)
    ∧ (s.w 9).toNat = 50 + 0 ∧ 64 + 80 * 50 ≤ (s.k 2).length.toNat ∧ pinned s s.cur.ctx (s.k 2) = false ∧ makesFeed s false = false
    ∧ (let u := s.modMe fun x => { x with actor := true }
       u.me.actor = true ∧ (u.rings.any fun r => r.2.live && r.2.timed && r.2.owner == u.cur.ctx) = false ∧ makesFeed u true = false) := by decide +kernel
theorem witness_RingEnds_ends :
    let s := ringed (ring0 false 4 []) [(8, 1), (9, 32767), (10, 32768)]
    recvEndSteps s (s.k 2) = .ok () ∧ s.k 1 = Cap.null ∧ 1 ≤ (s.w 8).toNat ∧ (s.w 9).toNat ≤ (s.ring (portOf (s.k 2))).reserve - 1
    ∧ ¬(1 ≤ (s.w 10).toNat ∧ (s.w 10).toNat ≤ (s.ring (portOf (s.k 2))).reserve - 1) ∧ genOk s (s.k 2) = true ∧ genOk s (s.k 3) = true ∧ farEnd s (s.k 3) = none
    ∧ farEnd s (s.k 2) = none ∧ pinned s s.cur.ctx (s.k 2) = false ∧ pinned s s.cur.ctx (s.k 3) = false ∧ (s.k 3).count ≠ 32768 ∧ (s.k 2).count = 32768
    ∧ (s.ring (portOf (s.k 2))).timed = false ∧ (s.ring (portOf (s.k 2))).fault = false ∧ (s.ring (portOf (s.k 2))).reserve = 32768 ∧ (s.ring (portOf (s.k 2))).slots = [] := by decide +kernel

theorem witness_MessagesTravel_send :
    let s := ringed (ring0 false 4 []) []
    let u : State := { s with posted := [{ id := 0, src := 0, loc := 2 ^ 64, op := .flagInc, cap := s.k 4, txid := none, prev := none }] }
    InWindow s ((122 : WReg).toNat + payloadRegs (48 : BitVec 6).toNat) ∧ s.me.actor = false ∧ sendEndSteps s (s.k 3) = .ok () ∧ (s.heldRing (portOf (s.k 3))).timed = false
    ∧ goneEnd s s.me.launch (s.k 3) = false
    ∧ (let z : State := { (ringed (ring0 false 4 []) []).modMe (fun x => { x with k := vset x.k 3 { sendEnd with base := BitVec.ofNat 48 (2 ^ 47 + port0) } }) with
         hitches := [{ hitch4 with member := [(1, .gone)] }] }
       InWindow z ((122 : WReg).toNat + 6) ∧ z.me.state = .ready ∧ sendEndSteps z (z.k 3) = .ok () ∧ (z.heldRing (portOf (z.k 3))).timed = false ∧ goneEnd z z.me.launch (z.k 3) = true)
    ∧ s.me.state = .ready ∧ carrySteps s (s.k 4) (portOf (s.k 3)) (farEnd s (s.k 3)).isSome = .ok () ∧ pinned s s.cur.ctx (s.k 4) = false
    ∧ sendEndSteps u (u.k 3) = .ok () ∧ carrySteps u (u.k 4) (portOf (u.k 3)) (farEnd u (u.k 3)).isSome = .ok () ∧ pinned u u.cur.ctx (u.k 4) = true := by decide +kernel
theorem witness_MessagesTravel_receive :
    let s := ringed (ring0 false 4 [slot1 .pending 0]) []
    let u := ringed (ring0 false 4 []) []
    InWindow s ((120 : WReg).toNat + 8) ∧ s.me.actor = false ∧ Free s ∧ recvEndSteps s (s.k 2) = .ok () ∧ (s.ring (portOf (s.k 2))).timed = false
    ∧ (s.ring (portOf (s.k 2))).slots = [slot1 .pending 0] ∧ (slot1 .pending 0).cap = false ∧ recvEndSteps u (u.k 2) = .ok () ∧ (u.ring (portOf (u.k 2))).slots = [] := by decide +kernel

/-- A message of context 0 to the ring. -/
def msg0 (kind : MsgKind) : Msg := { Msg.plain kind 0 port0 with id := 5, vrt := 9, len := 8, payload := 5, dest := 1 }

/-- The same ring with a message on its way from context 0, which waits. -/
def sending (r : Ring) (m : Msg) : State :=
  { (ringed r []).modMe (fun x => { x with state := .waiting, wait := .ring 5, latch := some held0 }) with msgs := [m] }

theorem witness_MessagesTravel_arrive :
    let s := sending (ring0 false 1 []) (msg0 .untimed)
    let u := sending (ring0 false 1 [slot1 .pending 0]) (msg0 .untimed)
    let v := sending { ring0 false 1 [] with owner := 70 } (msg0 .untimed)
    let far := { msg0 .untimed with dest := 2 }
    let z : State := { sending (ring0 false 1 []) far with launches := [(1, launch1), (2, { launch1 with stage := .saved })] }
    destAway s (msg0 .untimed) = false ∧ destAway u (msg0 .untimed) = false ∧ destAway v (msg0 .untimed) = false
    ∧ (destAway z far = true ∧ msgOf z 5 = some far ∧ far.far = false ∧ hasPosted z 0 = false ∧ msgOut z far = false ∧ copying z far = false)
    ∧ (msgOf s 5 = some (msg0 .untimed) ∧ hasPosted s 0 = false ∧ msgOut s (msg0 .untimed) = false ∧ copying s (msg0 .untimed) = false ∧ (msg0 .untimed).far = false
      ∧ ringRefuses s (msgWorld s (msg0 .untimed)) 0 (msgLaunch s (msg0 .untimed)) port0 false = none ∧ ringAway s port0 = false ∧ (s.ring port0).slots.length < (s.ring port0).cells)
    ∧ (ringRefuses u (msgWorld u (msg0 .untimed)) 0 (msgLaunch u (msg0 .untimed)) port0 false = none ∧ ringAway u port0 = false ∧ (u.ring port0).cells ≤ (u.ring port0).slots.length)
    ∧ (ringRefuses v (msgWorld v (msg0 .untimed)) 0 (msgLaunch v (msg0 .untimed)) port0 false = none ∧ ringAway v port0 = true) := by decide +kernel

/-- A packet of the hitch's member 0 that carries a message to the ring. -/
def ringPacket : Packet :=
  { Packet.blank with type := 0x07, world := 1, hitch := 7, gen := 5, dmem := 1, off := BitVec.ofNat 40 (port0 - 2 ^ 40), vrt := 9, flits := [0] }

theorem witness_MessagesTravel_packet :
    let s : State := { ringed (ring0 false 1 []) [] with hitches := [hitch4] }
    let u : State := { ringed (ring0 false 1 [slot1 .pending 0]) [] with hitches := [hitch4] }
    ingress s ringPacket (fun l => inPaddock l ringPacket.off.toNat) = .ok (hitch4, launch1) ∧ launch1.stage ≠ .saved ∧ (packetMsg ringPacket .untimed).port = port0 ∧ (s.ring port0).live = true
    ∧ (s.ring port0).timed = false ∧ ringAway s port0 = false ∧ (s.ring port0).slots.length < (s.ring port0).cells
    ∧ ingress u ringPacket (fun l => inPaddock l ringPacket.off.toNat) = .ok (hitch4, launch1) ∧ (u.ring port0).cells ≤ (u.ring port0).slots.length
    ∧ (packetMsg ringPacket .untimed).defer_ = false
    ∧ (let p := { ringPacket with flits := [2 ^ 73] }
       let v : State := u.setCtx 0 { tenant with state := .ended }
       ingress v p (fun l => inPaddock l p.off.toNat) = .ok (hitch4, launch1) ∧ (packetMsg p .untimed).defer_ = true ∧ (v.ctx (v.ring port0).owner).state = .ended)
    ∧ (let l := { launch1 with stage := .saved }
       let v : State := { s with launches := [(1, l)] }
       ingress v ringPacket (fun l => inPaddock l ringPacket.off.toNat) = .ok (hitch4, l) ∧ l.stage = .saved)
    ∧ (let v : State := { ringed (ring0 true 1 []) [] with hitches := [hitch4] }
       let z : State := { ringed { ring0 false 1 [] with owner := 70 } [] with hitches := [hitch4] }
       ingress v ringPacket (fun l => inPaddock l ringPacket.off.toNat) = .ok (hitch4, launch1) ∧ (v.ring port0).timed = true
       ∧ ingress z ringPacket (fun l => inPaddock l ringPacket.off.toNat) = .ok (hitch4, launch1) ∧ ringAway z port0 = true) := by decide +kernel
theorem witness_MessagesTravel_copy :
    let p1 := barnLoc 1 0x10000
    let m : Msg := { Msg.plain .untimed 0 p1 with id := 5, copy := true, orig := { buf with base := 0x6000, length := 0x80 }, cap := { buf with base := 0x6000, length := 0x80 } }
    let s : State := { sending (ring0 false 1 []) m with rings := [(p1, { ring0 false 4 [] with owner := 256 })], barns := [(0, { Barn.reset with world := 1 }), (1, { Barn.reset with world := 1 })] }
    msgOf s 5 = some m ∧ hasPosted s 0 = false ∧ m.far = false ∧ copying s m = false ∧ destAway s m = false ∧ place (coreOf m.from_) m.orig.base.toNat = .sram (coreLoc 0 0x6000)
    ∧ lockedAny s (coreLoc 0 0x6000) m.orig.length.toNat = false ∧ rangeReadable s (coreLoc 0 0x6000) m.orig.length.toNat = true ∧ ringRefuses s (msgWorld s m) (barnOf m.from_) (msgLaunch s m) m.ring false = none
    ∧ freeRunAt (s.barn (portBarn m.ring)).pool (runBlocks m.orig) = some 0 ∧ s.slots = [] := by decide +kernel

/-- A timed actor of the launch that has begun, with room in its loft. -/
def acting (r : Ring) (l : List (Nat × Word)) (f : Ctx → Ctx) : State :=
  (ringed r l).modMe fun x => f { x with actor := true, actorId := 3, lvt := 0x20000000, seq := 4, handling := true, began := true, loft := { Loft.empty with length := 0x2000 } }

theorem witness_TimedActors_send :
    let s := acting (ring0 true 4 []) [(8, 2), (9, 0xFFFFFFFFF), (10, 0x1000000000), (11, 1)] id
    InWindow s (max ((8 : WReg).toNat + 1) ((122 : WReg).toNat + payloadRegs (48 : BitVec 6).toNat)) ∧ s.me.actor = true ∧ sendEndSteps s (s.k 3) = .ok ()
    ∧ farEnd s (s.k 3) = none ∧ (s.heldRing (portOf (s.k 3))).timed = true ∧ goneEnd s s.me.launch (s.k 3) = false
    ∧ (let e : SendLog := { vrt := 2 * 0x10000000 + 3 * 0x400 + 5, during := 0x20000000, port := port0, kd := none, cap := Cap.null, live := true, recalled := false, tx := 0, slots := [] }
       let u := s.modMe fun x => { x with loft := { x.loft with sends := [e] } }
       u.me.actor = true ∧ sendEndSteps u (u.k 3) = .ok () ∧ (u.me.loft.sends.any fun e => e.vrt == 2 * 0x10000000 + 3 * 0x400 + 5 && e.live) = true)
    ∧ 0x1000000000 ≤ (s.w 10).toNat ∧ (s.w 9).toNat < 0x1000000000 ∧ (s.w 11).toNat * 0x10000000 + 3 * 0x400 + 5 ≤ s.me.lvt.toNat
    ∧ s.me.lvt.toNat < (s.w 8).toNat * 0x10000000 + 3 * 0x400 + 5 ∧ (s.me.loft.sends.any (·.vrt == 2 * 0x10000000 + 3 * 0x400 + 5)) = false ∧ loftRoom s.me 32 = .ok true ∧ s.me.state = .ready
    ∧ carrySteps s (s.k 4) (portOf (s.k 3)) false = .ok () ∧ pinned s s.cur.ctx (s.k 4) = false := by decide +kernel
theorem witness_TimedActors_recall :
    let e : SendLog := { vrt := 0x30000C05, during := 0x20000000, port := port0, kd := none, cap := Cap.null, live := true, recalled := false, tx := 0, slots := [] }
    let s := acting (ring0 true 4 []) [(8, 0x30000C05), (9, 0xFFFF), (10, 0x10000)] fun x => { x with loft := { x.loft with sends := [e] } }
    InWindow s (topOf [127]) ∧ (s.w 9).toNat < 0x10000 ∧ 0x10000 ≤ (s.w 10).toNat
    ∧ (s.me.loft.sends.find? fun e => e.vrt == (s.w 8).toNat && e.during == stampOf s.me && e.live && !e.recalled) = some e ∧ e.cap.isNull = true ∧ e.refused = false ∧ s.me.state = .ready ∧ s.me.actor = true
    ∧ (let f := { e with refused := true }
       let u := acting (ring0 true 4 []) [(8, 0x30000C05)] fun x => { x with loft := { x.loft with sends := [f] } }
       InWindow u (topOf [8]) ∧ u.me.actor = true ∧ (u.me.loft.sends.find? fun e => e.vrt == (u.w 8).toNat && e.during == stampOf u.me && e.live && !e.recalled) = some f ∧ f.refused = true)
    ∧ (s.me.loft.sends.find? fun e => e.vrt == (s.w 9).toNat && e.during == stampOf s.me && e.live && !e.recalled) = none := by decide +kernel
theorem witness_TimedActors_receive :
    let s := acting (ring0 true 4 [slot1 .pending 0x30000000]) [] id
    let u := acting (ring0 true 4 []) [] id
    InWindow s ((120 : WReg).toNat + 8) ∧ recvEndSteps s (s.k 2) = .ok () ∧ (s.ring (portOf (s.k 2))).timed = true ∧ s.me.loft.used + (384 + 64 * (maskGroups s.me).length) ≤ s.me.loft.length
    ∧ hasPosted s s.cur.ctx = false ∧ mustRoll s = false ∧ leastPending (s.ring (portOf (s.k 2))).slots = some (slot1 .pending 0x30000000) ∧ (slot1 .pending 0x30000000).cap = false
    ∧ recvEndSteps u (u.k 2) = .ok () ∧ mustRoll u = false ∧ leastPending (u.ring (portOf (u.k 2))).slots = none := by decide +kernel
theorem witness_TimedActors_roll :
    let s0 := acting (ring0 true 4 [slot1 .pending 0x25000000, slot1 .handled 0x30000000]) [] id
    let s := s0.modMe fun x => { x with loft := { x.loft with checkpoints := [checkpointOf s0 0x30000000] } }
    AtIssue s ∧ s.me.actor = true ∧ mustRoll s = true ∧ timedPort s 0 = some port0 ∧ hasPosted s 0 = false ∧ (s.me.loft.sends.any (·.refused)) = false ∧ pendingRoll s 0 = some 0x25000000
    ∧ mustRoll (acting (ring0 true 4 []) [] id) = false := by decide +kernel
theorem witness_TimedActors_defer :
    let s0 := acting (ring0 false 4 []) [(8, 0xFF8), (9, 3)] id
    let s : State := { s0 with launches := [(1, { launch1 with notify := [0xFFFFFFFF, 0xFFFFFFFF, 0xFFFFFFFF, 2], gvt := 5 })] }
    InWindow s (max (topOf [120, 9]) ((120 : WReg).toNat + 6)) ∧ loftRoom s.me 80 = .ok true
    ∧ capSteps s (s.k 4) .deferred = .ok () ∧ (s.k 4).logged = false ∧ boundsStep s s.myCore s.me.world (s.k 4) (s.w 8).toNat 8 = .ok 0x6FF8 ∧ (s.w 8).toNat % 8 = 0
    ∧ (s.k 4).kind ≠ 6 ∧ sendEndSteps s (s.k 3) = .ok () ∧ (s.heldRing (portOf (s.k 3))).timed = false
    ∧ (s.launch? s.me.launch).isSome = true ∧ (s.w 9).toNat < 4 ∧ [0xFFFFFFFF, 0xFFFFFFFF, 0xFFFFFFFF, (2 : BitVec 32)].getD (s.w 9).toNat 0xFFFFFFFF ≠ 0xFFFFFFFF
    ∧ (s.w 9).toNat < (gvtOf s 0).toNat ∧ (gvtOf s 0).toNat ≤ (s.w 8).toNat := by decide +kernel
theorem witness_ActorForms :
    AtIssue (acting (ring0 true 4 []) [] id) ∧ (acting (ring0 true 4 []) [] id).me.actor = true ∧ (acting (ring0 true 4 []) [] id).me.began = true
    ∧ AtIssue (mk [] []) ∧ (mk [] []).me.actor = false := by decide +kernel

theorem witness_TimedStepsAndReleases_arrive :
    let m := { msg0 .timed with vrt := 0x30000000, colour := some false }
    let far := { Msg.plain .timed 0 (barnLoc 1 0x10000) with id := 5, vrt := 9 }
    let s := sending (ring0 true 1 []) m
    let u := sending (ring0 true 1 [slot1 .parked 0x30000000]) m
    let v := sending (ring0 true 1 []) far
    let h := sending (ring0 true 2 [slot1 .handled 0x40000000]) m
    let g := { m with dest := 2 }
    let z : State := { sending (ring0 true 1 []) g with launches := [(1, launch1), (2, { launch1 with stage := .saved })] }
    destAway s m = false ∧ destAway u m = false ∧ destAway h m = false
    ∧ (destAway z g = true ∧ msgOf z 5 = some g ∧ unstamped g = false ∧ g.far = false ∧ hasPosted z 0 = false ∧ msgOut z g = false ∧ copying z g = false)
    ∧ (msgOf s 5 = some m ∧ hasPosted s 0 = false ∧ msgOut s m = false ∧ copying s m = false ∧ unstamped m = false ∧ m.far = false
      ∧ ringRefuses s (msgWorld s m) 0 (msgLaunch s m) port0 false = none ∧ ringAway s port0 = false ∧ ((s.ring port0).slots.find? (·.vrt == m.vrt)) = none
      ∧ (s.ring port0).slots.length < (s.ring port0).cells)
    ∧ ((u.ring port0).slots.find? (·.vrt == m.vrt) = some (slot1 .parked 0x30000000) ∧ m.cap = Cap.null)
    ∧ (msgOf v 5 = some far ∧ unstamped far = true ∧ msgOut v far = false)
    ∧ (slot1 .handled 0x40000000 ∈ (h.ring port0).slots ∧ m.vrt < 0x40000000) := by decide +kernel
theorem witness_TimedStepsAndReleases_recall :
    let m := { msg0 .recall with vrt := 0x30000000, colour := some false }
    let s (xs : List Slot) := sending (ring0 true 1 xs) m
    msgOf (s []) 5 = some m ∧ msgOut (s []) m = false ∧ unstamped m = false ∧ m.far = false ∧ destAway (s []) m = false ∧ ringAway (s []) port0 = false
    ∧ (let e : SendLog := { vrt := m.vrt, during := 1, port := port0, kd := none, cap := Cap.null, live := true, recalled := true, tx := 0, slots := [] }
       let f := (s [slot1 .pending 0x40000000]).modMe fun x => { x with actor := true, wait := .recall m.vrt 4, loft := { x.loft with sends := [e] } }
       msgOf f 5 = some m ∧ msgOut f m = false ∧ destAway f m = false ∧ ringAway f port0 = false ∧ (f.ring port0).slots.find? (·.vrt == m.vrt) = none
       ∧ (f.ring port0).cells ≤ (f.ring port0).slots.length ∧ f.ctxs.find? (fun c => awaits c.2 m.port m.vrt) = some (0, f.ctx 0) ∧ (f.ctx 0).state = .waiting)
    ∧ ((s [slot1 .pending 0x30000000]).ring port0).slots.find? (·.vrt == m.vrt) = some (slot1 .pending 0x30000000) ∧ (slot1 .pending 0x30000000).side = Cap.null
    ∧ ((s [slot1 .handled 0x30000000]).ring port0).slots.find? (·.vrt == m.vrt) = some (slot1 .handled 0x30000000)
    ∧ ((s []).ring port0).slots.find? (·.vrt == m.vrt) = none ∧ ((s []).ring port0).slots.length < ((s []).ring port0).cells := by decide +kernel
theorem witness_TimedStepsAndReleases_ack :
    let e : SendLog := { vrt := 9, during := 1, port := port0, kd := none, cap := Cap.null, live := true, recalled := true, tx := 0, slots := [] }
    let s : State := { (sending (ring0 true 1 []) (msg0 .ack)).modMe (fun x => { x with actor := true, wait := .recall 9 4, loft := { x.loft with sends := [e] } }) with stamp := 6 }
    msgOf s 5 = some (msg0 .ack) ∧ 5 < s.stamp ∧ s.ctxs.find? (fun c => awaits c.2 (msg0 .ack).port (msg0 .ack).vrt) = some (0, s.ctx 0) ∧ (s.ctx 0).state ≠ .transfer
    ∧ (s.ctx 0).wait = .recall (msg0 .ack).vrt 4 ∧ logEntry s 0 (msg0 .ack).vrt = some e := by decide +kernel
theorem witness_TimedStepsAndReleases_sweep :
    let s := ringed (ring0 true 1 []) []
    let u : State := { s with launches := [(1, { launch1 with round := some true })] }
    let v := u.modBarn 0 fun b => { b with s1 := 1 }
    s.launch? 1 = some launch1 ∧ launch1.round = none ∧ launch1.stage ≠ .saved ∧ hitchOf s 1 = none ∧ (paddockBarns launch1).head? = some 0
    ∧ (paddockBarns launch1).count 0 = 1 ∧ u.launch? 1 = some { launch1 with round := some true } ∧ hitchOf u 1 = none ∧ hitchOf v 1 = none ∧ (sweepPart u 1 { launch1 with round := some true } true).1 = 0
    ∧ (sweepPart v 1 { launch1 with round := some true } true).1 ≠ 0 := by decide +kernel
/-! Witnesses: gates, queues, mailboxes, copy channels, hitches. -/

/-- A context of the launch, its core's gate 2 armed with a descriptor and arrivals. -/
def gated (d : Word) (f : Gate → Gate) (r : List (Nat × Word)) : State :=
  { setGate (mk r []) 0 2 (f { Gate.reset with armed := true, desc := d }) with launches := [(1, launch1)] }

/-- The coordinates of an arriver. -/
def arriver : List Nat := List.replicate 8 0

/-- A descriptor of the first core of the first barn: one arrival, and an operation (R244). -/
def gdesc (op : Nat) : Word := BitVec.ofNat 64 (2 ^ 44 + 2 ^ 40 * op + 2 ^ 32)

theorem witness_Gates_garm :
    let s := { mk [(8, gdesc 1)] [] with launches := [(1, launch1)] }
    InWindow s (topOf [8, 127]) ∧ s.me.actor = false ∧ gateFits s s.myCore (s.w 8) = true ∧ (gateOf s s.myCore (2 : GReg).toNat).armed = false
    ∧ InWindow s (topOf [9, 127]) ∧ gateFits s s.myCore (s.w 9) = false := by decide +kernel
theorem witness_Gates_none_waits : ∀ c, waitsGate { mk [(8, gdesc 1)] [] with launches := [(1, launch1)] } c (2 : GReg).toNat = false := by
  intro c
  by_cases h : c = 0
  · subst h; decide +kernel
  · have x : ({ mk [(8, gdesc 1)] [] with launches := [(1, launch1)] } : State).ctxs = [(0, tenant)] := by decide +kernel
    have e : ({ mk [(8, gdesc 1)] [] with launches := [(1, launch1)] } : State).ctx c = Ctx.reset :=
      (congrArg (fun m => mget Ctx.reset m c) x).trans (by simp [mget, Ne.symm h])
    simp [waitsGate, e, Ctx.reset]
theorem witness_Gates_arrivals :
    let s := gated (gdesc 1) id [(8, 5)]
    let full (x : Gate) : Gate := { x with counted := [{ ctx := 5, val := some 3, phase := 0, at_ := 0, coords := arriver }, { ctx := 5, val := none, phase := 1, at_ := 1, coords := arriver }] }
    let u := gated (gdesc 1) full [(8, 5)]
    let x := gateOf s s.myCore 2
    let y := gateOf u u.myCore 2
    x.armed = true ∧ gateFits s s.myCore (gdesc 1) = true ∧ (let z := gated (gdesc 1) (fun x => { x with entered := true }) [(8, gdesc 1)]; (gateOf z z.myCore 2).armed = true ∧ gateFits z z.myCore (z.w 8) = true
      ∧ (gateOf z z.myCore 2).entered = true) ∧ 0 < ((y.counted ++ y.waiting).filter (·.phase == y.phase)).length ∧ ((x.counted ++ x.waiting).filter (·.phase == x.phase)).length < (gateDesc x.desc).count
    ∧ (gateDesc y.desc).count ≤ ((y.counted ++ y.waiting).filter (·.phase == y.phase)).length
    ∧ (gateDesc y.desc).count ≤ ((y.counted ++ y.waiting).filter (·.phase == y.phase + 1)).length ∧ Free s
    ∧ x.released.find? (·.1 == gatePhase s x 2) = none
    ∧ (let z := gated (gdesc 1) (fun x => { x with released := [(0, 7)] }) []
       (gateOf z z.myCore 2).released.find? (·.1 == gatePhase z (gateOf z z.myCore 2) 2) = some (0, 7)) := by decide +kernel
theorem witness_Gates_counts :
    let e : Arrival := { ctx := 0, val := some 3, phase := 0, at_ := 0, coords := arriver }
    let s := gated (gdesc 1) (fun x => { x with waiting := [e] }) []
    (gateOf s (coreOf 0) (2 : GReg).toNat).waiting.find? (·.ctx == 0) = some e ∧ earlierDone s 0 e.at_ = true := by decide +kernel
theorem witness_Gates_mismatch :
    let l := { held0 with word := encode (.gwait 127 2) }
    let s := (gated (gdesc 1) id []).modMe fun x => { x with state := .waiting, wait := .cond, latch := some l, arrived := vset x.arrived 2 (some 0) }
    launchOfCore s 0 = some launch1 ∧ (gateOf s 0 2).armed = true ∧ (gateOf s 0 2).released = [] ∧ sweepOf (gateDesc (gdesc 2)) 0 ≠ sweepOf (gateDesc (gdesc 1)) 0
    ∧ 0 ∈ gateCores launch1 (gateDesc (gdesc 1)) ∧ 0 ∈ ctxsOfCore 0 ∧ waitsGate s 0 (2 : GReg).toNat = true := by decide +kernel
theorem witness_Gates_release :
    let s := gated (gdesc 1) (fun x => { x with entered := true, counted := [{ ctx := 0, val := some 3, phase := 0, at_ := 0, coords := arriver }] }) []
    let x := gateOf s 0 2
    launchOfCore s 0 = some launch1 ∧ x.armed = true ∧ sweepOf (gateDesc (gdesc 2)) x.phase ≠ sweepOf (gateDesc x.desc) x.phase
    ∧ sweepOf (gateDesc x.desc) (x.phase + 1) ≠ sweepOf (gateDesc x.desc) x.phase ∧ allEntered s 0 2 = true ∧ sweeping s launch1 (gateDesc x.desc) 2 x.phase = false
    ∧ hitchGate s launch1 (s.barn (barnOfCore 0)).launch 2 (gateDesc x.desc) = none := by decide +kernel

/-- A context of core 0 with a number, and entries in queue 3. -/
def queued (n : Nat) (es : List HEntry) (r : List (Nat × Word)) (k : List (KReg × Cap)) : State :=
  withRegs r (setQueueOf { at0 Ctx.reset with ctxs := [(n, caps k tenant)], cur := { Issue.none with ctx := n, codept := 67 } } 0 3 es)

/-- An entry of a hand-off queue. -/
def hentry (g : Bool) : HEntry := { val := 9, by_ := 5, given := g, at_ := 0 }

theorem witness_QueuesAndMailboxes :
    let s := queued 0 [hentry true, hentry false] [] []
    let u := queued 0 (List.replicate 8 (hentry false)) [] []
    InWindow s (max (topOf [127]) ((124 : WReg).toNat + 4)) ∧ s.me.actor = false ∧ (queueOf s s.myCore 3).length < 8 ∧ mustQueue s (pushWord 3) = false ∧ mustQueue s (popWord 3) = false
    ∧ 8 ≤ (queueOf u u.myCore 3).length ∧ queueOf s s.myCore 3 = hentry true :: [hentry false] ∧ queueOf u u.myCore 3 = hentry false :: List.replicate 7 (hentry false)
    ∧ (queueOf s 0 3)[1]? = some (hentry false) ∧ earlierDone s (hentry false).by_ (hentry false).at_ = true ∧ queueOf s s.myCore 2 = [] ∧ Free s := by decide +kernel

/-- Two buffers between which a copy may run. -/
def copier (n : Nat) (r : List (Nat × Word)) : State := queued n [] r [(2, buf), (3, { buf with base := 0x6000 })]

/-- A mailbox request of context 5. -/
def box0 : Mailbox := { word := 0x123456789, kb := buf, kc := buf, by_ := 5, at_ := 0 }

theorem witness_QueuesAndMailboxes_box :
    let s := copier 0 [(8, 0x40), (9, 0x80), (10, 64), (11, 0xFFFFFFFFFFFFFFFF)]
    let u := (setBox (copier 63 []) 0 7 (some box0)).modMe fun x => { x with sys := true }
    s.wn ((8 : WReg).toNat + 3) = 0xFFFFFFFFFFFFFFFF ∧ (copySteps s (s.k 2) (s.k 3) (s.w 8).toNat (s.wn ((8 : WReg).toNat + 1)).toNat (s.wn ((8 : WReg).toNat + 2)).toNat).toOption = some (0x4040, 0x6080)
    ∧ boxOf s s.myCore 7 = none ∧ mustQueue s (putWord 7) = false ∧ (boxOf (setBox s 0 7 (some box0)) s.myCore 7).isSome = true
    ∧ InWindow u ((124 : WReg).toNat + 4) ∧ numOf u.cur.ctx = 63 ∧ u.me.sys = true ∧ AtIssue s ∧ boxOf u u.myCore 7 = some box0 ∧ boxOf u u.myCore 0 = none ∧ numOf s.cur.ctx ≠ 63 := by decide +kernel

theorem witness_ChannelCommands :
    let s := copier 0 [(125, 0x40), (126, 0x80), (127, 64), (8, 0), (9, 0), (10, 0x1000)]
    InWindow s ((125 : WReg).toNat + 3) ∧ s.me.actor = false
    ∧ (copySteps s (s.k 2) (s.k 3) (s.w 125).toNat (s.wn ((125 : WReg).toNat + 1)).toNat (s.wn ((125 : WReg).toNat + 2)).toNat).toOption = some (0x4040, 0x6080)
    ∧ copyMeets s s.myCore s.me.asid.toNat s.me.world (s.k 2) 0x4040 (s.k 3) 0x6080 64 = false ∧ (chanOf s s.myCore (7 : ChReg).toNat).state = 0 ∧ mustQueue s (startWord 7) = false
    ∧ (copySteps s (s.k 2) (s.k 2) (s.w 8).toNat (s.wn ((8 : WReg).toNat + 1)).toNat (s.wn ((8 : WReg).toNat + 2)).toNat).toOption = some (0x4000, 0x4000)
    ∧ copyMeets s s.myCore s.me.asid.toNat s.me.world (s.k 2) 0x4000 (s.k 2) 0x4000 0x1000 = true ∧ Free s := by decide +kernel
theorem witness_ChannelCommands_address :
    let s := (copier 63 [(124, 0x4040), (125, 0x6080), (126, 64), (127, 1)]).modMe fun x => { x with sys := true }
    InWindow s ((124 : WReg).toNat + 4) ∧ s.me.actor = false ∧ s.me.sys = true ∧ (s.wn ((124 : WReg).toNat + 3)).getLsbD 11 = false
    ∧ addressSteps s 1 (s.w 124) 64 = .ok () ∧ addressSteps s 1 (s.wn ((124 : WReg).toNat + 1)) 64 = .ok () ∧ lengthSteps 64 = .ok ()
    ∧ copyMeets s s.myCore s.me.asid.toNat 1 Cap.null (s.w 124).toNat Cap.null (s.wn ((124 : WReg).toNat + 1)).toNat 64 = false := by decide +kernel
theorem witness_ChannelCommands_multicast :
    let k := { buf with base := 0x6000 }
    let s0 := copier 0 [(123, 0x40), (124, 0x100), (125, 64), (126, 2), (127, 0x80)]
    let s := { s0 with slots := [((coreLoc 0 0x6100) / 16, { k with base := 0x8000 }), ((coreLoc 0 0x6110) / 16, { k with base := 0xA000 })] }
    InWindow s ((123 : WReg).toNat + 5) ∧ capSteps s (s.k 2) .copySource = .ok () ∧ boundsStep s s.myCore s.me.world (s.k 2) (s.w 123).toNat 64 = .ok 0x4040
    ∧ (s.w 123).toNat % 64 = 0 ∧ (s.k 2).kind ≠ 6 ∧ capSteps s (s.k 3) .copySource = .ok () ∧ boundsStep s s.myCore s.me.world (s.k 3) 0x100 (16 * 2) = .ok 0x6100
    ∧ place s.myCore 0x6100 = .sram (coreLoc 0 0x6100)
    ∧ ((List.range 2).mapM fun j => tableSteps s (coreLoc 0 0x6100 + 16 * j) 0x80 64).toOption = some [0x8080, 0xA080]
    ∧ [0x8080, 0xA080].find? (fun d => copyMeets s s.myCore s.me.asid.toNat s.me.world (s.k 2) 0x4040 Cap.null d 64) = none
    ∧ lockedOut s s.cur.ctx (coreLoc 0 0x6100) 32 = false ∧ (∀ j, j < 2 → unreadable s (coreLoc 0 0x6100 + 16 * j) = false)
    ∧ unreadable (s.setPoison (coreLoc 0 0x6100) true) (coreLoc 0 0x6100 + 16 * 1) = true ∧ lockedOut (s.setPoison (coreLoc 0 0x6100) true) s.cur.ctx (coreLoc 0 0x6100) 32 = false
    ∧ (let j : KReg := 3
       let u := (copier 0 [(123, 0x40), (124, 0x100), (125, 64), (126, 2), (127, 0x80)]).modMe fun x => { x with k := vset x.k j.toNat { k with base := BitVec.ofNat 48 (coreLoc 1 0x6000) } }
       let v := u.modCore 1 fun x => { x with locks := [{ holder := 70, start := coreLoc 1 0x6100, len := 64 }] }
       capSteps v (v.k 3) .copySource = .ok () ∧ boundsStep v v.myCore v.me.world (v.k 3) 0x100 (16 * 2) = .ok (coreLoc 1 0x6100) ∧ place v.myCore (coreLoc 1 0x6100) = .sram (coreLoc 1 0x6100)
       ∧ lockedOut v v.cur.ctx (coreLoc 1 0x6100) 32 = true) := by decide +kernel
theorem witness_ChannelCommands_state :
    let s (st : Nat) (f : BitVec 8) := setChan (copier 0 []) 0 7 { Channel.reset with state := st, fcode := f }
    AtIssue (s 0 0) ∧ (chanOf (s 0 0) 0 7).fcode = 0 ∧ (chanOf (s 0 0x0C) 0 7).fcode ≠ 0 ∧ (chanOf (s 1 0) 0 7).state = 1
    ∧ (chanOf (s 2 0x0C) 0 7).state = 2 ∧ (chanOf (s 2 0x0C) 0 7).charged = none
    ∧ (let u := setChan (copier 0 []) 0 7 { Channel.reset with state := 2, fcode := 0x0C, len := 64, mark := 64, charged := some 0 }
       AtIssue u ∧ (chanOf u 0 7).state = 2 ∧ (chanOf u 0 7).charged = some u.cur.ctx ∧ (chanOf u 0 7).mcast = false ∧ (chanOf u 0 7).len ≤ (chanOf u 0 7).mark) ∧ (s 0 0).me.sys = false
    ∧ Free (s 2 0x0C) ∧ (s 2 0x0C).me.actor = false ∧ (s 2 0x0C).cur.latched = false ∧ blockInFlight (s 2 0x0C) 0 7 = false
    ∧ (let u : State := { setChan (s 1 0) 0 7 { chanOf (s 1 0) 0 7 with len := 64 } with txs := [] }
       (chanOf u 0 7).state ≠ 0 ∧ u.cur.latched = false ∧ blockInFlight u 0 7 = true)
    ∧ (let v (c : Bool) : State := { setChan (s 1 0) 0 7 { chanOf (s 1 0) 0 7 with cancel := c } with cur := { (s 1 0).cur with latched := true, ops := [1] } }
       ∀ c, (v c).cur.latched = true ∧ (v c).cur.ops ≠ [] ∧ (chanOf (v c) 0 7).state ≠ 0 ∧ (chanOf (v c) 0 7).cancel = c ∧ Free (v c)) := by decide +kernel

theorem witness_ChannelBlocks :
    let x : Channel := { Channel.reset with state := 1, src := 0x4000, dst := 0x6000, len := 128, mark := 64, world := 1, pins := [buf, buf] }
    let s := setChan (copier 0 []) 0 7 x
    chanOf s 0 7 = x ∧ x.mark = 64 * 1 ∧ x.written = [] ∧ x.len % 64 = 0 ∧ x.cancel = false ∧ chanReady s x = true ∧ x.far = [] ∧ x.data = [] ∧ chanViaEngine s 0 x = false
    ∧ standsBehind s 0 7 (x.src + 64 * 1) = false ∧ standsBehind s 0 7 (x.dst + 64 * 1) = false ∧ badSeal s x.world (coreLoc 0 0x4040) = false ∧ x.mcast = false
    ∧ (match sideOf s 0 x x.srcCap (x.src + 64 * 1) 64 false with | .ok loc sh => decide (loc = coreLoc 0 0x4040) && !sh | _ => false) = true
    ∧ (match sideOf s 0 x x.dstCap (x.dst + 64 * 1) 64 true with | .ok loc sh => decide (loc = coreLoc 0 0x6040) && !sh | _ => false) = true ∧ coreLoc 0 0x6040 % 64 = 0 := by decide +kernel
theorem witness_ChannelBlocks_complete :
    let m : Mailbox := { box0 with word := requestWord (some (meshForm 0 0x6FF8)) 128 0 0 1 0 }
    let x : Channel := { Channel.reset with state := 1, src := 0x4000, dst := 0x6000, len := 128, mark := 128, world := 1, pins := [buf, { buf with base := 0x6000 }] }
    let y := { x with mailbox := some m }
    let s := setChan (copier 0 []) 0 7 x
    let u := setChan (copier 0 []) 0 7 y
    (chanOf s 0 7).len ≤ (chanOf s 0 7).mark ∧ (chanOf s 0 7).far = [] ∧ (chanOf u 0 7).far = [] ∧ standsBehind u 0 7 (meshForm 0 0x6FF8) = false ∧ badSeal u y.world (coreLoc 0 0x6FF8) = false
    ∧ (chanOf s 0 7).mailbox.bind Mailbox.flag = none ∧ (chanOf u 0 7).mailbox.bind Mailbox.flag = some (meshForm 0 0x6FF8)
    ∧ (match sideOf u 0 y y.dstCap (meshForm 0 0x6FF8) 8 true with | .ok loc _ => decide (loc = coreLoc 0 0x6FF8) | _ => false) = true
    ∧ unreadable u (coreLoc 0 0x6FF8) = false ∧ InBlock (coreLoc 0 0x6FF8) 8 := by decide +kernel
theorem witness_ChannelBlocks_multicast :
    let x : Channel := { Channel.reset with state := 1, len := 64, mark := 64, mcast := true, dsts := [0x6000, 0x7000], full := [0, 1] }
    let s := setChan (copier 0 []) 0 7 x
    let u := setChan (copier 0 []) 0 7 { x with acked := [0] }
    (chanOf s 0 7).state = 1 ∧ (chanOf s 0 7).mcast = true ∧ (chanOf s 0 7).full.contains 0 = true ∧ (chanOf u 0 7).full.contains 1 = true ∧ (chanOf u 0 7).acked.contains 1 = false ∧ (chanOf s 0 7).acked.contains 0 = false
    ∧ (chanOf u 0 7).acked.length + 1 = (chanOf u 0 7).dsts.length ∧ (chanOf s 0 7).acked.length + 1 ≠ (chanOf s 0 7).dsts.length := by decide +kernel
theorem witness_ChannelBlocks_engine :
    let r : BteReq := { id := 5, core := 0, chan := 7, tries := 4, held := false, reserved := false }
    let h (n : Nat) (res : Bool) : List BteReq := (List.range n).map fun i => { r with id := 100 + i, held := true, reserved := res }
    let s (l : List BteReq) := State.setEngine State.reset 3 { Engine.reset with reqs := l ++ [r] }
    let used (s : State) (res : Bool) := ((s.engine 3).reqs.filter fun y => y.held && y.reserved == res).length
    ((s (h 55 false)).engine 3).reqs.find? (·.id == 5) = some r ∧ r.chan ≠ 8 ∧ used (s (h 55 false)) false < 56
    ∧ ((s (h 56 false)).engine 3).reqs.find? (·.id == 5) = some r ∧ 56 ≤ used (s (h 56 false)) false ∧ 4 ≤ r.tries ∧ used (s (h 56 false)) true < 8
    ∧ 56 ≤ used (s (h 56 false ++ h 8 true)) false ∧ 8 ≤ used (s (h 56 false ++ h 8 true)) true ∧ r.held = false
    ∧ r.due ≤ (s (h 55 false)).cycle := by decide +kernel

theorem witness_HitchForms :
    let s := hitched [(126, 0xF)]
    let g (a : List (Nat × Attach)) (st : HitchStage) : Hitch := { hitch4 with attach := a, stage := st }
    let u : State := { hitched [(126, 0xF), (124, 0x30), (122, 0x8)] with hitches := [g [(0, .attached), (1, .joining)] .bound] }
    InWindow s ((126 : WReg).toNat + 2) ∧ s.me.actor = false ∧ (windowSteps s (s.k 2)).toOption = some hitch4 ∧ hitchById s hitch4.id = some hitch4
    ∧ memberSet (s.wn (126 : WReg).toNat) (s.wn ((126 : WReg).toNat + 1)) = [0, 1, 2, 3]
    ∧ (∀ j ∈ [0, 1, 2, 3], j < hitch4.count ∧ hitch4.memberOf j = .resident ∧ hitch4.modeOf s.me.repro j = s.me.repro) ∧ (∀ j ∈ [0, 1, 2, 3], hitch4.attachOf j = .attached)
    ∧ (windowSteps u (u.k 2)).toOption = some (g [(0, .attached), (1, .joining)] .bound)
    ∧ (∀ j ∈ [0, 1, 2, 3], (g [(0, .attached), (1, .joining)] .bound).attachOf j ≠ .detaching) ∧ (∃ j ∈ [0, 1, 2, 3], (g [(0, .attached), (1, .joining)] .bound).attachOf j ≠ .attached)
    ∧ u.me.state = .ready ∧ memberSet (u.wn (124 : WReg).toNat) (u.wn ((124 : WReg).toNat + 1)) = [4, 5] ∧ [4, 5].Pairwise (· < ·)
    ∧ memberSet (u.wn (122 : WReg).toNat) (u.wn ((122 : WReg).toNat + 1)) = [3]
    ∧ ([0, 1, 2, 3].filter fun j => decide (j < hitch4.count) && hitch4.memberOf j ≠ .gone && hitch4.attachOf j ≠ .detached) = [0, 1, 2, 3]
    ∧ (s.k 2).full = false ∧ behindOther s hitch4 [0, 1, 2, 3] = false
    ∧ behindOther u (g [(0, .attached), (1, .joining)] .bound) [0, 1, 2, 3] = false
    ∧ (let h := { g [(0, .attached), (1, .detaching)] .bound with line := [(70, [1])] }
       let v : State := { (hitched [(126, 0x3)]).setCtx 70 { tenant with state := .waiting, wait := .cond, latch := some { held0 with word := encode (.hjoin 2 126) } } with hitches := [h] }
       (windowSteps v (v.k 2)).toOption = some h ∧ memberSet (v.wn 126) (v.wn 127) = [0, 1] ∧ behindOther v h [0, 1] = true ∧ (∃ j ∈ [0, 1], h.attachOf j = .detaching)
       ∧ (∀ j ∈ [0, 1], j < h.count ∧ h.memberOf j = .resident ∧ h.modeOf v.me.repro j = v.me.repro))
    ∧ (let h := g [(0, .attached), (1, .detaching)] .bound
       let v : State := { hitched [(126, 0x2)] with hitches := [h] }
       (windowSteps v (v.k 2)).toOption = some h ∧ behindOther v h [1] = false ∧ h.attachOf 1 = .detaching)
    ∧ (let h := g [(0, .attached), (1, .joining)] .bound
       let v : State := { hitched [(126, 0x2)] with hitches := [h] }
       behindOther v h [1] = false ∧ h.attachOf 1 = .joining ∧ ([1].filter fun j => decide (j < h.count) && h.memberOf j ≠ .gone && h.attachOf j ≠ .detached) = [1])
    ∧ ([3].filter fun j => decide (j < hitch4.count) && hitch4.memberOf j ≠ .gone && { hitch4 with attach := [] }.attachOf j ≠ .detached) = []
    ∧ (let v (h : Hitch) : State := { hitched [(126, 0xC)] with hitches := [h] }
       let gone := { hitch4 with member := [(3, .gone)] }
       let other := { hitch4 with modes := [(3, true)] }
       memberSet 0xC 0 = [2, 3] ∧ (windowSteps (v gone) ((v gone).k 2)).toOption = some gone ∧ gone.memberOf 3 ≠ .resident ∧ gone.memberOf 2 = .resident
       ∧ (windowSteps (v other) ((v other).k 2)).toOption = some other ∧ other.memberOf 3 = .resident ∧ other.modeOf (v other).me.repro 3 ≠ (v other).me.repro
       ∧ other.modeOf (v other).me.repro 2 = (v other).me.repro) := by decide +kernel
theorem witness_HitchForms_leave :
    let w := { window with count := 0x8000 }
    let s : State := { hitched [] with ctxs := (mk [] [(2, w)]).ctxs }
    let u : State := { s with hitches := [{ hitch4 with stage := .left }] }
    (windowSteps s (s.k 2)).toOption = some hitch4 ∧ (s.k 2).full = true ∧ hitch4.stage = .bound ∧ (∀ j, j < hitch4.count → hitch4.attachOf j ≠ .joining)
    ∧ (∃ j, j < hitch4.count ∧ hitch4.attachOf j = .attached) ∧ s.me.state = .ready
    ∧ (windowSteps u (u.k 2)).toOption = some { hitch4 with stage := .left } := by
  refine ⟨by decide +kernel, by decide +kernel, by decide +kernel, ?_, ⟨0, by decide +kernel⟩, by decide +kernel, by decide +kernel⟩
  exact fun j h => (show ∀ j : Fin 4, hitch4.attachOf j ≠ .joining from by decide +kernel) ⟨j, h⟩
/-! Witnesses: special registers, system forms, steps of the scheduler. -/

/-- A supervisor of the launch on core 0, a parked context 5 of core rank 3, and a tile and a lock that it holds. -/
def supervisor (r : List (Nat × Word)) (l : Latch) : State :=
  let s := { (withRegs r (at0 { tenant with sup := true, rank := 1 })) with launches := [(1, launch1)] }
  let s := s.setCtx 5 { tenant with
    state := .parked, rank := 3, pc := 130, latch := some l, progress := 9,
    record := some { addr := 1, progress := 9, codept := 130, insn := 7, detail := 0, code := 8, paired := false, inEvent := false, entry := false, late := false } }
  (s.modBarn 0 fun b => { b with tileLock := vset b.tileLock 2 (some 5) }).modCore 0 fun c => { c with locks := [{ holder := 5, start := coreLoc 0 0x4000, len := 64 }] }

theorem witness_SpecialRegisters :
    let s := mk [(127, 0x20), (8, 0)] []
    let u : State := { mk [(8, 0), (9, 5), (10, 6)] [] with cycle := 5 }
    AtIssue s ∧ InWindow s (topOf [127]) ∧ Free s ∧ s.me.wsize ≤ 16 ∧ s.me.levels ≤ 8 ∧ u.w 8 = 0 ∧ u.cycle < (u.w 10).toNat ∧ u.w 9 ≠ 0 ∧ (u.w 9).toNat ≤ u.cycle
    ∧ (7 : BitVec 8).toNat = 7 ∧ 0x1A ≤ (0x1A : BitVec 8).toNat ∧ knownReg (0x19 : BitVec 8).toNat = true ∧ writableReg (0x19 : BitVec 8).toNat = false ∧ s.me.sup = false ∧ s.me.sys = false
    ∧ ((supervisor [] held0).me.sup || (supervisor [] held0).me.sys) = true ∧ (s.modMe fun x => { x with repro := true }).me.repro = true
    ∧ readRefused 0x19 = true ∧ readRefused 0x00 = false := by decide +kernel
theorem witness_SupervisorForms :
    let s := supervisor [(8, 3), (9, 1), (10, 63), (11, 64)] held0
    let h (r : Word) := (mk [] []).modMe fun x => { x with inEvent := true, evtRet := r }
    AtIssue s ∧ (s.me.sup || s.me.sys) = true ∧ InWindow s (topOf [127, 8]) ∧ (s.w 8).toNat < 64 ∧ (s.w 10).toNat < 64 ∧ 64 ≤ (s.w 11).toNat ∧ ctxOfRank s 3 = some 5 ∧ ctxOfRank s 1 = some 0
    ∧ ctxOfRank s 63 = none ∧ (s.ctx 0).state ≠ .parked ∧ 5 ≠ s.cur.ctx ∧ (s.ctx 5).state = .parked ∧ (s.ctx 5).latch = some held0 ∧ held0.entry = none
    ∧ (h 0x44).me.inEvent = true ∧ pointOk (h 0x44).me.evtRet = true ∧ pointOk (h 0x45).me.evtRet = false ∧ (mk [] []).me.inEvent = false := by decide +kernel
theorem witness_SystemForms :
    let s := (mk [(126, 31), (125, 0xFF), (124, 65535), (123, 65536), (122, 32)] [(2, buf), (3, { buf with count := 0x4000 })]).modMe fun x => { x with sys := true }
    AtIssue s ∧ s.me.sys = true ∧ InWindow s (topOf [127, 126]) ∧ (s.w 126).toNat < 32 ∧ (s.w 125).toNat = 0xFF ∧ (s.w 124).toNat < 65536 ∧ 65536 ≤ (s.w 123).toNat
    ∧ 32 ≤ (s.w 122).toNat ∧ (s.w 122).toNat ≠ 0xFF ∧ (s.k 2).kind = 1 ∧ (s.k 2).full = true ∧ (s.k 2).base.toNat < 2 ^ 47
    ∧ 2 ^ 47 ≤ ((mk [] [(2, { buf with base := 0x800000000000 })]).k 2).base.toNat ∧ (s.k 4).kind = 0 ∧ (s.k 3).kind ≠ 0 ∧ (s.k 3).full = false ∧ (mk [] []).me.sys = false := by decide +kernel
/-! Witnesses: events, fault records, timers, idle cores, context commands. -/

/-- A context whose handlers lie in its code at line 0x204, with an event pending; the handler's first line is held. -/
def handler (vec : Word) : State :=
  withLine (coreLoc 0 0x8080) (targetLine 0) (at0 { caps [(15, code)] tenant with evtEn := true, events := 0x14, evtVec := vec, pc := 130 })

/-- The state in which context 0 is at issue for its event. -/
def delivering (vec : Word) : State := actAt ((handler vec).did (.eventDelivery 0)) 0

theorem witness_EventsAndRecords_event :
    eventFor ((handler 0x40).ctx 0) = some 2 ∧ ((handler 0x40).ctx 0).evtVec.toNat % 64 = 0 ∧ ((handler 0x41).ctx 0).evtVec.toNat % 64 ≠ 0
    ∧ (match lookLine (delivering 0x40) ((delivering 0x40).k 15) (0x40 / 64 + (2 - 1)) 0 with | .ok (.held _ l) => !l.bad && enterable l.line 0 | _ => false) = true := by decide +kernel

/-- A parked context 5 with a record whose ring is held by the supervisor's context 1. -/
def recorded (xs : List Slot) : State :=
  let s := at0 tenant
  let s := s.setCtx 1 { tenant with sup := true, rank := 1, state := .waiting, faultRing := BitVec.ofNat 64 port0 }
  let s := s.setCtx 5 { tenant with
    state := .parked, rank := 3, pc := 130, since := 4, faultRing := BitVec.ofNat 64 port0,
    record := some { addr := 1, progress := 9, codept := 130, insn := 7, detail := 2, code := 8, paired := true, inEvent := false, entry := false, late := true } }
  { s with rings := [(port0, { ring0 false 2 xs with owner := 1 })], launches := [(1, launch1)] }

theorem witness_EventsAndRecords_record :
    let s := recorded [slot1 .pending 0]
    let u := recorded [slot1 .pending 0, slot1 .pending 1]
    (s.ctx 5).record.isSome = true ∧ faultPort s 5 = port0 ∧ (∀ p ∈ s.ctxs, p.1 ≠ 5 → coreOf p.1 = coreOf 5 → p.2.record.isSome = true → p.2.launch = (s.ctx 5).launch → (s.ctx 5).since ≤ p.2.since)
    ∧ (s.ring port0).live = true ∧ (s.ring port0).timed = false ∧ ringAway s port0 = false ∧ (s.ring port0).slots.length < (s.ring port0).cells ∧ supervisorLost s 5 = false
    ∧ (u.ring port0).cells ≤ (u.ring port0).slots.length := by decide +kernel
theorem witness_EventsAndRecords_timer :
    let s (w : Wait) (c : Word) : State := { at0 { tenant with state := .waiting, wait := w, timerCmp := c, pc := 67 } with cycle := 5 }
    ((s (.sleep (some 7)) 5).ctx 0).state = .waiting ∧ ((s (.sleep (some 7)) 5).ctx 0).timerCmp ≠ 0 ∧ ((s (.sleep (some 7)) 5).ctx 0).timerCmp.toNat ≤ (s (.sleep (some 7)) 5).cycle
    ∧ ((s (.sleep (some 0)) 0).ctx 0).wait = .sleep (some 0) ∧ ((s .cond 5).ctx 0).wait = .cond ∧ ((s .cond 5).ctx 0).state ≠ .transfer := by decide +kernel

theorem witness_CoreSteps_sleep :
    let s (d : Option Nat) (idle : Nat) : State := State.reset.modCore 2 fun x => { x with depth := d, idle := idle }
    let four : State := (List.range 4).foldl (fun s j => s.modCore j fun x => { x with depth := some 1, idle := 8192, maxDepth := 2 }) State.reset
    let wake (d : Option Nat) : State := (at0 tenant).modCore 0 fun x => { x with depth := d }
    coreIdle (s none 0) 2 = true ∧ ((s none 0).core 2).depth = none ∧ 1 ≤ ((s (some 0) 1024).core 2).maxDepth.toNat ∧ 16 * ((s (some 0) 1024).core 2).entryDelay.toNat ≤ ((s (some 0) 1024).core 2).idle
    ∧ (∀ j ∈ coresOfBarn (barnOfCore 2), coreIdle four j = true ∧ 2 ≤ (four.core j).maxDepth.toNat ∧ 128 * (four.core j).entryDelay.toNat ≤ (four.core j).idle)
    ∧ (wake (some 1)).core 0 ≠ Core.reset ∧ coreIdle (wake (some 1)) 0 = false ∧ coreIdle (wake (some 2)) 0 = false ∧ ((wake (some 2)).barn (barnOfCore 0)).testDue = false := by decide +kernel
theorem witness_CoreSteps_table :
    let e (m c : Nat) : Word := BitVec.ofNat 64 (2 ^ 14 * m + c)
    let s0 := ((at0 tenant).setCtx 5 { tenant with pool := 0 }).setCtx 6 { tenant with pool := 0 }
    let s := s0.modCore 0 fun x => { x with staged := vset (vset x.staged 0 (e 1 0)) 15 (e 2 5), slots := vset x.slots 0 (e 2 5), commit := some (vset x.staged 0 (e 1 0)) }
    let u := s0.modCore 0 fun x => { x with staged := vset x.staged 15 (e 3 0) }
    tableOk s 0 (s.core 0).staged = true ∧ (s.core 0).commit = some (vset (s0.core 0).staged 0 (e 1 0)) ∧ (s.core 0).rot % 16 = 0 ∧ tableOk u 0 (u.core 0).staged = false ∧ slotMode (vat 0 (u.core 0).staged 15) = 3
    ∧ ((0, s.core 0) ∈ s.cores) ∧ 0 ∈ coresOfBarn 0
    ∧ slotMode (slotEntry s 0 ((s.core 0).rot % 16)) = 2 ∧ slotMode (slotEntry u 0 ((u.core 0).rot % 16)) ≠ 2
    ∧ longest s ((readyMembers s 0 (slotPool (slotEntry s 0 0))).filter fun c =>
        !((tableEntries (s.core 0).slots).any fun q => q.1 ≠ 0 && slotMode q.2 ≠ 0 && slotCtx q.2 == numOf c)) = some 5
    ∧ (let v := s.modBarn 0 fun b => { b with testDue := true }
       (v.barn 0).testDue = true ∧ (v.launch? (v.barn 0).launch).isSome = false ∧ (v.barn 0).retired = false)
    ∧ (let v : State := { (s.modBarn 0 fun b => { b with replays := 1024 }) with slow := [0], launches := [(1, launch1)] }
       0 ∈ v.slow ∧ (v.barn 0).replays = 1024 ∧ (v.launch? (v.barn 0).launch).isSome = true)
    ∧ (let v := u.modCore 0 fun x => { x with committing := [(s.core 0).staged, x.staged] }
       ((v.core 0).committing.head?.getD (v.core 0).staged) = (s.core 0).staged ∧ tableOk v 0 (s.core 0).staged = true) := by decide +kernel

theorem witness_ContextCommands :
    let s := (at0 tenant).setCtx 7 { tenant with state := .halted, wbase := 8, wsize := 1 }
    let b := s.modCore 0 fun x => { x with slots := vset x.slots 3 (BitVec.ofNat 64 (2 ^ 14 + 7)) }
    let m := (((s.setCtx 7 Ctx.reset).setCtx 0 Ctx.reset).writeLe (physLoc 0x1000) 8 0x11000).writeLe (physLoc 0x1048) 8 0x82
    let y := readImage m 0 0x1000 (mget Ctx.reset m.images 0x1000)
    (s.core 0).busy = false ∧ (s.ctx 7).state ≠ .absent ∧ (s.ctx 7).state ≠ .transfer ∧ (s.ctx 7).state ≠ .waiting ∧ (s.ctx 7).acc = none ∧ (s.core 0).moving = none ∧ bound s 7 = false ∧ hasPosted s 7 = false ∧ hasTx s 7 = false ∧ s.slots = []
    ∧ (∀ e ∈ (s.core 0).vents, e.ctx ≠ 7) ∧ (s.ctx 7).state = .halted ∧ bound b 7 = true ∧ (b.core 0).moving = none ∧ (m.ctx 7).state = .absent
    ∧ y.wsize = 16 ∧ y.pc = 0x82 ∧ windowFits m 0 y.wbase y.wsize = true ∧ windowFits s 0 (readImage s 0 0 Ctx.reset).wbase (readImage s 0 0 Ctx.reset).wsize = false
    ∧ ((s.modCore 0 fun x => { x with busy := true }).core 0).busy = true ∧ ((s.modCore 0 fun x => { x with busy := true }).core 0).moving = none
    ∧ ¬((s.modCore 0 fun x => { x with busy := true }).core 0).busy = false ∧ Instr.ctxRelease 0 7 ∉ s.work := by decide +kernel
theorem witness_ContextCommands_moving :
    let m (a : Option Nat) : Moving := { ctx := 7, state := .halted, stopped := false, save := a }
    let s (a : Option Nat) : State := ((at0 tenant).setCtx 7 { tenant with state := .transfer, wbase := 8, wsize := 1 }).modCore 0 fun x => { x with busy := true, moving := some (m a) }
    (∀ a, ((s a).core 0).busy = true ∧ ((s a).core 0).moving = some (m a) ∧ (m a).ctx = 7 ∧ ((s a).ctx 7).state = .transfer ∧ ((s a).ctx 7).record = none)
    ∧ (m none).save = none ∧ (m (some 0x1000)).save = some 0x1000 ∧ ∀ a q, mget Cap.null (s a).slots q = Cap.null :=
  ⟨fun _ => ⟨rfl, rfl, rfl, rfl, rfl⟩, rfl, rfl, fun _ _ => rfl⟩

theorem witness_TimedStepsAndReleases_release :
    let d (k : Nat) (c : Cap) (off : Nat) : Deferred := { stamp := 5, kind := k, cap := c, words := [7, 8], off := off, len := 16, order := 0 }
    let s (x : Deferred) : State := { ringed (ring0 false 4 []) [] with launches := [(1, { launch1 with releases := [(0, x)] })] }
    let st := d 0 { buf with base := 0x6000 } 0xFF8
    (s st).launch? 1 = some { launch1 with releases := [(0, st)] } ∧ (∀ m ∈ (s st).msgs, m.launch = 1 → m.defer_ = false) ∧ (∀ x ∈ (s st).txs, x.2.1 ≠ .release 1)
    ∧ requestParked (s st) (.release 1) = false ∧ earlierDone (s st) 0 st.order = true ∧ releaseRoute (s st) 1 (homeOf 0) st.cap (st.cap.base.toNat + st.off) = .here (coreLoc 0 0x6FF8)
    ∧ locBarn (coreLoc 0 0x6FF8) = barnOf (homeOf 0) ∧ badSeal (s st) launch1.world (coreLoc 0 0x6FF8) = false ∧ pinnedSource (s st) [(coreLoc 0 0x6FF8, 8)] = false ∧ (s st).blockStashed (coreLoc 0 0x6FF8) = false ∧ unreadable (s st) (coreLoc 0 0x6FF8) = false ∧ lockedAny (s st) (coreLoc 0 0x6FF8) 8 = false
    ∧ InBlock (coreLoc 0 0x6FF8) 8 ∧ (d 1 sendEnd 0).cap.base.toNat < 2 ^ 47 ∧ (((s (d 2 Cap.null 9)).queue (d 2 Cap.null 9).off).waiting).length = 0
    ∧ ringFull (s (d 2 Cap.null 9)) 9 = false ∧ releaseAway { launch1 with releases := [(0, st)] } st = false := by decide +kernel
/-! Witnesses: work queues, launches, the fabric. -/

/-- A package that runs, with queue 3 of world 1 enabled and one entry in it. -/
def serving : State :=
  { (State.reset.setQueue 3 { Queue.reset with world := 1, en := true, tail := 1 }).setTdi 1 { Tdi.reset with state := .run } with
    boot := { State.reset.boot with mode := .running } }

/-- A root entry for ASID 5 of world 1 in the memory that station 0 walks from (R340). -/
def rooted (s : State) : State :=
  (s.setStation 0 { Station.reset with root := 0x100000 }).writeLe (physLoc (0x100000 + 40)) 8 0x200101

/-- An entry of a work queue. -/
def wqe (op len : BitVec 8) (target : BitVec 64) (body : BitVec 384) : QueueEntry := { op := op, len := len, resv := 0, tag := 9, target := target, body := body }

theorem witness_WorkQueues :
    let s := rooted serving
    let e := wqe 1 0 0 5
    let r := wqe 1 0 0 (BitVec.ofNat 384 (5 + 2 ^ 192))
    takes s 3 = true ∧ launchEntryOk e = true ∧ asidOf s (yardOfQueue 3) (bodyAsid e) (s.queue 3).world = true ∧ bodyRegion e = 0 ∧ bodyRegion r ≠ 0 ∧ launchEntryOk r = true
    ∧ asidOf s (yardOfQueue 3) (bodyAsid r) (s.queue 3).world = true ∧ (readRecord s (yardOfQueue 3) (bodyAsid r) (s.queue 3).world 0).dataLen = 0
    ∧ asidOf s (yardOfQueue 3) (bodyAsid (wqe 1 0 0 0)) (s.queue 3).world = false := by decide +kernel
/-- A launch record with a data image, at virtual address 0x10000 of that ASID (R352). -/
def described : State :=
  let s := rooted serving
  let s := { s with yards := [], stations := s.stations }
  let s := s.writeLe (physLoc 0x200000) 8 0x300001
  let s := s.writeLe (physLoc 0x300000) 8 0x400001
  let s := s.writeLe (physLoc 0x400008) 8 0x1000010B
  ((s.writeLe (physLoc 0x10000000) 8 1).writeLe (physLoc 0x10000028) 4 64)
theorem witness_WorkQueues_feed :
    let l := { launch1 with feed := true }
    let s := { serving with launches := [(1, l)] }
    let u := { serving with launches := [(1, { l with feedPort := some port0 })] }
    takes s 3 = true ∧ namedLaunch s 3 (wqe 2 48 1 7) = some (1, l) ∧ namedLaunch u 3 (wqe 2 48 1 7) = some (1, { l with feedPort := some port0 }) ∧ takes u 3 = true
    ∧ namedLaunch s 3 (wqe 3 0 1 0) = some (1, l) ∧ namedLaunch s 3 (wqe 2 48 2 7) = none ∧ namedLaunch s 3 (wqe 3 0 2 0) = none ∧ 3 < (wqe 4 0 0 0).op.toNat := by decide +kernel
theorem witness_WorkQueues_queue :
    let r : CRecord := { kind := 3, status := 0, res := 1, tag := 9, launch := 1, d0 := 0, d1 := 0 }
    let s := serving.setQueue 3 { serving.queue 3 with waiting := [r] }
    (serving.queue 3).world.toNat = 1 ∧ (serving.tdi 1).state = .run ∧ ((63 : BitVec 64).setWidth 16 : BitVec 16).toNat < (serving.queue 3).entries ∧ (serving.queue 3).world.toNat ≠ 2
    ∧ (s.queue 3).waiting = [r] ∧ (s.queue 3).en = true ∧ s.power = .run ∧ (s.boot.mode = .listening ∨ s.boot.mode = .running) ∧ (s.queue 3).unread < (s.queue 3).records := by decide +kernel

/-- A record of one context on one core, with a code image of one line (R352, R353). -/
def descOk : LaunchRec := { desc1 with levels := [{ domain := 0, skreg := 0, countX := 1, countY := 1, scope := 0 }] }

theorem witness_LaunchesStartAndEnd :
    let bad := { launch1 with stage := .queued }
    let good := { launch1 with stage := .queued, desc := descOk }
    let s : State := { State.reset with launches := [(1, good)] }
    let p := planOf descOk 1 0 0 0
    recordOk bad.desc (hasData bad) = false ∧ bad.desc.hitched = false ∧ recordOk good.desc (hasData good) = true ∧ good.desc.hitched = false ∧ p.fits = true ∧ p.free s = true
    ∧ p.freeVirt s good.asid = true ∧ placedFirst s 1 good = false ∧ p.free (s.modBarn 0 fun b => { b with launch := 7 }) = false
    ∧ p.freeVirt { s with launches := [(1, good), (2, { launch1 with buffers := [(0, 65536)] })] } good.asid = false := by decide +kernel
/-- A package in which ASID 3 of world 1 has one page, virtual 0x10000 to 0x1FFFF, and another for the code copy. -/
def paged (l : Launch) : State :=
  let s : State := { State.reset.setStation 0 { Station.reset with root := 0x100000 } with launches := [(1, l)] }
  let s := s.writeLe (physLoc (0x100000 + 24)) 8 0x200101
  let s := s.writeLe (physLoc 0x200000) 8 0x300001
  let s := s.writeLe (physLoc 0x300000) 8 0x400001
  (s.writeLe (physLoc 0x400008) 8 0x1000010B).writeLe (physLoc 0x400010) 8 0x1001010B
theorem witness_LaunchesStartAndEnd_made :
    let good := { launch1 with stage := .queued, desc := descOk }
    let s := paged good
    let p := planOf descOk 1 0 0 0x20000
    p.free s = true ∧ p.freeVirt s good.asid = true ∧ placedFirst s 1 good = false
    ∧ ((makeLaunch p (s.did (.launchPlacement 1 0 0 0x20000)) good.world good.asid 0 (regionCap s good)).bind fun u => u.launch? 1).isSome = true := by decide +kernel
theorem witness_LaunchesStartAndEnd_end :
    let s : State := { at0 { tenant with state := .ended } with launches := [(1, launch1)] }
    let u : State := { at0 tenant with launches := [(1, { launch1 with stage := .ending })] }
    s.launch? 1 = some launch1 ∧ s.launchOver 1 = true ∧ s.hitches = [] ∧ (beginEnd (s.did (.launchCompletion 1)) 1 launch1).isSome = true
    ∧ (u.launch? 1).map (·.stage) = some .ending ∧ launch1.releases = [] ∧ channelsBusy u { launch1 with stage := .ending } = false ∧ paddockBarns launch1 = [0]
    ∧ ({ at0 tenant with launches := [(1, launch1)] } : State).launchOver 1 = false := by decide +kernel

theorem witness_PaddocksAreExchanged :
    let noticed := { launch1 with stage := .noticed, graceEnd := 5 }
    let s (c : Nat) : State := { at0 tenant with launches := [(1, noticed)], cycle := c }
    let waiter := { launch1 with
      stage := .queued, desc := { desc1 with levels := [{ domain := 5, skreg := 0, countX := 1, countY := 1, scope := 0 }, { domain := 0, skreg := 0, countX := 1, countY := 1, scope := 0 }] } }
    let q : State := { at0 tenant with launches := [(1, launch1), (2, waiter)], cycle := 2 ^ 24 }
    let calm : State := { q with launches := [(1, launch1)] }
    let saved := { launch1 with stage := .saved, desc := descOk }
    (s 4).cycle < noticed.graceEnd ∧ noticed.graceEnd ≤ (s 5).cycle ∧ noticed.saved = [] ∧ settling (s 5) 1 noticed = false ∧ (s 5).launchCtxs 1 = [0] ∧ hasPosted (s 5) 0 = false
    ∧ hasTx (s 5) 0 = false ∧ ((s 5).ctx 0).state ≠ .waiting ∧ ((s 5).ctx 0).state ≠ .transfer ∧ ((s 5).ctx 0).acc = none ∧ ((s 5).core 0).vents.length = 0 ∧ (2, waiter) ∈ q.launches ∧ waiter.desc.prio = launch1.desc.prio
    ∧ waiter.bound + 2 ^ 24 ≤ q.cycle ∧ launch1.bound + 2 ^ 24 ≤ q.cycle ∧ launch1.stage = .running
    ∧ recordOk waiter.desc (hasData waiter) = true ∧ roomFor q 2 waiter = false ∧ mayPreempt q launch1 = true
    ∧ launch1.desc.hitched = false ∧ onRetired calm launch1 = false ∧ mayPreempt calm launch1 = false
    ∧ (planOf saved.desc 1 5 6 0).free { State.reset with launches := [(1, saved)] } = true ∧ launch1.desc.repro = false
    ∧ windowsFree { State.reset with launches := [(1, saved)] } saved 5 6 = true ∧ placedFirst { State.reset with launches := [(1, saved)] } 1 saved = false ∧ saved.cause = 0
    ∧ noticed.cause = 0 ∧ othersRest (s 5) noticed = true ∧ q.images = [] := by decide +kernel
theorem witness_PaddocksAreExchanged_others (h : Config.othersAtRest 7 State.reset.free = false) :
    let noticed := { launch1 with stage := .noticed, graceEnd := 5, desc := { desc1 with
      hitch := BitVec.ofNat 64 (7 + 2 ^ 40 * 3), levels := [{ domain := 6, skreg := 0, countX := 4, countY := 1, scope := 4096 }] } }
    let s : State := { at0 tenant with launches := [(1, noticed)], cycle := 5 }
    s.launch? 1 = some noticed ∧ noticed.stage = .noticed ∧ noticed.cause = 0 ∧ noticed.graceEnd ≤ s.cycle ∧ noticed.saved = [] ∧ settling s 1 noticed = false ∧ othersRest s noticed = false :=
  ⟨by decide +kernel, by decide +kernel, by decide +kernel, by decide +kernel, by decide +kernel, by decide +kernel, by
    simpa [othersRest, LaunchRec.hitched, LaunchRec.hitchId, at0, State.reset] using h⟩

/-- A window request from member 0 of the hitch, to this package. -/
def request : Packet := { Packet.blank with type := 1, world := 1, hitch := 7, gen := 5, smem := 0, dmem := 1, width := 8, off := 0xFF8 }

/-- This package as member 1 of the hitch, with a launch whose slice is one unit. -/
def member1 : State :=
  { at0 tenant with hitches := [hitch4], launches := [(1, { launch1 with desc := { desc1 with levels := [{ domain := 6, skreg := 0, countX := 4, countY := 1, scope := 4096 }] } })] }

/-- Whether a request passes the ingress checks. -/
def letIn (s : State) (p : Packet) (n : Nat) : Bool :=
  match ingress s p (fun l => inSlice l p.off.toNat n && (!p.flagged || inSlice l p.foff.toNat 8)) with | .ok _ => true | .error _ => false

theorem witness_WindowRequests :
    let l := (member1.launch? 1).getD launch1
    let loc := sliceLoc l 0xFF8
    let blk := sliceLoc l 0xFC0
    l.stage ≠ .saved
    ∧ (let run := { request with off := BitVec.ofNat 40 Config.poolBase, data := 3, width := 1 }
       let u := member1.modBarn 0 fun b => { b with pool := [(0, 64)] }
       let v := member1.modBarn 0 fun b => { b with pool := [(0, 64 * Config.poolBlocks)] }
       let w := member1.modBarn 0 fun b => { b with landing := [{ member := 0, copy := 3, first := 5, blocks := 1 }] }
       (match ingress u run (fun l => inPaddock l run.off.toNat) with | .ok _ => true | .error _ => false) = true ∧ landingOf u 0 run = none
       ∧ (landRun u 0 run).map (·.2) = some 1 ∧ (landRun v 0 run).isNone = true ∧ (landRun w 0 run).map (·.2) = some 5 ∧ locBarn (2 ^ 40 + run.off.toNat) = 0)
    ∧ pinnedSource member1 [(loc, 8)] = false ∧ pinnedSource member1 [(blk, 64)] = false ∧ pinnedSource member1 [(loc, 1), (loc, 8)] = false
    ∧ letIn member1 request 8 = true ∧ letIn member1 { request with off := 0xFC0, width := 64, tagged := true } 64 = true ∧ unreadable member1 loc = false
    ∧ unreadable (member1.setPoison loc true) loc = true ∧ Storable member1 loc ∧ InBlock loc 8 ∧ blk % 64 = 0 ∧ member1.blockStashed blk = false
    ∧ (member1.setSlot blk buf).blockStashed loc = true ∧ letIn member1 { request with aop := 0x13 } 8 = true ∧ ((atomicOf 0x13).2.ty.width / 8) = 8
    ∧ letIn member1 { request with flagged := true, width := 0, foff := 0xFF8 } 1 = true ∧ Storable member1 (sliceLoc l (0xFF8 : BitVec 40).toNat)
    ∧ letIn member1 { request with off := 0xFF9 } 8 = false
    ∧ (match ingress member1 request (fun l => inPaddock l request.off.toNat) with | .ok _ => true | .error _ => false) = true := by decide +kernel
theorem witness_WindowRequests_turned_away (n : Nat) :
    ∃ st, ingress member1 { request with gen := 6 } (fun l => inSlice l request.off.toNat n && (!request.flagged || inSlice l request.foff.toNat 8)) = .error st := ⟨_, rfl⟩

theorem witness_WindowRequests_replies :
    let a : Access := { op := .load 127 8 true, k := window, off := 0xFF8, ins := held0 }
    let p : Packet := { Packet.blank with type := 5, txid := 6, smem := 2, dmem := 1, hitch := 7, world := 1, gen := 5, data := 77 }
    let w : State := { waits a .reply (hitched []) with txs := [(6, .ctx 0, 2)] }
    let q : Posted := { id := 3, src := 0, loc := 0, op := .flagInc, cap := Cap.null, txid := some 6, prev := none }
    let v : State := { hitched [] with txs := [(6, .ctx 0, 2)], posted := [q] }
    let m : Msg := { Msg.plain .untimed 0 (2 ^ 47 + 2 * 2 ^ 40) with id := 6 }
    let u : State := { hitched [] with txs := [(6, .ctx 0, 2)], msgs := [m] }
    w.txs.find? (fun t => t.1 == p.txid.toNat && t.2.2 == p.smem.toNat) = some (6, .ctx 0, 2) ∧ w.msgs = [] ∧ w.posted = [] ∧ (w.ctx 0).acc = some a ∧ p.status = 0 ∧ p.flits = []
    ∧ ({ p with status := 0x12 } : Packet).status ≠ 0 ∧ v.posted.find? (fun q => q.src == 0 && q.txid == some p.txid.toNat) = some q ∧ repliedMsg u p = some m ∧ m.source = .ctx 0
    ∧ (repliedHitch w p).isSome = true ∧ (repliedHitch w { p with status := 0x12 }).isSome = true ∧ (repliedHitch v p).isSome = true ∧ (repliedHitch u p).isSome = true := by decide +kernel

/-- A launch record of a hitch: four members of one context. -/
def descHitch (j : Nat) : LaunchRec :=
  { desc1 with hitch := BitVec.ofNat 64 (7 + 2 ^ 32 * j + 2 ^ 40 * 3), levels := [{ domain := 6, skreg := 0, countX := 4, countY := 1, scope := 4096 }, { domain := 0, skreg := 1, countX := 1, countY := 1, scope := 0 }] }

theorem witness_HitchesForm_prepare :
    let l (j : Nat) := { launch1 with stage := .queued, desc := descHitch j }
    let s (j : Nat) : State := paged (l j)
    let p (j : Nat) := planOf (descHitch j) 1 0 0 0x20000
    let made (j : Nat) := (makeLaunch (p j) ((s j).did (.hitchPrepare 1 0 0 0x20000)) 1 3 (newHitch (s j) 1 (l j)).gen (regionCap (s j) (l j))).bind fun u => u.launch? 1
    (descHitch 1).hitched = true ∧ recordOk (descHitch 1) (hasData (l 1)) = true ∧ hitchOk (p 1) = true ∧ (p 1).fits = true ∧ (s 1).hitches = []
    ∧ (let g : State := { s 1 with hitches := [{ newHitch (s 1) 1 (l 1) with stage := .bound }] }
       (∃ x ∈ g.hitches, x.id = (newHitch g 1 (l 1)).id ∧ x.stage ≠ .left) ∧ g.launch? 1 = some (l 1))
    ∧ (p 1).free (s 1) = true ∧ (p 1).freeVirt (s 1) (l 1).asid = true ∧ placedFirst (s 1) 1 (l 1) = false
    ∧ (p 0).free (s 0) = true ∧ (p 0).freeVirt (s 0) (l 0).asid = true ∧ (made 1).isSome = true
    ∧ (descHitch 1).member ≠ 0 ∧ recordOk (descHitch 0) (hasData (l 0)) = true ∧ hitchOk (p 0) = true ∧ (made 0).isSome = true ∧ (descHitch 0).member = 0 ∧ 1 < (descHitch 0).members
    ∧ (newHitch (s 1) 1 (l 1)).id = hitch4.id
    ∧ recordOk { descHitch 1 with codeLen := 0 } false = false ∧ ({ descHitch 1 with codeLen := 0 } : LaunchRec).hitched = true := by decide +kernel
theorem witness_HitchesForm_commit :
    let h : Hitch := { hitch4 with me := 0, stage := .prepared, reported := [0, 1], attach := [(0, .attached)] }
    let p (j : BitVec 7) : Packet := { Packet.blank with type := 0x0E, world := 1, hitch := 7, smem := j, dmem := 0, gen := 6, data := preparedData h }
    let s (h : Hitch) : State := { at0 tenant with hitches := [h], launches := [(1, { launch1 with stage := .placed })] }
    (formingFor (s h) (p 2)).isSome = true ∧ h.memberOf 3 ≠ .gone ∧ (2 : BitVec 7).toNat < h.count ∧ (2 : BitVec 7).toNat ∉ h.reported ∧ 3 < h.count ∧ 3 ∉ h.reported ∧ (p 2).world = h.world
    ∧ (∀ j ∈ List.range h.count, j = (2 : BitVec 7).toNat ∨ j ∈ [0, 1, 3]) ∧ ({ p 2 with world := 2 } : Packet).world ≠ h.world ∧ (p 2).data = preparedData h
    ∧ (p 2).data ≠ preparedData { h with repro := true }
    ∧ (formingFor (s { h with me := 1 }) { p 0 with dmem := 1 }).isSome = true ∧ (p 0).smem = 0
    ∧ (let q : State := { State.reset with launches := [(1, { launch1 with stage := .queued, desc := descHitch 1 })] }
       formingFor q { p 0 with dmem := 1 } = none ∧ (waitingMember q { p 0 with dmem := 1 }).isSome = true) := by decide +kernel

theorem witness_MembersJoinAndLeave :
    let p : Packet := { Packet.blank with type := 0x0E, world := 1, hitch := 7, gen := 5, smem := 3, dmem := 1 }
    let s (h : Hitch) : State := { hitched [] with hitches := [h] }
    let joining := { hitch4 with attach := [(3, .joining)] }
    let leaving := { hitch4 with attach := [(3, .detaching)] }
    let busy : State := { s leaving with txs := [(6, .ctx 0, 3)] }
    let wait : State := (s joining).modMe fun x => { x with state := .waiting, wait := .acks [3], latch := some held0 }
    (hitchFor (s hitch4) p).toOption = some hitch4 ∧ hitchById (s hitch4) hitch4.id = some hitch4 ∧ hitch4.memberOf hitch4.me = .resident
    ∧ (let h := { hitch4 with member := [(1, .holding)] }; (hitchFor (s h) p).toOption = some h ∧ h.memberOf h.me ≠ .resident)
    ∧ (let h := { hitch4 with member := [(3, .gone)] }; (hitchFor (s h) p).toOption = some h ∧ h.memberOf 3 = .gone)
    ∧ (let h := { joining with stage := .leaving }; (hitchFor (s h) p).toOption = some h ∧ h.attachOf 3 = .joining ∧ h.stage = .leaving)
    ∧ ({ p with status := 0x12 } : Packet).status ≠ 0 ∧ (hitchFor wait { p with status := 0x12 }).toOption = some joining ∧ hitch4.stage = .bound ∧ joining.stage ≠ .leaving
    ∧ (hitchFor (s leaving) p).toOption = some leaving ∧ leaving.stage = .bound ∧ (hitchFor wait p).toOption = some joining ∧ joining.attachOf 3 = .joining ∧ p.status = 0 ∧ joining.leaver ≠ some 0
    ∧ (wait.ctx 0).wait = .acks [3] ∧ (wait.ctx 0).launch = joining.launch ∧ leaving.attachOf 3 = .detaching ∧ groupBusy (s leaving) leaving 3 = false ∧ groupBusy busy leaving 3 = true
    ∧ groupCtxs (s hitch4) hitch4 = [0] ∧ ((s hitch4).ctx 0).repro = false ∧ hitch4.attachOf 3 = .attached := by decide +kernel

theorem witness_PortsFail :
    let s (st k : Nat) : State := State.reset.setPort 24 { Port.reset with state := st, streak := k }
    let h : Hitch := { hitch4 with place := [(0, (2, 0))] }
    let u : State := { hitched [] with hitches := [h] }
    ((s 2 14).port 24).streak < 15 ∧ 15 ≤ ((s 2 15).port 24).streak ∧ ((s 2 0).port 24).state = 2 ∧ ((s 3 0).port 24).state = 3 ∧ u.hitches = [h] ∧ 0 ∈ present h
    ∧ u.launch? h.launch = some launch1 ∧ reachable (u.setPort 24 { u.port 24 with state := 0, streak := 0 }) (mget (0, 0) h.place 0).1 (mget (0, 0) h.place 0).2 = false
    ∧ 0x0F < (0x10 : BitVec 8).toNat := by decide +kernel
/-! Witnesses: the host, the security controller, power, registers. -/

/-- A versioned region of world 1 at offset 0x40000, 128 bytes long, version 3 its latest; its TDI runs. -/
def regioned (r : Region) : State := putRegion serving (2 ^ 48 + 0x40000) r
/-- That region. -/
def region1 : Region := { Region.reset with live := true, exported := true, base := 0x40000, length := 128, world := 1, latest := 3, versions := [{ num := 3, handles := 0 }] }
/-- That region with a private version of the host in its window. -/
def hosted : Region := { region1 with priv := some 4, privHost := true, host := some 4, vernum := 4 }

theorem witness_HostRegions :
    let key := 2 ^ 48 + 0x40000
    let s := regioned region1
    let full := regioned { region1 with priv := some 4 }
    let h := regioned hosted
    let l := regioned { region1 with host := some 3 }
    let far := versionLoc key 4 64
    let w := { h with extents := [(far, 64, false)] }
    hostMay s key = true ∧ (s.region key).host = none ∧ (s.region key).mayOpen = true ∧ (full.region key).mayOpen = false ∧ hostMay h key = true ∧ (h.region key).host = some 4
    ∧ (h.region key).privHost = true ∧ (h.region key).priv = some 4 ∧ 64 < (h.region key).length ∧ 64 % 64 = 0 ∧ unreadable h (versionLoc key 4 0) = false ∧ unreadable h far = false
    ∧ withdrawn h far = false ∧ h.blockStashed far = false ∧ hostMay w key = true ∧ unreadable w far = true ∧ (l.region key).host = some 3 ∧ (l.region key).privHost = false
    ∧ hostMay (h.setTdi 1 Tdi.reset) key = false ∧ hostMay h 0 = false ∧ (far, 64, false) ∈ w.extents ∧ w.posted = [] ∧ w.ctxs = [] ∧ far % 64 = 0 ∧ key / 2 ^ 48 = 1
    ∧ (let t := h.setTdi 1 { Tdi.reset with state := .run, session := some 5 }
       (t.region key).host = some 4 ∧ (t.region key).privHost = true ∧ (t.tdi 1).session = some 5 ∧ (t.tdi 1).state = .run) := by decide +kernel

/-- A session of function 0. -/
def session0 : Session := { id := 5, fn := 0, open_ := true, suspended := false }
/-- A receipt of world 0, the host's own. -/
def receipt0 : Receipt := { world := 0, epoch := 0, start := 0, len := 64, covered := 64, excluded := [] }
theorem witness_SessionsAndMeasurements :
    let s := { serving with sessions := [session0], receipts := [receipt0] }
    let more (n fn : Nat) : State := { serving with sessions := (List.range n).map fun i => { session0 with id := i, fn := fn } }
    let z := { serving with sessions := [{ session0 with suspended := true }] }
    let m := { s with boot := { s.boot with mode := .minimal } }
    let t := s.setTdi 255 { Tdi.reset with state := .locked, session := some 5 }
    spdmUp s = true ∧ ((more 7 0).sessions.filter (·.fn == 0)).length < 8 ∧ 8 ≤ ((more 8 0).sessions.filter (·.fn == 0)).length ∧ ((more 0 1).sessions.filter (·.fn == 1)).length < 1
    ∧ 1 ≤ ((more 1 1).sessions.filter (·.fn == 1)).length ∧ spdmUp (more 8 0) = true ∧ sessionById s session0.id = some session0 ∧ session0.suspended = false ∧ session0.open_ = true
    ∧ s.receipts.find? (·.world.toNat == session0.fn) = some receipt0 ∧ spdmUp m = true ∧ m.boot.mode = .minimal ∧ sessionById m 5 = some session0 ∧ session0.fn = 0 ∧ s.boot.mode ≠ .minimal
    ∧ spdmUp z = true ∧ z.power = .run ∧ sessionById z 5 = some { session0 with suspended := true } ∧ sessionById t 5 = some session0 ∧ (t.tdi 255).session = some 5 ∧ (t.tdi 255).state = .locked := by
  decide +kernel

theorem witness_InterfacesLockAndStop :
    let s (x : Tdi) : State := { State.setTdi serving 255 x with sessions := [session0], launches := [(1, { launch1 with world := 255 })] }
    let free := s Tdi.reset
    let locked := s { Tdi.reset with state := .locked, session := some 5 }
    let run := s { Tdi.reset with state := .run, session := some 5 }
    let other := s { Tdi.reset with state := .run, session := some 6 }
    let stop := { s { Tdi.reset with state := .run, session := some 5, stopping := true } with launches := [(1, { launch1 with world := 255, stage := .closed })] }
    spdmUp free = true ∧ sessionById free 5 = some session0 ∧ session0.suspended = false ∧ session0.open_ = true ∧ (free.tdi 255).state = .unlocked ∧ (locked.tdi 255).state = .locked
    ∧ (run.tdi 255).state = .run ∧ (run.tdi 255).stopping = false ∧ (run.tdi 255).session = some 5 ∧ (other.tdi 255).session ≠ some 5 ∧ (other.tdi 255).session.isSome = true
    ∧ run.launch? 1 = some { launch1 with world := 255 } ∧ ({ launch1 with world := 255 } : Launch).stage ≠ .closed
    ∧ (stop.tdi 255).stopping = true ∧ (∀ p ∈ stop.launches, p.2.world.toNat = 255 → p.2.stage = .closed) ∧ (free.tdi 1).state = .run
    ∧ free.boot.mode = .running ∧ ({ free with boot := { free.boot with mode := .listening } } : State).boot.mode ≠ .running
    ∧ spdmUp { free with boot := { free.boot with mode := .listening } } = true := by decide +kernel

theorem witness_StartAndPower :
    let s (m : BootMode) (f : Nat) (p : Power) : State := { State.reset with power := p, boot := { State.reset.boot with mode := m, fails := f } }
    let o (x : Option StageEnd) (r : List Nat) (c : Bool) : StartOutcome := { failAt := x, retired := r, counterOk := c }
    let good (x : StartOutcome) : Nat := Config.barns - ((x.retired.filter (· < Config.barns)).eraseDups).length
    let mn := State.reset.boot.minBarns
    let hung : State := { State.reset with power := .run, boot := { State.reset.boot with mode := .starting, stage := 6, under := true } }
    mayStart (s .running 0 .off) = true ∧ mayStart (s .starting 2 .run) = true ∧ mayStart (s .minimal 3 .run) = true ∧ mayStart (s .running 0 .run) = false ∧ mayStart hung = false
    ∧ (s .starting 2 .run).boot.fails < 3 ∧ 3 ≤ (s .minimal 3 .run).boot.fails ∧ hung.boot.mode = .starting ∧ hung.boot.under = true
    ∧ mn ≤ good (o none [] true) ∧ mn ≤ good (o none (List.range 16) true) ∧ good (o none (List.range 17) true) < mn
    ∧ (o (some .controllerFirmware) [] true).failAt = some .controllerFirmware ∧ endStage .controllerFirmware = 2 ∧ endReason .controllerFirmware = some 1
    ∧ endAlarm .controllerFirmware = some .authentication ∧ endStage .coreFirmware = 4 ∧ endStage (.hang 4) = 4 ∧ endReason (.hang 4) = none ∧ endAlarm (.hang 4) = none ∧ endReason .configVersion = some 3
    ∧ (o none [] false).failAt ≠ some (.hang 0) ∧ (o none [] false).failAt ≠ some (.hang 1) ∧ (o (some (.hang 1)) [] true).failAt = some (.hang 1) ∧ (s .minimal 0 .off).power = .off := by
  decide +kernel
/-- A package some of whose barns are retired. -/
def retired (xs : List Nat) (p : Power) : State := { State.reset with power := p, barns := xs.map fun b => (b, { Barn.reset with retired := true }) }
/-- A package that listens, with its last queue enabled. -/
def listens : State := { serving.setQueue 131071 { Queue.reset with en := true } with boot := { State.reset.boot with mode := .listening } }
theorem mget_map_const {α : Type} (d v : α) (a : Nat) : ∀ xs : List Nat, a ∈ xs → mget d (xs.map fun b => (b, v)) a = v
  | [], h => by cases h
  | x :: xs, h => by
    by_cases hx : x = a
    · simp [mget, hx]
    · have : a ∈ xs := by
        cases h with
        | head => exact absurd rfl hx
        | tail _ h => exact h
      simpa [mget, hx] using mget_map_const d v a xs this
theorem retired_asleep (xs : List Nat) (p : Power) (h : ∀ b ∈ List.range Config.barns, b ∈ xs) : allAsleep (retired xs p) = true := by
  have hr : ∀ b ∈ List.range Config.barns, ((retired xs p).barn b).retired = true := by
    intro b hb
    have : (retired xs p).barn b = { Barn.reset with retired := true } := mget_map_const _ _ _ _ (h b hb)
    rw [this]
  have ht : (retired xs p).txs = [] ∧ (retired xs p).msgs = [] ∧ (retired xs p).posted = [] ∧ (retired xs p).ports = [] := ⟨rfl, rfl, rfl, rfl⟩
  simp only [allAsleep, ht, List.isEmpty_nil, List.all_nil, Bool.true_and, List.all_eq_true, Bool.or_eq_true]
  exact fun b hb => Or.inl (hr b hb)
theorem witness_StartAndPower_sleep :
    allAsleep (retired (List.range Config.barns) .run) = true ∧ (retired (List.range Config.barns) .run).power = .run ∧ (retired (List.range Config.barns) .sleep).power = .sleep :=
  ⟨retired_asleep _ _ fun _ h => h, rfl, rfl⟩
theorem witness_StartAndPower_modes :
    listens.boot.mode = .listening ∧ (listens.queue 131071).en = true ∧ launch1.stage ≠ .closed ∧ launch1.stage ≠ .queued := by decide +kernel

theorem witness_RegisterWrites :
    let idle := serving
    let busy := serving.modCore 4095 fun c => { c with busy := true }
    let lock := serving.setTdi 1 { Tdi.reset with state := .locked }
    let cmd (n : Nat) : BitVec 64 := BitVec.ofNat 64 (n * 2 ^ 60 + 0x1000 + 63)
    (idle.core 4095).busy = false ∧ ((cmd 1).extractLsb' 60 4).toNat = 1 ∧ ((cmd 2).extractLsb' 60 4).toNat = 2 ∧ ((cmd 3).extractLsb' 60 4).toNat = 3 ∧ (busy.core 4095).busy = true
    ∧ (idle.queue 3).world.toNat = 1 ∧ (idle.tdi 1).state = .run ∧ ((0 : BitVec 64).setWidth 16 : BitVec 16).toNat < (idle.queue 3).entries
    ∧ (idle.boot.mode = .listening ∨ idle.boot.mode = .running) ∧ (idle.queue 131071).world = 0 ∧ (idle.tdi 0).state = .unlocked
    ∧ (idle.tdi ((0xFF000001 : BitVec 64).extractLsb' 24 8).toNat).state = .unlocked ∧ (lock.queue 3).world = 1 ∧ (lock.tdi 1).state = .locked
    ∧ barBound idle 1 (8 * 3) = true ∧ barBound idle 2 (8 * 3) = false ∧ spdmUp idle = true ∧ spdmUp { idle with power := .off } = false := by decide +kernel
/-! Witnesses: further clauses, and the values where clauses meet. -/

/-- A region lock of another context over a part of core 0's memory. -/
def lockAt (off len : Nat) (s : State) : State := s.modCore 0 fun x => { x with locks := x.locks ++ [{ holder := 70, start := coreLoc 0 off, len := len }] }

/-- A line that pairs its first two slots, which hold two words. -/
def pairLine (a b : InstWord) : Block := a.setWidth 512 ||| (b.setWidth 512 <<< 96) ||| ((1 : Block) <<< 485)

/-- Power-good with that line at the next fetch of core 0, whose turn is next. -/
def paired (a b : Instr) : State := (placed 0).modCore 0 fun x => { x with lines := [(coreLoc 0 0x4000, { line := pairLine (encode a) (encode b), bad := false })] }

theorem witness_StepRunsTheInstruction_pair :
    let s := paired (.add 1 2 3) (.add 4 2 3)
    let u := paired (.add 1 2 3) (.add 4 1 3)
    let a := issueState s 1
    MayTurn s ∧ chosen (turnState s) s.focus = some 1 ∧ eventFor (a.ctx 1) = none ∧ (a.ctx 1).latch = none ∧ a.me.pc % 64 = 0 ∧ codeSteps a (a.k 15) = .ok ()
    ∧ lookLine a (a.k 15) ((a.me.pc / 64 : Nat) : Int) 0 = .ok (.held (coreLoc 0 0x4000) { line := pairLine (encode (.add 1 2 3)) (encode (.add 4 2 3)), bad := false })
    ∧ illLine (pairLine (encode (.add 1 2 3)) (encode (.add 4 2 3))) = false ∧ pairBit (pairLine (encode (.add 1 2 3)) (encode (.add 4 2 3))) 0 = true
    ∧ slotWord (pairLine (encode (.add 1 2 3)) (encode (.add 4 2 3))) 0 = encode (.add 1 2 3) ∧ slotWord (pairLine (encode (.add 1 2 3)) (encode (.add 4 2 3))) 1 = encode (.add 4 2 3)
    ∧ encode (.add 1 2 3) ≠ 0 ∧ pairLegal (encode (.add 1 2 3)) (encode (.add 4 2 3)) = true ∧ pairLegal (encode (.add 1 2 3)) (encode (.add 4 1 3)) = false
    ∧ chosen (turnState u) u.focus = some 1 ∧ decode (encode (.add 1 2 3)) = .ok (.add 1 2 3) ∧ decode (encode (.add 4 2 3)) = .ok (.add 4 2 3) := by decide +kernel
theorem witness_StepRunsTheInstruction_pair_runs :
    let s := paired (.add 1 2 3) (.add 4 2 3)
    let b := (issueState s 1).modMe fun x => { x with latch := none }
    (match exec (.add 1 2 3) (withWord b (encode (.add 1 2 3))) with
     | .next t => t.me.state == .ready && (match exec (.add 4 2 3) { t with cur := { t.cur with word := encode (.add 4 2 3), codept := nextPoint b.cur.codept, paired := true } } with
       | .next u => !u.cur.spent && u.me.pc == 2 | _ => false)
     | _ => false) = true := by decide +kernel
theorem witness_StepRunsTheInstruction_agenda :
    let s : State := { placed 1 with agenda := [.turn] }
    s.agenda = [.turn] ∧ meshUp s = true ∧ meshUp { s with boot := { s.boot with mode := .minimal } } = false := by decide +kernel
theorem witness_NopHaltSleepYield_event :
    let s := (mk [] []).modMe fun x => { x with evtEn := true, events := 0x20 }
    AtIssue s ∧ s.me.deliverable.isSome = true ∧ (mk [] []).me.deliverable = none := by decide +kernel
theorem witness_MemoryStepsAndWipes_wipe_locks :
    let k := { buf with length := 128 }
    let s : State := { (at0 { tenant with sys := true }).modMe (fun x => { x with state := .waiting, wait := .wipe 127 k }) with keys := true }
    let ps := [(coreLoc 0 0x4000, 64, false), (coreLoc 0 0x4040, 64, false)]
    let own := s.modCore 0 fun x => { x with locks := [{ holder := 0, start := coreLoc 0 0x4000, len := 128 }] }
    let far := { k with base := 0x400000000000 }
    let gone : State := { reader with extents := [(physLoc 0x100040, 64, false)] }
    let qs := [(physLoc 0x100000, 64, false), (physLoc 0x100040, 64, false)]
    (wipeRange own 0 k).toOption = some ps ∧ (∀ p ∈ ps, lockedOut own 0 p.1 p.2.1 = false) ∧ wipeReach s k ps = (ps, none) ∧ wipeReach own k ps = (ps, none)
    ∧ (wipeRange gone 0 far).toOption = some qs ∧ (wipeReach gone far qs).2 = some 0x400000000040 ∧ (∀ p ∈ qs, lockedOut gone 0 p.1 p.2.1 = false) := by decide +kernel
theorem witness_Translation_first :
    let r : ParkedReq := { src := .ctx 0, asid := 0, granule := 0, world := 1, write := false }
    (parked0.parked.find? fun r => r.asid == 0 && r.granule == 0 && r.behind == 0) = some r
    ∧ ({ parked0 with parked := [{ r with src := .ctx 5, behind := 3 }, r] }.parked.find? fun r => r.asid == 0 && r.granule == 0 && r.behind == 0) = some r := by decide +kernel
theorem witness_CapabilityJoinsAndRights_full :
    let pieces (k : Cap) := mk [] [(4, { k with count := 1 }), (5, { k with count := 0x7FFF })]
    let full (k : Cap) : Prop := countable ((pieces k).k 4) ((pieces k).k 5) = true ∧ ((pieces k).k 4).count + ((pieces k).k 5).count = 32768
    full { buf with kind := 2, rights := 0x21 } ∧ full { buf with kind := 3, rights := 0x29 } ∧ full { buf with kind := 5, rights := 0x05 } ∧ full { window with kind := 6 }
    ∧ ((pieces { window with kind := 6 }).k 4).kind = 6 := by
  refine ⟨⟨?_, ?_⟩, ⟨?_, ?_⟩, ⟨?_, ?_⟩, ⟨?_, ?_⟩, ?_⟩ <;> decide +kernel
theorem witness_Versions_private :
    let s : State := { owner [] with regions := [(regionKey buf, { Region.reset with live := true, base := 0x4000, length := 0x1000, world := 1, versions := [{ num := 0, handles := 0 }] })] }
    let r := regionOf s (s.k 6)
    openSteps s 1 6 0x83 = .ok () ∧ r.mayOpen = true ∧ Inv s ∧ Map.wf 0 s.tags = true ∧ r.versions.any (·.num == r.latest) = true
    ∧ (∀ v ∈ r.versions, v.num % 2 ^ 32 ≠ (r.latest + 1) % 2 ^ 32) := by decide +kernel
theorem witness_VectorFormats_given :
    let s := viewer [(8, 0xFFFF), (9, 0)]
    popcount 128 ((s.wn (8 * (1 : VReg).toNat)).toNat + 2 ^ 64 * (s.wn (8 * (1 : VReg).toNat + 1)).toNat) ≤ 384 / fmtWidth 0x28 ∧ sparseFmt 0x28 = true
    ∧ MayEnter s (max (max (max (topV 8) (topV 8)) (max (topV 8) (topOf [127]))) (max (topRun 8 (blockGroups 0x28 .f32)) (topRun 8 (blockGroups 0x28 .f32)))) ∧ blockFmt 0x30 = true
    ∧ denseFmt 0x30 = false := by decide +kernel
theorem witness_VectorFormats_fits : fitsAt 0x30 127 (.ofInt 448) ∧ ¬fitsAt 0x30 127 (.ofInt 449) := by
  unfold fitsAt
  decide +kernel
theorem witness_RingEnds_locks :
    let s := ringed (ring0 false 4 []) [(8, 1)]
    let k := { buf with rights := 0x33 }
    ringLocked s s.cur.ctx (portOf (s.k 2)) = false ∧ ringLocked (lockAt 0x4FF8 8 s) s.cur.ctx (portOf (s.k 2)) = true ∧ ringLocked (lockAt 0x5000 8 s) s.cur.ctx (portOf (s.k 2)) = false
    ∧ recvEndSteps (lockAt 0x4FF8 8 s) (s.k 2) = .ok () ∧ lockedOut (mk [] [(2, k)]) 0 port0 0x1000 = false
    ∧ (let z : State := { s with rings := [], launches := [(1, { launch1 with stage := .saved, savedRings := [(port0, ring0 false 4 [])] })] }
       genOk z (z.k 3) = true ∧ farEnd z (z.k 3) = none ∧ pinned z z.cur.ctx (z.k 3) = false ∧ ringLocked z z.cur.ctx (portOf (z.k 3)) = false ∧ (z.k 3).count ≠ 32768
       ∧ (z.heldRing port0).live = true) := by decide +kernel
theorem witness_MessagesTravel_locks :
    let s := ringed (ring0 false 4 [slot1 .pending 0]) []
    let u := s.setPoison (coreLoc 0 0x4040) true
    let m := sending (ring0 false 1 []) (msg0 .untimed)
    ringLocked s s.cur.ctx port0 = false ∧ ringLocked (lockAt 0x4040 64 s) s.cur.ctx port0 = true ∧ recvEndSteps (lockAt 0x4040 64 s) ((lockAt 0x4040 64 s).k 2) = .ok ()
    ∧ slotStep s port0 (slot1 .pending 0) = .ok () ∧ slotStep u port0 (slot1 .pending 0) = .error (fltAt .poison 0 (coreLoc 0 0x4040)).lateOf
    ∧ ringEnded m (msg0 .untimed) = false ∧ slotLocked m (msg0 .untimed) = false ∧ slotLocked (lockAt 0x4000 64 m) (msg0 .untimed) = true
    ∧ ringAway (lockAt 0x4000 64 m) port0 = false ∧ lockedAny m port0 0x1000 = false ∧ lockedAny (lockAt 0x4000 64 m) port0 0x1000 = true
    ∧ topPayload 122 48 = 128 ∧ topPayload 127 0 = 128 ∧ InWindow s (topPayload 122 48) := by decide +kernel
theorem witness_TimedActors_locks :
    let s := acting (ring0 true 4 [slot1 .pending 0x30000000]) [] id
    let t := sending (ring0 true 1 []) { msg0 .timed with vrt := 0x30000000, colour := some false }
    ringLocked s s.cur.ctx port0 = false ∧ slotStep s port0 (slot1 .pending 0x30000000) = .ok () ∧ ringLocked (lockAt 0x4000 64 s) s.cur.ctx port0 = true
    ∧ ringEnded t { msg0 .timed with vrt := 0x30000000, colour := some false } = false
    ∧ slotLocked t { msg0 .timed with vrt := 0x30000000, colour := some false } = false ∧ slotLocked (lockAt 0x4000 64 t) { msg0 .timed with vrt := 0x30000000, colour := some false } = true
    ∧ copyLocked t 0 port0 (decide (2 ^ 47 ≤ port0)) Cap.null = false ∧ launch1.stage ≠ .closed := by decide +kernel

/-- An actor that has handled one message, with an undo record and a send of it, and a straggler before it. -/
def rolling1 : State :=
  let h := slot1 .handled 0x30000000
  let s0 := acting (ring0 true 4 [slot1 .pending 0x25000000, h]) [] id
  let e : SendLog := { vrt := 0x40000C05, during := 0x30000000, port := port0, kd := none, cap := Cap.null, live := true, recalled := false, tx := 0, slots := [] }
  s0.modMe fun x => { x with loft := { x.loft with
    checkpoints := [checkpointOf s0 0x30000000], sends := [e], undos := [{ vrt := 0x30000000, block := coreLoc 0 0x6000 / 64, tag := 5, bytes := List.replicate 64 7, slots := [] }] } }
theorem witness_TimedActors_rollback :
    let s := rolling1
    let x := s.me
    let undone (w : Nat) : Bool := (s.ring port0).slots.any fun h => taken s s.cur.ctx h && decide (0x25000000 ≤ h.vrt) && h.vrt == w
    AtIssue s ∧ mustRoll s = true ∧ timedPort s s.cur.ctx = some port0 ∧ hasPosted s s.cur.ctx = false ∧ rollLocked s s.cur.ctx port0 = false ∧ (x.loft.sends.any (·.refused)) = false
    ∧ pendingRoll s s.cur.ctx = some 0x25000000 ∧ undone 0x30000000 = true ∧ (x.loft.sends.map (·.vrt)).Nodup ∧ (∀ e ∈ x.loft.sends, e.live = true ∧ undone e.during = true)
    ∧ ((s.ring port0).slots.map (·.vrt)).Nodup ∧ slot1 .handled 0x30000000 ∈ (s.ring port0).slots ∧ (∀ u ∈ x.loft.undos, undone u.vrt = true ∧ u.bytes.length = 64)
    ∧ (x.loft.checkpoints.find? (·.vrt == 0x30000000)).isSome = true ∧ rollLocked (lockAt 0x6000 64 s) s.cur.ctx port0 = true := by decide +kernel
theorem witness_TimedActors_rollback_ends :
    let s (sends : List SendLog) := (acting (ring0 true 4 []) [] id).modMe fun x => { x with
      rolling := some 0x25000000, goal := some (checkpointOf (acting (ring0 true 4 []) [] id) 0x30000000), loft := { x.loft with sends := sends } }
    let e : SendLog := { vrt := 9, during := 1, port := port0, kd := none, cap := Cap.null, live := false, recalled := true, tx := 0, slots := [] }
    mustRoll (s []) = true ∧ pendingRoll (s []) 0 = none ∧ timedPort (s []) 0 = some port0 ∧ rollLocked (s []) 0 port0 = false ∧ ((s []).me.loft.sends.any fun e => !e.live) = false
    ∧ (s []).me.goal.isSome = true ∧ pendingRoll (s [e]) 0 = none ∧ ((s [e]).me.loft.sends.any fun e => !e.live) = true ∧ ((s [e]).me.loft.sends.any (·.refused)) = false := by decide +kernel
theorem witness_Gates_busy :
    let a (p : Nat) : Arrival := { ctx := 5, val := some 3, phase := p, at_ := 0, coords := arriver }
    let g (f : Gate → Gate) := gateOf (gated (gdesc 1) f []) 0 2
    let u := gated (gdesc 1) (fun x => { x with counted := [a 0] }) []
    gateBusy (g id) = false ∧ (g id).armed = true ∧ gateBusy (g fun x => { x with entered := true }) = true ∧ gateBusy (g fun x => { x with waiting := [a 0] }) = true
    ∧ gateBusy (g fun x => { x with desc := 0 }) = true ∧ gateBusy (g fun x => { x with desc := 0, released := [(0, 0)] }) = false
    ∧ 1 ≤ (((gateOf u 0 2).counted ++ (gateOf u 0 2).waiting).filter (·.phase == (gateOf u 0 2).phase)).length ∧ (gateDesc (gateOf u 0 2).desc).count = 1
    ∧ (((gateOf u 0 2).counted ++ (gateOf u 0 2).waiting).filter (·.phase == (gateOf u 0 2).phase + 1)).length < 1 := by decide +kernel
theorem witness_QueuesAndMailboxes_flag :
    let s := copier 0 [(8, 0x40), (9, 0x80), (10, 64), (11, 0x78), (12, 0xC0)]
    (∀ p ∈ [(0x78, 0x6078), (0xC0, 0x60C0)], boundsStep s s.myCore s.me.world (s.k 3) p.1 8 = .ok p.2 ∧ alignStep (s.k 3) p.1 8 = .ok () ∧ (p.1 + 8 ≤ 0x80 ∨ 0x80 + 64 ≤ p.1))
    ∧ boundsStep s s.myCore s.me.world (s.k 3) 0xB8 8 = .ok 0x60B8 ∧ alignStep (s.k 3) 0xB8 8 = .ok () ∧ (0xB8 : Nat) < 0x80 + 64 ∧ (0x80 : Nat) < 0xB8 + 8 ∧ (s.k 3).kind ≠ 6
    ∧ s.wn ((8 : WReg).toNat + 3) = 0x78 ∧ (copySteps s (s.k 2) (s.k 3) (s.w 8).toNat (s.wn ((8 : WReg).toNat + 1)).toNat (s.wn ((8 : WReg).toNat + 2)).toNat).toOption = some (0x4040, 0x6080) := by
  decide +kernel
theorem witness_ChannelCommands_waiters :
    let x (st : Nat) (f : BitVec 8) : Channel := { Channel.reset with state := st, fcode := f, len := 64, mark := 64 }
    let s (st : Nat) (f : BitVec 8) : State := (setChan (copier 0 []) 0 7 (x st f)).setCtx 5 { tenant with state := .waiting, wait := .cond, latch := some { held0 with word := encode (.cpwait 7) } }
    (∀ p ∈ [(1, (0 : BitVec 8)), (2, 0x0C)], waitsChan (s p.1 p.2) 5 7 = true ∧ waitsChan (s p.1 p.2) 0 7 = false ∧ (chanOf (s p.1 p.2) 0 7).state ≠ 0
      ∧ (chanOf (s p.1 p.2) 0 7).fcode = p.2 ∧ (s p.1 p.2).cur.latched = false ∧ blockInFlight (s p.1 p.2) 0 7 = false ∧ Free (s p.1 p.2) ∧ ((s p.1 p.2).ctx 5).latch.isSome = true)
    ∧ 5 ∈ ctxsOfCore 0 ∧ 64 ∉ ctxsOfCore 0 := by decide +kernel
theorem witness_HitchForms_again :
    let h := { hitch4 with attach := [(0, .attached), (1, .detaching)], line := [(0, [2]), (70, [1])] }
    let v : State := { (hitched [(126, 0x2)]).setCtx 70 { tenant with state := .waiting, wait := .cond, latch := some { held0 with word := encode (.hjoin 2 126) } } with hitches := [h] }
    v.me.state = .ready ∧ behindOther v (h.without v.cur.ctx) [1] = true ∧ behindOther v h [1] = false ∧ memberSet (v.wn 126) (v.wn 127) = [1] := by decide +kernel
theorem witness_EventsAndRecords_lock :
    lockedAny (recorded []) port0 ((recorded []).ring port0).length = false ∧ lockedAny (lockAt 0x4000 64 (recorded [])) port0 0x1000 = true := by decide +kernel
theorem witness_ContextCommands_image :
    let m := (((at0 tenant).setCtx 0 Ctx.reset).writeLe (physLoc 0x1000) 8 0x11000).writeLe (physLoc 0x1048) 8 0x82
    (imageRead m 0 0x1000).2 = true ∧ (imageRead (m.setPoison (physLoc 0x1040) true) 0 0x1000).2 = false ∧ (m.ctx 7).state = .absent
    ∧ m.poisoned (physLoc 0x1040) = false ∧ badSeal m 1 (physLoc 0x1040) = false := by decide +kernel
theorem witness_WorkQueues_refused :
    let l := { launch1 with feed := true }
    let s := { serving with launches := [(1, l)] }
    let u := { serving with launches := [(1, { l with feed := false })] }
    takes s 3 = true ∧ namedLaunch s 3 (wqe 2 49 1 7) = some (1, l) ∧ 48 < (wqe 2 49 1 7).len.toNat ∧ namedLaunch s 3 { wqe 2 48 1 7 with resv := 1 } = some (1, l)
    ∧ namedLaunch u 3 (wqe 2 48 1 7) = some (1, { l with feed := false }) ∧ namedLaunch s 3 (wqe 3 1 1 0) = some (1, l) ∧ (wqe 3 1 1 0).len ≠ 0
    ∧ (s.queue 3).world.toNat = 1 ∧ (s.tdi 1).state = .run ∧ (s.queue 3).entries = 64 ∧ (s.queue 3).entries ≤ ((64 : BitVec 64).setWidth 16 : BitVec 16).toNat
    ∧ ((63 : BitVec 64).setWidth 16 : BitVec 16).toNat < (s.queue 3).entries := by decide +kernel
theorem witness_MembersJoinAndLeave_sends :
    let leaving := { hitch4 with attach := [(3, .detaching)] }
    let s : State := { hitched [] with hitches := [leaving] }
    let busy : State := { s with txs := [(6, .ctx 0, 3)] }
    let q : Packet := { Packet.blank with type := 0x0E, data := 5, world := 1, hitch := 7, gen := 5, smem := 1, dmem := 3, drow := BitVec.ofNat 5 (s.row + 1) }
    let p : Packet := { Packet.blank with type := 0x0E, data := 5, world := 1, hitch := 7, gen := 5, smem := 3, dmem := 1, drow := BitVec.ofNat 5 s.row, dcol := BitVec.ofNat 5 s.col }
    (q.drow.toNat ≠ s.row ∨ q.dcol.toNat ≠ s.col) ∧ sendingHitch s q = some leaving ∧ groupBusy s leaving q.dmem.toNat = false ∧ sendingHitch busy q = some leaving
    ∧ groupBusy busy leaving q.dmem.toNat = true ∧ p.drow.toNat = s.row ∧ p.dcol.toNat = s.col ∧ (hitchFor s p).toOption = some leaving ∧ leaving.stage = .bound := by decide +kernel
theorem witness_MembersJoinAndLeave_gates :
    let d := gdesc 1
    let s : State := { hitched [] with hitches := [hitch4], barns := [(0, { Barn.reset with world := 1, launch := 1 })] }
    let a : Arrival := { ctx := 0, val := some 3, phase := 0, at_ := 0, coords := arriver }
    let u := setGate s 0 3 { Gate.reset with armed := true, desc := d, entered := true, counted := [a] }
    allEntered u 0 3 = true ∧ (∀ i ∈ hitchGateCores u hitch4, allEntered u i 3 = true) := by decide +kernel
theorem witness_RegisterWrites_unbound :
    let s := serving
    (s.queue 131071).world = 0 ∧ barBound s 0 (8 * 131071) = false ∧ barBound s 255 (8 * 131071) = false := by decide +kernel
/-! Words written out from the opcode map (R120 to R129) and the formats (R94 to R100), one for every instruction, and what they decode to. -/

/-- Whether each word decodes to the instruction beside it. -/
noncomputable def reads (l : List (InstWord × Instr)) : Bool := l.all fun p => decide (decode p.1 = .ok p.2)

/-- R120. -/
theorem test_words_scalar_integer_1 : reads [
    (0x010000000000000000000000, .nop),
    (0x0200935B1800000000000000, .add 73 86 99),
    (0x0201935B1800000000000000, .sub 73 86 99),
    (0x0202935B1800000000000000, .mul 73 86 99),
    (0x0203935B1800000000000000, .mulh 73 86 99),
    (0x0204935B1800000000000000, .mulhn 73 86 99),
    (0x0205935B1800000000000000, .div 73 86 99),
    (0x0206935B1800000000000000, .divn 73 86 99),
    (0x0207935B1800000000000000, .rem 73 86 99),
    (0x0208935B1800000000000000, .remn 73 86 99),
    (0x0300935B1800000000000000, .adds 73 86 99),
    (0x0301935B1800000000000000, .subs 73 86 99),
    (0x0302935B1800000000000000, .addsn 73 86 99),
    (0x0303935B1800000000000000, .subsn 73 86 99),
    (0x0400935B1800000000000000, .andB 73 86 99),
    (0x0401935B1800000000000000, .orB 73 86 99),
    (0x0402935B1800000000000000, .xorB 73 86 99),
    (0x0403935B1800000000000000, .andn 73 86 99),
    (0x0500935B1800000000000000, .shl 73 86 99),
    (0x0501935B1800000000000000, .shr 73 86 99),
    (0x0502935B1800000000000000, .sar 73 86 99),
    (0x0503935B1800000000000000, .rol 73 86 99),
    (0x0504935B1800000000000000, .ror 73 86 99),
    (0x060093580000000000000000, .clz 73 86)] = true := by decide +kernel
/-- R120. -/
theorem test_words_scalar_integer_2 : reads [
    (0x060193580000000000000000, .ctz 73 86),
    (0x060293580000000000000000, .popc 73 86),
    (0x060393580000000000000000, .brev 73 86),
    (0x060493580000000000000000, .bswap 73 86),
    (0x0700935B1800000000000000, .min 73 86 99),
    (0x0701935B1800000000000000, .max 73 86 99),
    (0x0702935B1800000000000000, .minn 73 86 99),
    (0x0703935B1800000000000000, .maxn 73 86 99),
    (0x0800935800009234567890AB, .addi 73 86 160753486696619),
    (0x0801935800009234567890AB, .andi 73 86 160753486696619),
    (0x0802935800009234567890AB, .ori 73 86 160753486696619),
    (0x0803935800009234567890AB, .xori 73 86 160753486696619),
    (0x080493580000000000000025, .shli 73 86 37),
    (0x080593580000000000000025, .shri 73 86 37),
    (0x080693580000000000000025, .sari 73 86 37),
    (0x090093580000000000000000, .mov 73 86),
    (0x0901920000009234567890AB, .movi 73 160753486696619),
    (0x0902935800000000000090AB, .movhi 73 86 37035),
    (0x0A0093580000000000000025, .sext 73 86 37),
    (0x0A0193580000000000000025, .zext 73 86 37),
    (0x0A02935B1F50000000000000, .sel 73 86 99 117),
    (0x0A03935B1800000000000000, .seq 73 86 99),
    (0x0A04935B1800000000000000, .slt 73 86 99),
    (0x0A05935B1800000000000000, .sltn 73 86 99)] = true := by decide +kernel
/-- R120. -/
theorem test_words_scalar_integer_3 : reads [
    (0x0B00935B1800000000000005, .addx 73 86 99 5)] = true := by decide +kernel
/-- R121. -/
theorem test_words_floating_point : reads [
    (0x200B935B1808000000000000, .fadd .f64 73 86 99 .rup),
    (0x201B935B1808000000000000, .fsub .f64 73 86 99 .rup),
    (0x202B935B1808000000000000, .fmul .f64 73 86 99 .rup),
    (0x203B935B1808000000000000, .fdiv .f64 73 86 99 .rup),
    (0x204B93580008000000000000, .fsqrt .f64 73 86 .rup),
    (0x205B935B1800000000000000, .fmin .f64 73 86 99),
    (0x206B935B1800000000000000, .fmax .f64 73 86 99),
    (0x207B93580000000000000000, .fabs .f64 73 86),
    (0x208B93580000000000000000, .fneg .f64 73 86),
    (0x210B935B1F58000000000000, .fma .f64 73 86 99 117 .rup),
    (0x211B935B1F58000000000000, .fms .f64 73 86 99 117 .rup),
    (0x212B935B1F58000000000000, .fnma .f64 73 86 99 117 .rup),
    (0x213B935B1F58000000000000, .fnms .f64 73 86 99 117 .rup),
    (0x229793580008000000000000, .cvt .f16 .n64 73 86 .rup),
    (0x234B93580008000000000000, .cvts .n8 .f64 73 86 .rup),
    (0x240B93580008000000000000, .fint .f64 73 86 .rup),
    (0x241B93580000000000000000, .fclass .f64 73 86),
    (0x250B935B1800000000000000, .fseq .f64 73 86 99),
    (0x251B935B1800000000000000, .fslt .f64 73 86 99),
    (0x252B935B1800000000000000, .fsle .f64 73 86 99),
    (0x253B935B1800000000000000, .fsun .f64 73 86 99)] = true := by decide +kernel
/-- R122. -/
theorem test_words_control_1 : reads [
    (0x3002015B1840000000000000, .skeq .s32 86 (.reg 99) 2),
    (0x3012015B1840000000000000, .skne .s32 86 (.reg 99) 2),
    (0x302201580050FFFFFFFFFFFE, .sklt .s32 86 (.imm 0xFFFFFFFFFFFE) 2),
    (0x3032015B1840000000000000, .skge .s32 86 (.reg 99) 2),
    (0x3042015B1840000000000000, .skgt .s32 86 (.reg 99) 2),
    (0x3052015B1840000000000000, .skle .s32 86 (.reg 99) 2),
    (0x306A015B1840000000000000, .skun .f32 86 (.reg 99) 2),
    (0x307A015B1840000000000000, .skor .f32 86 (.reg 99) 2),
    (0x380000000000FFFFFFFFFFEB, .br { disp := 0x1FFFFFFFFFFD, slot := 3 }),
    (0x380192000000FFFFFFFFFFEB, .call 73 { disp := 0x1FFFFFFFFFFD, slot := 3 }),
    (0x380201580000000000000000, .jr 86),
    (0x380393580000000000000000, .callr 73 86),
    (0x380401580000000000000000, .ret 86),
    (0x390001580000FFFFFFFFFFEB, .beqz 86 { disp := 0x1FFFFFFFFFFD, slot := 3 }),
    (0x390101580000FFFFFFFFFFEB, .bnez 86 { disp := 0x1FFFFFFFFFFD, slot := 3 }),
    (0x390201580000FFFFFFFFFFEB, .bltz 86 { disp := 0x1FFFFFFFFFFD, slot := 3 }),
    (0x390301580000FFFFFFFFFFEB, .bgez 86 { disp := 0x1FFFFFFFFFFD, slot := 3 }),
    (0x3A0001580000FFFFFFFFFFEB, .loop 86 { disp := 0x1FFFFFFFFFFD, slot := 3 }),
    (0x3A01015B1800FFFFFFFFFFEB, .incblt 86 99 { disp := 0x1FFFFFFFFFFD, slot := 3 }),
    (0x3B0092000380FFFFFFFFFFEB, .callk 73 7 { disp := 0x1FFFFFFFFFFD, slot := 3 }),
    (0x3B0101581800000000000000, .retk 86 3),
    (0x3B0200000380FFFFFFFFFFEB, .jk 7 { disp := 0x1FFFFFFFFFFD, slot := 3 }),
    (0x3C0000000000000000000000, .halt),
    (0x3C01000000000000567890AB, .sleep 1450741931)] = true := by decide +kernel
/-- R122. -/
theorem test_words_control_2 : reads [
    (0x3C0200000000000000000000, .yield)] = true := by decide +kernel
/-- R123. -/
theorem test_words_memory : reads [
    (0x400093B93400FFFFFFFFFFC0, .ldb 73 { k := 13, x := 100, xen := true, sh := 5, disp := 0xFFFFFFFFFFC0 }),
    (0x400193B93400FFFFFFFFFFC0, .ldh 73 { k := 13, x := 100, xen := true, sh := 5, disp := 0xFFFFFFFFFFC0 }),
    (0x400293B93400FFFFFFFFFFC0, .ldw 73 { k := 13, x := 100, xen := true, sh := 5, disp := 0xFFFFFFFFFFC0 }),
    (0x400393B93400FFFFFFFFFFC0, .ldd 73 { k := 13, x := 100, xen := true, sh := 5, disp := 0xFFFFFFFFFFC0 }),
    (0x400493B93400FFFFFFFFFFC0, .ldbs 73 { k := 13, x := 100, xen := true, sh := 5, disp := 0xFFFFFFFFFFC0 }),
    (0x400593B93400FFFFFFFFFFC0, .ldhs 73 { k := 13, x := 100, xen := true, sh := 5, disp := 0xFFFFFFFFFFC0 }),
    (0x400693B93400FFFFFFFFFFC0, .ldws 73 { k := 13, x := 100, xen := true, sh := 5, disp := 0xFFFFFFFFFFC0 }),
    (0x410093B93400FFFFFFFFFFC0, .stb 73 { k := 13, x := 100, xen := true, sh := 5, disp := 0xFFFFFFFFFFC0 }),
    (0x410193B93400FFFFFFFFFFC0, .sth 73 { k := 13, x := 100, xen := true, sh := 5, disp := 0xFFFFFFFFFFC0 }),
    (0x410293B93400FFFFFFFFFFC0, .stw 73 { k := 13, x := 100, xen := true, sh := 5, disp := 0xFFFFFFFFFFC0 }),
    (0x410393B93400FFFFFFFFFFC0, .std 73 { k := 13, x := 100, xen := true, sh := 5, disp := 0xFFFFFFFFFFC0 }),
    (0x420013B93400FFFFFFFFFFC0, .ldv 9 { k := 13, x := 100, xen := true, sh := 5, disp := 0xFFFFFFFFFFC0 }),
    (0x420113B93400FFFFFFFFFFC0, .stv 9 { k := 13, x := 100, xen := true, sh := 5, disp := 0xFFFFFFFFFFC0 }),
    (0x430093B93568FFFFFFFFFFC0, .stdf 73 { k := 13, x := 100, xen := true, sh := 5, disp := 0xFFFFFFFFFFC0 } 45),
    (0x430113B93568FFFFFFFFFFC0, .stvf 9 { k := 13, x := 100, xen := true, sh := 5, disp := 0xFFFFFFFFFFC0 } 45),
    (0x430213B93568FFFFFFFFFFC0, .wrep 9 { k := 13, x := 100, xen := true, sh := 5, disp := 0xFFFFFFFFFFC0 } 45),
    (0x440093B93400FFFFFFFFFFC0, .ldtag 73 { k := 13, x := 100, xen := true, sh := 5, disp := 0xFFFFFFFFFFC0 }),
    (0x440193B93400FFFFFFFFFFC0, .sttag 73 { k := 13, x := 100, xen := true, sh := 5, disp := 0xFFFFFFFFFFC0 }),
    (0x450001B93568FFFFFFFFFFC0, .lock { k := 13, x := 100, xen := true, sh := 5, disp := 0xFFFFFFFFFFC0 } 45),
    (0x450100000000000000000000, .unlock)] = true := by decide +kernel
/-- R124. -/
theorem test_words_capability : reads [
    (0x580012180000000000000000, .cmov 9 6),
    (0x580112180000000000000000, .cswap 9 6),
    (0x580200180000000000000000, .cdrop 6),
    (0x5900121B1800000000000001, .csplit 9 6 99 true),
    (0x590112180000000000000000, .cjoin 9 6),
    (0x5A00121B1800000000000000, .cnarrow 9 6 99),
    (0x5A010018000000000000012B, .crights 6 0x2B true),
    (0x5B0013B93400FFFFFFFFFFC0, .cstash 9 { k := 13, x := 100, xen := true, sh := 5, disp := 0xFFFFFFFFFFC0 }),
    (0x5B0113B93400FFFFFFFFFFC0, .cfetch 9 { k := 13, x := 100, xen := true, sh := 5, disp := 0xFFFFFFFFFFC0 }),
    (0x5C0092180000000000000004, .cinsp 73 6 4)] = true := by decide +kernel
/-- R125. -/
theorem test_words_atomic_and_version : reads [
    (0x600793B9356CFFFFFFFFFFC0, .aswap .n64 73 { k := 13, x := 100, xen := true, sh := 5, disp := 0xFFFFFFFFFFC0 } 45 true false),
    (0x601793B9356CFFFFFFFFFFC0, .aadd .n64 73 { k := 13, x := 100, xen := true, sh := 5, disp := 0xFFFFFFFFFFC0 } 45 true false),
    (0x602793B9356CFFFFFFFFFFC0, .aand .n64 73 { k := 13, x := 100, xen := true, sh := 5, disp := 0xFFFFFFFFFFC0 } 45 true false),
    (0x603793B9356CFFFFFFFFFFC0, .aor .n64 73 { k := 13, x := 100, xen := true, sh := 5, disp := 0xFFFFFFFFFFC0 } 45 true false),
    (0x604793B9356CFFFFFFFFFFC0, .axor .n64 73 { k := 13, x := 100, xen := true, sh := 5, disp := 0xFFFFFFFFFFC0 } 45 true false),
    (0x605793B9356CFFFFFFFFFFC0, .amax .n64 73 { k := 13, x := 100, xen := true, sh := 5, disp := 0xFFFFFFFFFFC0 } 45 true false),
    (0x606793B9356CFFFFFFFFFFC0, .amin .n64 73 { k := 13, x := 100, xen := true, sh := 5, disp := 0xFFFFFFFFFFC0 } 45 true false),
    (0x607793B9356CFFFFFFFFFFC0, .acas .n64 73 { k := 13, x := 100, xen := true, sh := 5, disp := 0xFFFFFFFFFFC0 } 45 true false),
    (0x611701B9356CFFFFFFFFFFC0, .redadd .n64 { k := 13, x := 100, xen := true, sh := 5, disp := 0xFFFFFFFFFFC0 } 45 true false),
    (0x612701B9356CFFFFFFFFFFC0, .redand .n64 { k := 13, x := 100, xen := true, sh := 5, disp := 0xFFFFFFFFFFC0 } 45 true false),
    (0x613701B9356CFFFFFFFFFFC0, .redor .n64 { k := 13, x := 100, xen := true, sh := 5, disp := 0xFFFFFFFFFFC0 } 45 true false),
    (0x614701B9356CFFFFFFFFFFC0, .redxor .n64 { k := 13, x := 100, xen := true, sh := 5, disp := 0xFFFFFFFFFFC0 } 45 true false),
    (0x615701B9356CFFFFFFFFFFC0, .redmax .n64 { k := 13, x := 100, xen := true, sh := 5, disp := 0xFFFFFFFFFFC0 } 45 true false),
    (0x616701B9356CFFFFFFFFFFC0, .redmin .n64 { k := 13, x := 100, xen := true, sh := 5, disp := 0xFFFFFFFFFFC0 } 45 true false),
    (0x620013C00000000000000000, .veropenRead 9 14),
    (0x620013C00000000000000001, .veropenPrivate 9 14),
    (0x620201C00000000000000000, .verclose 14),
    (0x620193C00000000000000000, .verpub 73 14)] = true := by decide +kernel
/-- R126. -/
theorem test_words_vector_1 : reads [
    (0x7000D600B5D0000000000046, .vadd { va := 6, mask := 5, ty := .f32, z := true, vd := 13, rm := .rdn, b := .reg 70 }),
    (0x7001D6B0B5C0000000000000, .vsub { va := 6, mask := 5, ty := .f32, z := true, vd := 13, rm := .rdn, b := .group 11 }),
    (0x7002D600B5E000003F800000, .vmul { va := 6, mask := 5, ty := .f32, z := true, vd := 13, rm := .rdn, b := .imm 0x3F800000 }),
    (0x7003D6B0B5C0000000000000, .vdiv { va := 6, mask := 5, ty := .f32, z := true, vd := 13, rm := .rdn, b := .group 11 }),
    (0x7004D6B0B440000000000000, .vmin { va := 6, mask := 5, ty := .f32, z := true, vd := 13, rm := .rne, b := .group 11 }),
    (0x7005D6B0B440000000000000, .vmax { va := 6, mask := 5, ty := .f32, z := true, vd := 13, rm := .rne, b := .group 11 }),
    (0x7006D600B440000000000000, .vabs { va := 6, mask := 5, ty := .f32, z := true, vd := 13, rm := .rne }),
    (0x7007D600B440000000000000, .vneg { va := 6, mask := 5, ty := .f32, z := true, vd := 13, rm := .rne }),
    (0x7008D600B5C0000000000000, .vsqrt { va := 6, mask := 5, ty := .f32, z := true, vd := 13, rm := .rdn }),
    (0x7100D6B9B5C0000000000000, .vfma { va := 6, mask := 5, ty := .f32, z := true, vd := 13, rm := .rdn, b := .group 11, vc := 9 }),
    (0x7101D6B9B5C0000000000000, .vfms { va := 6, mask := 5, ty := .f32, z := true, vd := 13, rm := .rdn, b := .group 11, vc := 9 }),
    (0x7102D6B9B5C0000000000000, .vfnma { va := 6, mask := 5, ty := .f32, z := true, vd := 13, rm := .rdn, b := .group 11, vc := 9 }),
    (0x7200D6B0A240000000000000, .vadds { va := 6, mask := 5, ty := .s16, z := true, vd := 13, rm := .rne, b := .group 11 }),
    (0x7201D6B0A240000000000000, .vsubs { va := 6, mask := 5, ty := .s16, z := true, vd := 13, rm := .rne, b := .group 11 }),
    (0x7300D6B0A240000000000000, .vand { va := 6, mask := 5, ty := .s16, z := true, vd := 13, rm := .rne, b := .group 11 }),
    (0x7301D6B0A240000000000000, .vor { va := 6, mask := 5, ty := .s16, z := true, vd := 13, rm := .rne, b := .group 11 }),
    (0x7302D6B0A240000000000000, .vxor { va := 6, mask := 5, ty := .s16, z := true, vd := 13, rm := .rne, b := .group 11 }),
    (0x7303D6B0A240000000000000, .vandn { va := 6, mask := 5, ty := .s16, z := true, vd := 13, rm := .rne, b := .group 11 }),
    (0x7304D6B0A240000000000000, .vshl { va := 6, mask := 5, ty := .s16, z := true, vd := 13, rm := .rne, b := .group 11 }),
    (0x7305D6B0A240000000000000, .vshr { va := 6, mask := 5, ty := .s16, z := true, vd := 13, rm := .rne, b := .group 11 }),
    (0x7306D6B0A240000000000000, .vsar { va := 6, mask := 5, ty := .s16, z := true, vd := 13, rm := .rne, b := .group 11 }),
    (0x740036B0B440000000000000, .vcmpeq { va := 6, mask := 5, ty := .f32, z := true, md := 3, b := .group 11 }),
    (0x740136B0B440000000000000, .vcmpne { va := 6, mask := 5, ty := .f32, z := true, md := 3, b := .group 11 }),
    (0x740236B0B440000000000000, .vcmplt { va := 6, mask := 5, ty := .f32, z := true, md := 3, b := .group 11 })] = true := by decide +kernel
/-- R126. -/
theorem test_words_vector_2 : reads [
    (0x740336B0B440000000000000, .vcmpge { va := 6, mask := 5, ty := .f32, z := true, md := 3, b := .group 11 }),
    (0x740436B0B440000000000000, .vcmpgt { va := 6, mask := 5, ty := .f32, z := true, md := 3, b := .group 11 }),
    (0x740536B0B440000000000000, .vcmple { va := 6, mask := 5, ty := .f32, z := true, md := 3, b := .group 11 }),
    (0x740636B0B440000000000000, .vcmpun { va := 6, mask := 5, ty := .f32, z := true, md := 3, b := .group 11 }),
    (0x740736B0B440000000000000, .vcmpor { va := 6, mask := 5, ty := .f32, z := true, md := 3, b := .group 11 }),
    (0x7505D600B5C0000000000001, .vcvt .n16 { va := 6, mask := 5, ty := .f32, z := true, vd := 13, rm := .rdn } 1 false),
    (0x7600D600B200000000000000, .vrsum .f16 13 6 5),
    (0x7601D600B200000000000000, .vrmax .f16 13 6 5),
    (0x7602D600B200000000000000, .vrmin .f16 13 6 5),
    (0x7700D6B0B200000000000000, .vperm .f16 13 6 11 5 false),
    (0x7701D600B200000000000013, .vbcast .f16 13 6 19 5 false),
    (0x7702D600B200000000000013, .vrot .f16 13 6 19 5 false),
    (0x7703D6B0B200000000000001, .vzip .f16 13 6 11 true 5 false),
    (0x7704D6B0B200000000000001, .vunzip .f16 13 6 11 true 5 false),
    (0x7705D6B0B200000000000000, .vsel .f16 13 6 (.group 11) 5),
    (0x780056301200000000000000, .mand .f16 5 6 3),
    (0x780156301200000000000000, .mor .f16 5 6 3),
    (0x780256301200000000000000, .mxor .f16 5 6 3),
    (0x780356001200000000000000, .mnot .f16 5 6),
    (0x78040600120000000000002B, .mpop .f16 43 6),
    (0x78050600120000000000002B, .mfirst .f16 43 6),
    (0x7900D0001200000000000756, .vins .f16 13 86 7),
    (0x790106001200000000000756, .vext .f16 86 6 7),
    (0x800013B92EB0FFFFFFFFFFC0, .vgath 9 { k := 13, x := 100, xen := true, sh := 3, disp := 0xFFFFFFFFFFC0 } 6 5)] = true := by decide +kernel
/-- R126. -/
theorem test_words_vector_3 : reads [
    (0x800113B92EB0FFFFFFFFFFC0, .vscat 9 { k := 13, x := 100, xen := true, sh := 3, disp := 0xFFFFFFFFFFC0 } 6 5),
    (0x810093B936C8FFFFFFFFFFC0, .lsum .f16 73 { k := 13, x := 100, xen := true, sh := 5, disp := 0xFFFFFFFFFFC0 } 5),
    (0x810193B936C8FFFFFFFFFFC0, .lmax .f16 73 { k := 13, x := 100, xen := true, sh := 5, disp := 0xFFFFFFFFFFC0 } 5),
    (0x810293B936C8FFFFFFFFFFC0, .lmin .f16 73 { k := 13, x := 100, xen := true, sh := 5, disp := 0xFFFFFFFFFFC0 } 5),
    (0x810393B936C8FFFFFFFFFFC0, .lscale .f16 73 { k := 13, x := 100, xen := true, sh := 5, disp := 0xFFFFFFFFFFC0 } 5)] = true := by decide +kernel
/-- R127. -/
theorem test_words_block_format_and_matrix : reads [
    (0xA024D309120000000000002B, .qnt 0x24 .f16 13 3 9 43),
    (0xA124D309120000000000002B, .qntg 0x24 .f16 13 3 9 43),
    (0xA22436001300000000000065, .dqnt 0x24 .f16 3 6 101 .rup),
    (0xA30013B93568FFFFFFFFFFC0, .ldvt 9 { k := 13, x := 100, xen := true, sh := 5, disp := 0xFFFFFFFFFFC0 } 45),
    (0xA30113B93568FFFFFFFFFFC0, .stvt 9 { k := 13, x := 100, xen := true, sh := 5, disp := 0xFFFFFFFFFFC0 } 45),
    (0xA400D6B0140000000000002B, .bdot 13 6 11 43),
    (0xA401D600000000000000F356, .bscale 13 6 86 0xF3),
    (0xB00003B93568FFFFFFFFFFC0, .accld 1 { k := 13, x := 100, xen := true, sh := 5, disp := 0xFFFFFFFFFFC0 } 45),
    (0xB00103B93568FFFFFFFFFFC0, .accst 1 { k := 13, x := 100, xen := true, sh := 5, disp := 0xFFFFFFFFFFC0 } 45),
    (0xB10002000000000000000000, .acczero 1),
    (0xB20002181F50000000000000, .mmd 1 6 3 117),
    (0xB20102181F50000000000000, .mms 1 6 3 117),
    (0xB20202181F50000000000000, .mmu 1 6 3 117),
    (0xB20302181F50000000000000, .mmus 1 6 3 117),
    (0xB30001580000000000000000, .ufcfg 86)] = true := by decide +kernel
/-- R128. -/
theorem test_words_message_timed_gate_and_queue_1 : reads [
    (0xC000001B1800000000000028, .send 6 99 40),
    (0xC001001B1850000000000028, .sendk 6 99 5 40),
    (0xC00292180050000000000000, .recv 73 6 5),
    (0xC00392180050000000000000, .tryrecv 73 6 5),
    (0xC100001B1800000000000000, .ringmk 6 99),
    (0xC101121B18000000000090AB, .ringsend 9 6 99 37035),
    (0xC10200180000000000000000, .ringfree 6),
    (0xD000001B1F50000000000028, .tsend 6 99 117 40),
    (0xD001121B1F50000000000028, .tsendk 9 6 99 117 40),
    (0xD00292180050000000000000, .trecv 73 6 5),
    (0xD10001580000000000000000, .ckpt 86),
    (0xD10100000000000000000000, .rollb),
    (0xD10213580000000000000000, .recall 9 86),
    (0xD10301581F50000000002800, .deferStore 86 3 117 40),
    (0xD10301581F50000000002801, .deferSend 86 3 117 40),
    (0xD10301580750000000002802, .deferNotify 86 117 40),
    (0xD20092000000000000000000, .gvtrd 73),
    (0xD20101580000000000000000, .gvtwait 86),
    (0xD80003580000000000000000, .garm 1 86),
    (0xD80102000000000000000000, .garr 1),
    (0xD80292080000000000000000, .gwait 73 2),
    (0xD80303580000000000000000, .garred 1 86),
    (0xD80492080000000000000000, .gtest 73 2),
    (0xD900001B1800000000000000, .hjoin 6 99)] = true := by decide +kernel
/-- R128. -/
theorem test_words_message_timed_gate_and_queue_2 : reads [
    (0xD901001B1800000000000000, .hdetach 6 99),
    (0xD90200180000000000000000, .hleave 6),
    (0xDA0003580000000000000000, .hpush 1 86),
    (0xDA0192080000000000000000, .hpop 73 2),
    (0xDA0292080000000000000000, .hpoll 73 2),
    (0xDA0303581850000000000000, .mbput 1 86 3 5),
    (0xDA0492180000000000000000, .mbget 73 6)] = true := by decide +kernel
/-- R129. -/
theorem test_words_system : reads [
    (0xE00002181F50000000000000, .cpstartCap 1 6 3 117),
    (0xE00002000750000000000001, .cpstartAddr 1 117),
    (0xE00102181F50000000000000, .cpmcast 1 6 3 117),
    (0xE00202000000000000000000, .cpwait 1),
    (0xE00392180000000000000000, .cpstat 73 6),
    (0xE00492180000000000000000, .cpwm 73 6),
    (0xE00502000000000000000000, .cpcancel 1),
    (0xF00092000000000000000013, .spr 73 19),
    (0xF00101580000000000000013, .spw 19 86),
    (0xF10000000000000000000000, .evret),
    (0xF20093580000000000000000, .fackReplay 73 86),
    (0xF20093580000000000000001, .fackSkip 73 86),
    (0xF20093580000000000000002, .fackTerminate 73 86),
    (0xF30093580000000000000000, .ctxstop 73 86),
    (0xF30193580000000000000000, .ctxgo 73 86),
    (0xF400015B1800000000000000, .xinvEntry 86 99),
    (0xF400015B1800000000000001, .xinvAsid 86 99),
    (0xF400015B1800000000000002, .xinvAll 86 99),
    (0xF40101580000000000000000, .xreplay 86),
    (0xF50093580000000000000000, .slotr 73 86),
    (0xF60092180000000000000000, .wipe 73 6)] = true := by decide +kernel
/-! Well-formedness: for each check a term that it refuses. -/

/-- A memory operand with a reserved scale, and one with an index that is not used (R95). -/
def badScale : MemOp := { k := 1, x := 0, xen := true, sh := 7, disp := 0 }
def badIndex : MemOp := { k := 1, x := 1, xen := false, sh := 0, disp := 0 }
/-- A lane operand of FP32 elements. -/
def vb (b : BOp) (t : Ty) (rm : Rm) : VBin := { vd := 1, va := 2, b := b, mask := 0, ty := t, rm := rm, z := false }
def vu (t : Ty) (rm : Rm) : VUn := { vd := 1, va := 2, mask := 0, ty := t, rm := rm, z := false }
def vt (b : BOp) (t : Ty) : VTer := { vd := 1, va := 2, b := b, vc := 3, mask := 0, ty := t, rm := .rne, z := false }
def vc (b : BOp) (t : Ty) : VCmp := { md := 1, va := 2, b := b, mask := 0, ty := t, z := false }
/-- An FP32 immediate with a bit set above its 32 (R97, R145). -/
def wide : BitVec 48 := 0x100000000

/-- Whether every term of a list is refused. -/
def refused (l : List Instr) : Bool := l.all fun i => !i.wf

theorem test_wf_widths : refused [.sext 1 2 0, .sext 1 2 65, .zext 1 2 0, .zext 1 2 65, .addx 1 2 3 7] = true := by decide +kernel
theorem test_wf_conversions : refused [.cvt .f32 .f32 1 2 .rne, .cvt .s8 .s16 1 2 .rup, .cvts .f32 .s8 1 2 .rne, .cvts .s8 .s8 1 2 .rne, .cvts .s8 .s16 1 2 .rtz] = true := by decide +kernel
theorem test_wf_skips : refused [.skeq .s32 1 (.reg 2) 0, .skne .f32 1 (.imm wide) 1, .sklt .f64 1 (.imm wide) 1, .skge .s8 1 (.reg 2) 0, .skgt .bf16 1 (.imm wide) 1, .skle .n8 1 (.reg 2) 0,
    .skun .s32 1 (.reg 2) 1, .skun .f32 1 (.reg 2) 0, .skor .n64 1 (.reg 2) 1, .skor .f32 1 (.imm wide) 1] = true := by decide +kernel
theorem test_wf_branches : refused [.br { disp := 0, slot := 5 }, .call 1 { disp := 0, slot := 6 }, .beqz 1 { disp := 0, slot := 7 }, .bnez 1 { disp := 0, slot := 5 }, .bltz 1 { disp := 0, slot := 5 },
    .bgez 1 { disp := 0, slot := 5 }, .loop 1 { disp := 0, slot := 5 }, .incblt 1 2 { disp := 0, slot := 5 }, .callk 1 15 { disp := 0, slot := 0 }, .callk 1 2 { disp := 0, slot := 5 }, .retk 1 15,
    .jk 15 { disp := 0, slot := 0 }, .jk 1 { disp := 0, slot := 5 }] = true := by decide +kernel
theorem test_wf_memory : ([badScale, badIndex].all fun m => refused [.ldb 1 m, .ldh 1 m, .ldw 1 m, .ldd 1 m, .ldbs 1 m, .ldhs 1 m, .ldws 1 m, .stb 1 m, .sth 1 m, .stw 1 m, .std 1 m, .ldv 1 m, .stv 1 m,
    .stdf 1 m 2, .stvf 1 m 2, .wrep 1 m 2, .ldtag 1 m, .sttag 1 m, .lock m 1, .cstash 1 m, .cfetch 1 m, .aadd .s32 1 m 2 false false, .amax .s32 1 m 2 false false, .amin .s32 1 m 2 false false,
    .redadd .s32 m 2 false false, .redmax .s32 m 2 false false, .redmin .s32 m 2 false false, .vgath 1 m 2 0, .vscat 1 m 2 0, .lsum .f32 1 m 0, .lmax .f32 1 m 0, .lmin .f32 1 m 0, .lscale .f32 1 m 0,
    .ldvt 1 m 2, .stvt 1 m 2, .accld 1 m 2, .accst 1 m 2]) = true := by decide +kernel
theorem test_wf_capabilities : refused [.csplit 3 3 1 false, .cjoin 3 3, .cinsp 1 2 7] = true := by decide +kernel
theorem test_wf_atomics :
    let m : MemOp := { k := 1, x := 0, xen := false, sh := 0, disp := 0 }
    refused [.aswap .f32 1 m 2 false false, .aand .f64 1 m 2 false false, .aor .f32 1 m 2 false false, .axor .f32 1 m 2 false false, .acas .f64 1 m 2 false false, .redand .f32 m 2 false false,
      .redor .f64 m 2 false false, .redxor .f32 m 2 false false, .acas .s32 1 badScale 2 false false, .aswap .s32 1 badIndex 2 false false] = true := by decide +kernel
theorem test_wf_vectors : refused [.vdiv (vb (.group 3) .s32 .rne), .vsqrt (vu .n8 .rne), .vfma (vt (.group 3) .s32), .vfms (vt (.imm wide) .f32), .vfnma (vt (.group 3) .n64), .vdiv (vb (.imm wide) .f32 .rne)] = true := by
  decide +kernel
theorem test_wf_integer_lanes : refused (([.vadds, .vsubs, .vand, .vor, .vxor, .vandn, .vshl, .vshr, .vsar] : List (VBin → Instr)).flatMap fun f => [f (vb (.group 3) .f32 .rne), f (vb (.group 3) .s32 .rup)]) = true := by decide +kernel
theorem test_wf_compares :
    refused (([.vcmpun, .vcmpor] : List (VCmp → Instr)).map (· (vc (.group 3) .s32)) ++ ([.vcmpeq, .vcmpne, .vcmplt, .vcmpge, .vcmpgt, .vcmple] : List (VCmp → Instr)).map (· (vc (.imm wide) .f32))) = true := by decide +kernel
theorem test_wf_lanes : refused [.vadd (vb (.group 3) .s32 .rtz), .vadd (vb (.imm wide) .f64 .rne), .vmin (vb (.group 3) .f32 .rdn), .vabs (vu .f32 .rdn), .vneg (vu .f32 .rup), .vcvt .f32 (vu .f32 .rne) 0 false,
    .vcvt .s8 (vu .s32 .rne) 4 false, .vcvt .f32 (vu .s8 .rne) 0 true, .vcvt .s8 (vu .s16 .rup) 0 false, .vbcast .f64 1 2 8 0 false, .vsel .f32 1 2 (.imm wide) 0, .vins .s16 1 2 32, .vext .s16 1 2 32,
    .vgath 1 { k := 1, x := 0, xen := true, sh := 4, disp := 0 } 2 0] = true := by decide +kernel
theorem test_wf_blocks : refused [.qnt 0x00 .f32 1 2 0 3, .qnt 0x12 .s32 1 2 0 3, .qnt 0x12 .f32 1 15 0 3, .qnt 0x18 .f32 1 2 5 16, .qnt 0x18 .f32 1 2 0 8, .qntg 0x11 .f32 1 2 0 16, .dqnt 0x12 .e4m3 1 2 3 .rne,
    .dqnt 0x12 .f32 15 2 3 .rne, .dqnt 0xFF .f32 1 2 3 .rne] = true := by decide +kernel
theorem test_wf_messages : refused [.send 1 2 49, .sendk 1 2 3 63, .tsend 1 2 3 49, .tsendk 1 2 3 4 49, .deferStore 1 2 3 49, .deferSend 1 2 3 49, .deferNotify 1 2 49] = true := by decide +kernel
theorem test_wf_selectors : refused [.spr 1 0x07, .spr 1 0x1A, .spw 0x07 1, .spw 0xFF 1] = true := by decide +kernel

/-! Reserved and unassigned words are refused (R92, R93, R108, R117). -/

theorem test_words_refused :
    ([0x010000000000000000000001, 0x0C0000000000000000000000, 0x020900000000000000000000, 0xFF0000000000000000000000, 0x580020000000000000000000, 0x400000000000000100000000 + 2 ^ 48,
      0x700000001C00000000000000, 0x380000000000000000000005, 0x300A00000000000000000000] : List InstWord).all (fun w => decide (decode w = .error .illegal)) = true ∧ decode 0 = .error .zeroWord := by
  decide +kernel
/-! Single instructions, with what the spec's rules and worked examples give. -/

/-- What a register of the context at issue holds after an instruction; none where there is no next state. -/
def gives (i : Instr) (r : List (Nat × Word)) (n : Nat) : Option Word :=
  match exec i (mk r []) with
  | .next t => if t.me.fault = none then some (t.wn n) else none
  | _ => none

/-- R134, R59: sums wrap; the shift amount is the low 6 bits; R135: the borderline cases of division. -/
theorem test_integer : gives (.add 1 2 3) [(2, 0xFFFFFFFFFFFFFFFF), (3, 2)] 1 = some 1 ∧ gives (.sub 1 1 2) [(1, 0), (2, 1)] 1 = some 0xFFFFFFFFFFFFFFFF
    ∧ gives (.shl 1 2 3) [(2, 3), (3, 65)] 1 = some 6 ∧ gives (.sar 1 2 3) [(2, 0x8000000000000000), (3, 63)] 1 = some 0xFFFFFFFFFFFFFFFF
    ∧ gives (.adds 1 2 3) [(2, 0x7FFFFFFFFFFFFFFF), (3, 1)] 1 = some 0x7FFFFFFFFFFFFFFF ∧ gives (.subsn 1 2 3) [(2, 1), (3, 2)] 1 = some 0
    ∧ gives (.mulh 1 2 3) [(2, 0xFFFFFFFFFFFFFFFF), (3, 1)] 1 = some 0xFFFFFFFFFFFFFFFF ∧ gives (.mulhn 1 2 3) [(2, 0xFFFFFFFFFFFFFFFF), (3, 2)] 1 = some 1 := by decide +kernel
/-- The conversions that the text beside R142 works out. -/
theorem test_conversions : gives (.cvt .n8 .s32 1 2 .rne) [(2, 0xFFFFFFFF)] 1 = some 0xFF ∧ gives (.cvts .n8 .s32 1 2 .rne) [(2, 0xFFFFFFFF)] 1 = some 0
    ∧ gives (.cvt .s32 .f32 1 2 .rne) [(2, 0x4F32D05E)] 1 = some 0x7FFFFFFF ∧ gives (.cvt .e4m3 .f32 1 2 .rne) [(2, 0x447A0000)] 1 = some 0x7E := by decide +kernel
/-- Exact sums of FP32, and a product that overflows to infinity. -/
theorem test_floats : gives (.fadd .f32 1 2 3 .rne) [(2, 0x3F800000), (3, 0x40000000)] 1 = some 0x40400000
    ∧ gives (.fmul .f32 1 2 3 .rne) [(2, 0x7F000000), (3, 0x7F000000)] 1 = some 0x7F800000 ∧ gives (.fmul .f32 1 2 3 .rtz) [(2, 0x7F000000), (3, 0x7F000000)] 1 = some 0x7F7FFFFF
    ∧ gives (.fdiv .f64 1 2 3 .rne) [(2, 0x3FF0000000000000), (3, 0x4008000000000000)] 1 = some 0x3FD5555555555555 := by decide +kernel
/-- The words of the worked example of a call and a return, and of the worked example of an atomic. -/
theorem test_worked_words : decode 0x38010E000000000000000004 = .ok (.call 7 { disp := 0, slot := 4 }) ∧ decode 0x3804001C0000000000000000 = .ok (.ret 7)
    ∧ decode 0x60130A60AC32000000000040 = .ok (.aadd .s64 5 { k := 3, x := 2, xen := true, sh := 3, disp := 0x40 } 6 false true) := by decide +kernel

/-- The k1 of the worked example of a split, and the state of its first step. -/
def k1 : Cap := { Cap.null with world := 7, count := 0x8000, kind := 1, rights := 0x3B, length := 256, base := 0x01002000 }
def split1 : State := (mk [(2, 8192)] [(1, k1)]).modMe fun x => { x with world := 7 }
/-- What two capability registers hold after an instruction: kind, count and rights. -/
def capsAfter (i : Instr) (s : State) : Option (Nat × Nat × BitVec 8 × Nat × Nat × BitVec 8) :=
  match exec i s with
  | .next t => some ((t.k 1).kind.toNat, (t.k 1).count.toNat, (t.k 1).rights, (t.k 2).kind.toNat, (t.k 2).count.toNat, (t.k 2).rights)
  | _ => none
theorem test_split : capsAfter (.csplit 2 1 2 false) split1 = some (2, 24576, 0x31, 2, 8192, 0x31) := by decide +kernel
theorem test_join :
    capsAfter (.cjoin 1 2) ((mk [] [(1, { k1 with kind := 2, count := 24576, rights := 0x31 }), (2, { k1 with kind := 2, count := 8192, rights := 0x31 })]).modMe fun x => { x with world := 7 })
      = some (1, 0x8000, 0x3B, 0, 0, 0) := by decide +kernel

/-- R58: the bytes of a store, lowest first; R165: a byte load with sign extension. -/
theorem test_store_bytes : (match exec (.std 1 (at2 8)) (mk [(1, 0x1122334455667788)] [(2, buf)]) with
    | .next t => decide ((t.readByte (coreLoc 0 0x4008), t.readByte (coreLoc 0 0x400F), t.readByte (coreLoc 0 0x4010)) = (0x88, 0x11, 0))
    | _ => false) = true := by decide +kernel
theorem test_load_sign : (match exec (.ldbs 1 (at2 8)) ((mk [] [(2, buf)]).writeByte (coreLoc 0 0x4008) 0x80) with
    | .next t => decide (t.wn 1 = 0xFFFFFFFFFFFFFF80)
    | _ => false) = true := by decide +kernel
/-- R184 and the worked example of an atomic on owned memory of the context's own core: the old value 100 goes to w5. -/
theorem test_atomic : (match exec (.aadd .s64 5 { k := 2, x := 2, xen := true, sh := 3, disp := 0x40 } 6 false true)
      ((mk [(2, 3), (6, 0xFFFFFFFFFFFFFFE2)] [(2, { buf with rights := 0x3B })]).writeLe (coreLoc 0 0x4058) 8 100) with
    | .next t => decide (t.wn 5 = 100 ∧ t.readLe (coreLoc 0 0x4058) 8 = 70)
    | _ => false) = true := by decide +kernel
/-- R101: a compare-skip whose condition holds passes two slots and crosses its line. -/
theorem test_skip : (match exec (.skeq .s64 1 (.reg 2) 2) (mk [(1, 7), (2, 7)] []) with | .next t => t.me.pc == 129 | _ => false) = true
    ∧ (match exec (.skne .s64 1 (.reg 2) 2) (mk [(1, 7), (2, 7)] []) with | .next t => t.me.pc == 68 | _ => false) = true := by decide +kernel

end Sys2Proof.Tests
end

section
/-! Proofs of the statements about integer division (R135). -/

namespace Sys2Proof.Machine

/-! The rows of R135's table: what the model's quotients and remainders are. -/

theorem quotS_of_zero (a : Word) {b : Word} (hb : b = 0) : quotS a b = 0xFFFFFFFFFFFFFFFF := if_pos hb
theorem quotN_of_zero (a : Word) {b : Word} (hb : b = 0) : quotN a b = 0xFFFFFFFFFFFFFFFF := if_pos hb
theorem remS_of_zero (a : Word) {b : Word} (hb : b = 0) : remS a b = a := if_pos hb
theorem remN_of_zero (a : Word) {b : Word} (hb : b = 0) : remN a b = a := if_pos hb

/-- The one quotient that s64 cannot hold wraps to the dividend. -/
theorem quotS_intMin_neg_one {a b : Word} (ha : a.toInt = -(2 ^ 63)) (hb : b.toInt = -1) : quotS a b = a := by
  obtain rfl : a = BitVec.intMin 64 := BitVec.toInt_inj.mp ha
  obtain rfl : b = -1 := BitVec.toInt_inj.mp hb
  rfl

theorem remS_neg_one (a : Word) {b : Word} (hb : b.toInt = -1) : remS a b = 0 := by
  obtain rfl : b = -1 := BitVec.toInt_inj.mp hb
  simp [remS]

/-- Both sides reduce the exact quotient, rounded towards zero, to s64. -/
theorem quotS_eq_sdiv (a : Word) {b : Word} (hb : b ≠ 0) : quotS a b = a.sdiv b := by
  rw [quotS, if_neg hb, ← BitVec.toInt_inj, BitVec.toInt_ofInt, BitVec.toInt_sdiv]

theorem remS_eq_srem (a : Word) {b : Word} (hb : b ≠ 0) : remS a b = a.srem b := by
  rw [remS, if_neg hb, ← BitVec.toInt_srem, BitVec.ofInt_toInt]

theorem quotN_eq_udiv (a : Word) {b : Word} (hb : b ≠ 0) : quotN a b = a / b := by
  rw [quotN, if_neg hb, BitVec.udiv_def]

theorem remN_eq_umod (a : Word) {b : Word} (hb : b ≠ 0) : remN a b = a % b := by
  rw [remN, if_neg hb, BitVec.umod_def]

/-! What the four forms give, for all operands: they complete and change nothing but their register. -/

section
variable {s : State} {d a b : WReg} (h : InWindow s (topOf [d, a, b]))
include h

theorem gives_div : Gives (.div d a b) s d (quotS (s.w a) (s.w b)) := (gives_compute (exec_div d a b s) h :)
theorem gives_divn : Gives (.divn d a b) s d (quotN (s.w a) (s.w b)) := (gives_compute (exec_divn d a b s) h :)
theorem gives_rem : Gives (.rem d a b) s d (remS (s.w a) (s.w b)) := (gives_compute (exec_rem d a b s) h :)
theorem gives_remn : Gives (.remn d a b) s d (remN (s.w a) (s.w b)) := (gives_compute (exec_remn d a b s) h :)

end

/-- Settles O8: each form gives the model's quotient or remainder for all operands, and the rows of R135's table (a zero
divisor, the signed overflow, a divisor that is not zero) say which word that is. -/
theorem division : Obligations.Division := by
  intro s d a b h
  refine ⟨fun hb => ⟨?_, ?_, ?_, ?_⟩, fun ha hb => ⟨?_, ?_⟩, fun hb => ⟨?_, ?_, ?_, ?_⟩⟩
  · exact quotS_of_zero (s.w a) hb ▸ gives_div h
  · exact quotN_of_zero (s.w a) hb ▸ gives_divn h
  · exact remS_of_zero (s.w a) hb ▸ gives_rem h
  · exact remN_of_zero (s.w a) hb ▸ gives_remn h
  · exact quotS_intMin_neg_one ha hb ▸ gives_div h
  · exact remS_neg_one (s.w a) hb ▸ gives_rem h
  · exact quotS_eq_sdiv (s.w a) hb ▸ gives_div h
  · exact remS_eq_srem (s.w a) hb ▸ gives_rem h
  · exact quotN_eq_udiv (s.w a) hb ▸ gives_divn h
  · exact remN_eq_umod (s.w a) hb ▸ gives_remn h

end Sys2Proof.Machine
end

section
/-! Proofs of the statements about the forms refused in actors (R235) and about fault acknowledgement (R259, R263, R279). -/

namespace Sys2Proof.Machine

/-! Forms refused as ILLEGAL (R108). -/

/-- ILLEGAL comes first in the order of R108: what else the form checks does not matter. -/
theorem check_illegal {q : Req} (x : Ctx) (hq : q.illegal = true) : q.check x = some (flt .illegal) := if_pos hq

section
variable {s : State} (h : AtIssue s)
include h

theorem issue_illegal {q : Req} {body : State → Except FaultInfo State} (hq : q.illegal = true) : issue q body s = .next (raise s (flt .illegal)) :=
  issue_fault h (check_illegal s.me hq)

theorem faults_illegal {i : Instr} {q : Req} {body : State → Except FaultInfo State} (hi : exec i s = issue q body s) (hq : q.illegal = true) :
    Faults i s (flt .illegal) := hi.trans (issue_illegal h hq)

/-! The operations that several forms share. -/

theorem sendForm_illegal (ha : s.me.actor = true) (ka : KReg) (b : WReg) (kc : Option KReg) (len : Nat) :
    sendForm ka b kc len s = .next (raise s (flt .illegal)) := issue_illegal h ha
theorem recvForm_illegal (ha : s.me.actor = true) (tries : Bool) (d : WReg) (ka kc : KReg) :
    recvForm tries d ka kc s = .next (raise s (flt .illegal)) := by
  rw [recvForm]
  exact issue_illegal h ha
theorem arrive_illegal (ha : s.me.actor = true) (g : GReg) (v : State → Option Word) (top : Nat) :
    arrive g v top s = .next (raise s (flt .illegal)) := issue_illegal h ha
theorem tsendForm_illegal (hn : (!s.me.actor) = true) (ka : KReg) (b c : WReg) (kd : Option KReg) (len : Nat) :
    tsendForm ka b c kd len s = .next (raise s (flt .illegal)) := issue_illegal h hn

end

/-- Settles O36: each of the forms asks in its first check whether its context is an actor, and the ring forms whether it
has begun too; ILLEGAL then comes before every other fault. -/
theorem actorForms : Obligations.ActorForms := by
  intro s a b c d ka kb tag n g q mb ch h
  simp only [List.forall_mem_cons]
  refine ⟨fun ha => ⟨?irrevocable, fun hb => ?rings⟩, fun ha => ?timed⟩
  case irrevocable =>
    exact ⟨(exec_send ka b n s).trans (sendForm_illegal h ha ka b none _), (exec_sendk ka b kb n s).trans (sendForm_illegal h ha ka b (some kb) _),
      (exec_recv d ka kb s).trans (recvForm_illegal h ha false d ka kb), (exec_tryrecv d ka kb s).trans (recvForm_illegal h ha true d ka kb),
      faults_illegal h (exec_hpush q a s) ha, faults_illegal h (exec_hpop d q s) ha, faults_illegal h (exec_hpoll d q s) ha,
      faults_illegal h (exec_mbput mb a ka kb s) ha, faults_illegal h (exec_cpstartCap ch ka kb c s) ha,
      faults_illegal h (exec_cpstartAddr ch c s) ha, faults_illegal h (exec_cpmcast ch ka kb c s) ha, faults_illegal h (exec_cpcancel ch s) ha,
      faults_illegal h (exec_garm g a s) ha, (exec_garr g s).trans (arrive_illegal h ha g _ _), faults_illegal h (exec_gwait d g s) ha,
      (exec_garred g a s).trans (arrive_illegal h ha g _ _), faults_illegal h (exec_gtest d g s) ha, faults_illegal h (exec_hjoin ka b s) ha,
      faults_illegal h (exec_hdetach ka b s) ha, faults_illegal h (exec_hleave ka s) ha, List.forall_mem_nil _⟩
  case rings =>
    have hab : (s.me.actor && s.me.began) = true := Bool.and_eq_true_iff.mpr ⟨ha, hb⟩
    exact ⟨faults_illegal h (exec_ringmk ka b s) hab, faults_illegal h (exec_ringsend kb ka b tag s) hab, faults_illegal h (exec_ringfree ka s) hab,
      List.forall_mem_nil _⟩
  case timed =>
    have hn : (!s.me.actor) = true := by simp [ha]
    exact ⟨(exec_tsend ka b c n s).trans (tsendForm_illegal h hn ka b c none _),
      (exec_tsendk kb ka b c n s).trans (tsendForm_illegal h hn ka b c (some kb) _), faults_illegal h (exec_trecv d ka kb s) hn,
      faults_illegal h (exec_ckpt a s) hn, faults_illegal h (exec_rollb s) hn, faults_illegal h (exec_recall kb a s) hn,
      faults_illegal h (exec_deferStore a kb c n s) hn, faults_illegal h (exec_deferSend a kb c n s) hn, faults_illegal h (exec_deferNotify a c n s) hn,
      List.forall_mem_nil _⟩

/-! fack with a second cpwait on a stopped channel (R259, R279). -/

/-- A latch that holds an instruction for another try. -/
def retryLatch (word : InstWord) : Latch := { word := word, codept := 67, paired := false, replay := true, noWord := false, entry := none, ops := [] }

/-- The supervisor of core 0 (context 0) is at issue, and its register 1 holds 1. Channel 7 of the core has stopped at a block fault, which is
charged to context 1, of core rank 1; it is parked. Context 2 waits. The latches of both hold `word`. -/
def stoppedChannel (word : InstWord) : State :=
  let member : Ctx := { Ctx.reset with wsize := 16, launch := 1 }
  { State.reset with
    ctxs := [(0, { member with state := .ready, sup := true }),
      (1, { member with state := .parked, rank := 1, latch := some (retryLatch word) }),
      (2, { member with state := .waiting, wait := .cond, rank := 2, latch := some (retryLatch word) })]
    cores := [(0, { Core.reset with chans := vset Core.reset.chans 7 { Channel.reset with state := 2, fcode := 0x0C, charged := some 1 } })]
    regs := [(1, 1)] }

/-- The state of a context after an instruction. -/
def stateAfter (i : Instr) (s : State) (c : Nat) : Option CtxState :=
  match exec i s with
  | .next t => some (t.ctx c).state
  | _ => none
theorem stateAfter_of_next {i : Instr} {s t : State} (h : exec i s = .next t) (c : Nat) : stateAfter i s c = some (t.ctx c).state := by
  rw [stateAfter, h]

/-- The skip leaves the channel idle with its copy incomplete, and the cpwait of context 2 raises the fault in FCODE (R259). -/
theorem fackSkip_parks_waiter : stateAfter (.fackSkip 2 1) (stoppedChannel (encode (.cpwait 7))) 2 = some .parked := by decide +kernel

/-- Refutes O44: the clause for fackSkip leaves every context but the target and the issuer as it was, but a skip of a cpwait
that is charged with the fault of a stopped channel ends the cpwait of every other context on that channel with this fault
(R259, R279). -/
theorem not_supervisorForms : ¬ Obligations.SupervisorForms := by
  intro h
  let s := stoppedChannel (encode (.cpwait 7))
  obtain ⟨-, -, -, -, -, hrank⟩ := h s 1 2 (by decide +kernel)
  obtain ⟨-, -, htarget⟩ := hrank (by decide +kernel) (by decide +kernel) (by decide +kernel)
  obtain ⟨-, hacts⟩ := htarget 1 (by decide +kernel)
  obtain ⟨-, hskip, -⟩ := hacts (by decide) (by decide +kernel)
  obtain ⟨t, hexec, -, -, -, hothers, -⟩ := hskip (retryLatch (encode (.cpwait 7))) (by decide +kernel) rfl
  have hkept : t.ctx 2 = s.ctx 2 := hothers 2 (by decide) (by decide)
  have hparked : some (t.ctx 2).state = some .parked := (stateAfter_of_next hexec 2).symm.trans fackSkip_parks_waiter
  rw [hkept] at hparked
  exact absurd hparked (by decide +kernel)

end Sys2Proof.Machine
end
